-- ==== Sys2Proof/Word.lean ====
section
/-! DEFINITION. Words, bytes and the one sparse store used for every register file and every memory.
A store lists (key, value) pairs with keys strictly rising and no value equal to 0, which is what an
unlisted key reads as (log 1 for memory; 01 R18 and 02 R40 for registers). -/
namespace Sys2Proof

abbrev Byte := BitVec 8
abbrev W16 := BitVec 16
abbrev W32 := BitVec 32
abbrev W64 := BitVec 64
/-- A byte address or a table address, as the slice computes it. -/
abbrev Addr := BitVec 64

/-- A sparse store of `w`-bit values: an unlisted key reads 0. -/
abbrev Cells (w : Nat) := List (Nat × BitVec w)

namespace Cells
variable {w : Nat}

/-- The value at a key. -/
def get : Cells w → Nat → BitVec w
  | [], _ => 0
  | (a, v) :: t, k => if a = k then v else get t k

/-- The store without a key. -/
def erase (m : Cells w) (k : Nat) : Cells w := m.filter fun p => p.1 ≠ k

/-- Inserts a pair before the first greater key. -/
def ins : Cells w → Nat → BitVec w → Cells w
  | [], k, v => [(k, v)]
  | (a, x) :: t, k, v => if k < a then (k, v) :: (a, x) :: t else (a, x) :: ins t k v

/-- Writes a value; writing 0 removes the entry, so equal stores are equal lists. -/
def set (m : Cells w) (k : Nat) (v : BitVec w) : Cells w :=
  if v = 0 then erase m k else ins (erase m k) k v

/-- Writes consecutive values from a key upward. -/
def setList (m : Cells w) (k : Nat) : List (BitVec w) → Cells w
  | [] => m
  | v :: vs => setList (set m k v) (k + 1) vs

/-- Reads `n` consecutive values from a key upward. -/
def getList (m : Cells w) (k n : Nat) : List (BitVec w) := (List.range n).map fun i => get m (k + i)

/-- Keys strictly rising. -/
def sorted : Cells w → Bool
  | [] => true
  | [_] => true
  | (a, _) :: (b, y) :: t => decide (a < b) && sorted ((b, y) :: t)

/-- The canonical form: keys strictly rising and no listed value equal to 0. -/
def wf (m : Cells w) : Bool := sorted m && m.all fun p => decide (p.2 ≠ 0)

end Cells

/-- Little-endian bytes to a number (00 R7). -/
def leNat : List Byte → Nat
  | [] => 0
  | b :: t => b.toNat + 256 * leNat t

/-- The `n` little-endian bytes of a number (00 R7). -/
def leBytes : Nat → Nat → List Byte
  | 0, _ => []
  | n + 1, x => BitVec.ofNat 8 x :: leBytes n (x / 256)

/-- Bits `lo + n - 1 .. lo` of a number. -/
def bitsOf (x lo n : Nat) : Nat := x / 2 ^ lo % 2 ^ n

/-- A one-bit number. -/
def b2n (b : Bool) : Nat := if b then 1 else 0

/-- The bit of a truth value. -/
def b2w {w : Nat} (b : Bool) : BitVec w := if b then 1 else 0

/-- The element of a list of records whose key is `k`, or `d` without one. -/
def recGet {α : Type} (key : α → Nat) (d : α) (l : List α) (k : Nat) : α :=
  (l.find? fun x => key x == k).getD d

/-- Applies `f` to the records whose key is `k`. -/
def recUpd {α : Type} (key : α → Nat) (l : List α) (k : Nat) (f : α → α) : List α :=
  l.map fun x => if key x == k then f x else x

/-- Replaces the record with key `k`, or adds it at the end. -/
def recPut {α : Type} (key : α → Nat) (l : List α) (k : Nat) (x : α) : List α :=
  if l.any (fun y => key y == k) then recUpd key l k (fun _ => x) else l ++ [x]

/-- Number of 1 bits. -/
def popc {w : Nat} (x : BitVec w) : Nat := ((List.range w).filter fun i => x.getLsbD i).length

/-- Number of leading 0 bits. -/
def lzc {w : Nat} (x : BitVec w) : Nat := w - (if x = 0 then 0 else Nat.log2 x.toNat + 1)

/-- The set lanes of a mask, ascending. -/
def lanesOf (m : W32) : List Nat := (List.range 32).filter fun i => m.getLsbD i

/-- The mask of a predicate on lanes. -/
def maskOf (f : Nat → Bool) : W32 :=
  BitVec.ofNat 32 ((List.range 32).foldr (fun i acc => b2n (f i) + 2 * acc) 0)

end Sys2Proof
end

