-- ==== Sys2Proof/Config.lean ====
section
/-! DEFINITION. What one part fixes (00 R1, R4, R5) and the free values: constants without a body, of
which nothing can be proved (log 5, log 7). -/
namespace Sys2Proof

/-- The ordering codes of 00 R1, with PKGID codes of 23 R375. -/
inductive Part where
  | fn9400a | fn9400m | fn9200a
  deriving DecidableEq, Repr

namespace Part
/-- Dies of the package (00 R1). -/
def dies : Part → Nat
  | fn9200a => 2
  | _ => 4
/-- Bytes of main memory: 16 stacks of 64 GiB, the FN9200-A half (00 R5). -/
def hbmBytes : Part → Nat
  | fn9200a => 2 ^ 39
  | _ => 2 ^ 40
/-- PKGID ordering code (23 R375). -/
def code : Part → Nat
  | fn9400a => 1
  | fn9400m => 2
  | fn9200a => 3
/-- Yard ports: 9 for each die (00 R1, R4). -/
def ports (p : Part) : Nat := 9 * p.dies
/-- Die-to-die boundaries (00 R1). -/
def boundaries : Part → Nat
  | fn9200a => 1
  | _ => 4
end Part

/-- What a self-test finds (21 R341). -/
inductive TestResult where
  | transient | repaired | lasting
  deriving DecidableEq, Repr, Inhabited

namespace Config

/-- Cores of a die and paddocks of a core (00 R4). -/
def coresPerDie : Nat := 48
def paddocksPerCore : Nat := 4

/-- A free choice where the manual leaves two outcomes open (R56 stale source, R194 overlapping copy,
R186 old or new translation). The argument is the state's counter of free values. Log 5. -/
opaque freeBit : Nat → Bool

/-- The value of a transcendental function where the model's interval does not decide the rounding
(no operand is known to reach it). Log 9. -/
opaque hardCase : Nat → W32 → W32

/-- AES-256-GCM of R311: key, nonce, header, body to sealed bytes with the 16-byte tag. Log 7. -/
opaque gcmSeal : Nat → List Byte → List Byte → List Byte → List Byte
/-- The opening of a sealed image; none when the tag does not verify (R311). Log 7. -/
opaque gcmOpen : Nat → List Byte → List Byte → List Byte → Option (List Byte)
/-- The key of a context, drawn from the die's random source at its creation (R311). Log 7. -/
opaque contextKey : Nat → Nat → Nat
/-- SHA3-256 (R324, R370). Log 7. -/
opaque sha3 : List Byte → List Byte
/-- A die's verification of a firmware slot's signature, against the key whose digest is fused on the die (R370). Log 7. -/
opaque firmwareOk : Nat → List Byte → Bool
/-- A die's public key and its signatures; they depend on the measured firmware (R370, R371). Log 7. -/
opaque dieKey : Nat → List Byte → List Byte
opaque dieSign : Nat → List Byte → List Byte → List Byte
/-- What a sensor of a die reads, of its temperature or of the package's power (R375). The last argument is the
state's counter of free values. Log 44. -/
opaque sensor : Nat → Nat → Nat → BitVec 64

/-- The cycles that an access spends in a stage of the memory system (R361). Log 92. -/
opaque freeTime : Nat → BitVec 32
/-- The cycle counter of a die as its rails come up (R3). Log 93. -/
opaque clockStart : Nat → Nat → Nat

/-- A free choice among several (log 105). -/
opaque freeNat : Nat → Nat
/-- The ageing rate in 2^-8 that the monitors of a paddock report, of die, paddock and cycle (R344). Log 47. -/
opaque ageRate : Nat → Nat → Nat → Nat
/-- What a self-test that has run its time finds, of the state's counter of free values (R341). Log 105. -/
opaque testResult : Nat → TestResult
/-- The units of a die that the tests of bring-up's step 4 find faulty, of die and free values (R341, R343, R370). Log 105. -/
opaque bootFaults : Nat → Nat → List (TestUnit × TestResult)
/-- Spare rows of the banks of a core (R341). Log 105. -/
opaque bankSpares : Nat → Nat
/-- The HBM channel of an address of main memory (R343). Log 104. -/
opaque channelOf : Nat → Nat
/-- The core that holds the bank of a byte outside the shared memories (R341). Log 104. -/
opaque bankOf : Nat → Nat

/-- Which of the ports that serve takes a message from a node (R290, R339). Log 104. -/
opaque portOf : BitVec 16 → Nat
/-- The Yard switches on the way from the root of a window's tree to a member: home, members, member (R294). Log 43. -/
opaque redPath : BitVec 16 → List (BitVec 16) → BitVec 16 → List Nat
/-- Slots of a tree node beyond its first (R294). Log 43. -/
opaque treeSlots : Nat

end Config
end Sys2Proof
end

