-- ==== Sys2Proof/Syntax.lean ====
section
/-! DEFINITION. The instructions and steps of the part: one constructor per row of
spec/opcode_table.json. Rows with an instruction word carry its operands (03 R65-R75); rows without
one carry the unit they act on, or the message that brings them. -/
namespace Sys2Proof

abbrev SReg := BitVec 6
abbrev VReg := BitVec 8
abbrev KReg := BitVec 3
abbrev CReg := BitVec 4
abbrev TileReg := BitVec 4

/-- The predicate prefix `?kN` or `?!kN` (01 R21, 03 R59). -/
structure Pred where
  k : KReg := 0
  neg : Bool := false
  deriving DecidableEq, Repr

/-- The type codes of 03 R61, in code order. -/
inductive Ty where
  | none | n8 | n16 | n32 | n64 | i8 | i16 | i32 | i64 | f32 | f16 | bf16 | fb8 | fb5 | fb3 | cap
  deriving DecidableEq, Repr

/-- The conditions of 03 R62, in code order. -/
inductive Cond where
  | always | eq | ne | lt | ge | le | gt | uo | or_
  deriving DecidableEq, Repr

/-- The scopes of 03 R63, in code order. -/
inductive Scope where
  | core | quad | die | pkg | pod
  deriving DecidableEq, Repr

/-- The ordering suffixes of 03 R63, in code order. -/
inductive Ord where
  | plain | acq | rel | rmt
  deriving DecidableEq, Repr

/-- Operand B of an S3 word: a scalar, or IMM17 (03 R67). -/
inductive SrcB where
  | reg (r : SReg)
  | imm (i : BitVec 17)
  deriving DecidableEq, Repr

/-- The index of a memory operand (03 R69). -/
inductive Idx where
  | none
  | scalar (r : SReg)
  | vector (r : VReg)
  deriving DecidableEq, Repr

/-- The lane operation of a reduction (05 R127), in code order. -/
inductive RedOp where
  | add | min | max | and | or | xor
  deriving DecidableEq, Repr

/-- The operations of `atm` (11 R202), in code order. -/
inductive AtmOp where
  | add | and | or | xor | min | max | xchg | cas
  deriving DecidableEq, Repr

/-- The matrix shapes (15 R251), in code order. -/
inductive Shape where
  | single | pairH | pairV | quad
  deriving DecidableEq, Repr

/-- The field group of a copy word (03 R70) after the queue, scope and completion fields. -/
structure CpyFields where
  q : BitVec 6
  scope : Scope
  cmp : BitVec 5
  len : SReg
  cs : CReg
  cd : CReg
  deriving DecidableEq, Repr

/-- A Yard message as it arrives or leaves (17 R290); `payload` holds LEN bytes. -/
structure Msg where
  dst : W16 := 0
  src : W16 := 0
  type : Byte := 0
  ctl : Byte := 0
  grp : W16 := 0
  tag : W16 := 0
  gen : W16 := 0
  len : W16 := 0
  arg : W16 := 0
  payload : List Byte := []
  /-- The sending die: no field of the header, but the port by which the message left (22 R358, R359). -/
  die : Nat := 0
  /-- Offsets of the payload's bytes that carry a poison mark (21 R339). -/
  bad : List Nat := []
  /-- The port of this package by which it came in (17 R291). -/
  port : Nat := 0
  deriving DecidableEq, Repr

/-- A unit that a targeted self-test concerns (21 R341). -/
inductive TestUnit where
  | paddock (pdk : Nat)
  | bank (core : Nat)
  | channel (n : Nat)
  | port (n : Nat)
  deriving DecidableEq, Repr

inductive Instr where
  -- control, 04 R88-R95
  | br (c : Cond) (a b : SReg) (off : BitVec 26)
  | brS (c : Cond) (a b : SReg) (off : BitVec 26)
  | brKz (a : KReg) (off : BitVec 26)
  | brKnz (a : KReg) (off : BitVec 26)
  | brKf (a : KReg) (off : BitVec 26)
  | call (a : SReg) (off : BitVec 26)
  | ret (a : SReg)
  | loop (l : Bool) (a : SReg) (off : BitVec 26)
  | loopi (l : Bool) (count : BitVec 12) (off : BitVec 26)
  | rgn (sMask vMask : SReg)
  | exit (p : Pred)
  -- special registers, format, allotment, 04 R96-R100; handler registers, 13 R232-R236
  | rdsr (d : SReg) (n : BitVec 12)
  | rdsrV (p : Pred) (d : VReg) (n : BitVec 12)
  | wrsr (n : BitVec 12) (a : SReg)
  | frWrite (a : SReg)
  | lfmWrite (a : SReg)
  | lcWrite (l : Bool) (a : SReg)
  | fmt (imm : BitVec 24)
  | alloc (e : Byte)
  -- system, 04 R101-R103
  | trap (n : Byte)
  | sysc (n : W16)
  | syscAnswer (slice : Nat)
  | idleTimeout (slice : Nat)
  -- scalar, 04 R80-R83
  | sadd (d a : SReg) (b : SrcB)
  | ssub (d a : SReg) (b : SrcB)
  | smul (d a : SReg) (b : SrcB)
  | smulh (signed : Bool) (d a : SReg) (b : SrcB)
  | sdiv (signed : Bool) (d a : SReg) (b : SrcB)
  | srem (signed : Bool) (d a : SReg) (b : SrcB)
  | sand (d a : SReg) (b : SrcB)
  | sor (d a : SReg) (b : SrcB)
  | sxor (d a : SReg) (b : SrcB)
  | sshl (d a : SReg) (b : SrcB)
  | sshr (d a : SReg) (b : SrcB)
  | ssra (d a : SReg) (b : SrcB)
  | smin (signed : Bool) (d a : SReg) (b : SrcB)
  | smax (signed : Bool) (d a : SReg) (b : SrcB)
  | scmp (c : Cond) (signed : Bool) (d a : SReg) (b : SrcB)
  | ssel (d a b : SReg)
  | smov (d a : SReg)
  | sli (d : SReg) (imm : W32)
  | slih (d : SReg) (imm : W32)
  | sext (t : Ty) (d a : SReg)
  | sbfe (signed : Bool) (d a : SReg) (pos widthM1 : BitVec 6)
  | sbfi (d a : SReg) (pos widthM1 : BitVec 6)
  | spopc (d a : SReg)
  | sclz (d a : SReg)
  -- masks, 04 R84
  | kand (d a b : KReg)
  | kor (d a b : KReg)
  | kxor (d a b : KReg)
  | kandn (d a b : KReg)
  | knot (d a : KReg)
  | kmov (d a : KReg)
  | kmovImm (d : KReg) (imm : BitVec 17)
  | kmovFromScalar (d : KReg) (a : SReg)
  | kmovToScalar (d : SReg) (a : KReg)
  | kpopc (d : SReg) (a : KReg)
  | kfirst (d : SReg) (a : KReg)
  -- capabilities, 04 R85-R87
  | cset (d a : CReg) (b : SrcB)
  | coff (d a : CReg) (b : SrcB)
  | cperm (d a : CReg) (b : SrcB)
  | cgetBase (d : SReg) (a : CReg)
  | cgetLen (d : SReg) (a : CReg)
  | cgetGran (d : SReg) (a : CReg)
  | cgetSpace (d : SReg) (a : CReg)
  | cgetPerm (d : SReg) (a : CReg)
  | ctag (d : SReg) (a : CReg)
  | cmov (d a : CReg)
  -- vector integer, 05 R109-R112
  | vadd (p : Pred) (t : Ty) (d a b : VReg)
  | vsub (p : Pred) (t : Ty) (d a b : VReg)
  | vmul (p : Pred) (t : Ty) (d a b : VReg)
  | vmulh (p : Pred) (t : Ty) (d a b : VReg)
  | vmad (p : Pred) (t : Ty) (d a b c : VReg)
  | vand (p : Pred) (d a b : VReg)
  | vor (p : Pred) (d a b : VReg)
  | vxor (p : Pred) (d a b : VReg)
  | vshl (p : Pred) (t : Ty) (d a b : VReg)
  | vshr (p : Pred) (t : Ty) (d a b : VReg)
  | vsra (p : Pred) (t : Ty) (d a b : VReg)
  | vmin (p : Pred) (t : Ty) (d a b : VReg)
  | vmax (p : Pred) (t : Ty) (d a b : VReg)
  | vabs (p : Pred) (t : Ty) (d a : VReg)
  | vneg (p : Pred) (t : Ty) (d a : VReg)
  | vcmp (p : Pred) (c : Cond) (t : Ty) (k : KReg) (a b : VReg)
  | vsel (p : Pred) (d a b : VReg) (k : KReg)
  | vmov (p : Pred) (d a : VReg)
  | vli (p : Pred) (t : Ty) (d : VReg) (imm : BitVec 20)
  | vbcast (p : Pred) (t : Ty) (d : VReg) (a : SReg)
  | vclz (p : Pred) (t : Ty) (d a : VReg)
  | vpopc (p : Pred) (t : Ty) (d a : VReg)
  | vbfe (p : Pred) (t : Ty) (d a b c : VReg)
  -- vector float, 05 R113-R118
  | vfadd (p : Pred) (t : Ty) (d a b : VReg)
  | vfsub (p : Pred) (t : Ty) (d a b : VReg)
  | vfmul (p : Pred) (t : Ty) (d a b : VReg)
  | vfma (p : Pred) (t : Ty) (d a b c : VReg)
  | vfmin (p : Pred) (t : Ty) (d a b : VReg)
  | vfmax (p : Pred) (t : Ty) (d a b : VReg)
  | vfabs (p : Pred) (t : Ty) (d a : VReg)
  | vfneg (p : Pred) (t : Ty) (d a : VReg)
  | vfcmp (p : Pred) (c : Cond) (t : Ty) (k : KReg) (a b : VReg)
  | vfcls (p : Pred) (t : Ty) (d a : VReg)
  | vrcp (p : Pred) (t : Ty) (d a : VReg)
  | vrsq (p : Pred) (t : Ty) (d a : VReg)
  | vexp2 (p : Pred) (t : Ty) (d a : VReg)
  | vlog2 (p : Pred) (t : Ty) (d a : VReg)
  -- conversions, 05 R119-R122
  | vcvt (p : Pred) (t1 t2 : Ty) (d a : VReg)
  | vpack (p : Pred) (t1 t2 : Ty) (d a b : VReg)
  | vunpack (p : Pred) (t1 t2 : Ty) (d a : VReg) (h : Bool)
  | vqb (t1 : Ty) (d a b : VReg)
  | vdqb (p : Pred) (t2 : Ty) (d a : VReg) (h : Bool)
  -- cross-lane, 05 R123-R128
  | shf (p : Pred) (sl : Bool) (d : VReg) (kf : KReg) (a b : VReg)
  | shfUp (p : Pred) (sl : Bool) (d : VReg) (kf : KReg) (a : VReg) (b : SReg)
  | shfDn (p : Pred) (sl : Bool) (d : VReg) (kf : KReg) (a : VReg) (b : SReg)
  | shfX (p : Pred) (sl : Bool) (d : VReg) (kf : KReg) (a : VReg) (b : SReg)
  | voteAny (p : Pred) (sl : Bool) (d : SReg) (a : KReg)
  | voteAll (p : Pred) (sl : Bool) (d : SReg) (a : KReg)
  | voteBal (p : Pred) (sl : Bool) (d : SReg) (a : KReg)
  | vred (p : Pred) (sl : Bool) (op : RedOp) (t : Ty) (d a : VReg)
  | vscan (p : Pred) (sl : Bool) (op : RedOp) (t : Ty) (d a : VReg)
  -- vector immediate forms, 05 R108
  | vaddImm (p : Pred) (t : Ty) (d a : VReg) (imm : BitVec 20)
  | vmulImm (p : Pred) (t : Ty) (d a : VReg) (imm : BitVec 20)
  | vandImm (p : Pred) (d a : VReg) (imm : BitVec 20)
  | vorImm (p : Pred) (d a : VReg) (imm : BitVec 20)
  | vxorImm (p : Pred) (d a : VReg) (imm : BitVec 20)
  | vshlImm (p : Pred) (t : Ty) (d a : VReg) (imm : BitVec 20)
  | vshrImm (p : Pred) (t : Ty) (d a : VReg) (imm : BitVec 20)
  | vsraImm (p : Pred) (t : Ty) (d a : VReg) (imm : BitVec 20)
  | vminImm (p : Pred) (t : Ty) (d a : VReg) (imm : BitVec 20)
  | vmaxImm (p : Pred) (t : Ty) (d a : VReg) (imm : BitVec 20)
  | vcmpImm (p : Pred) (c : Cond) (t : Ty) (k : KReg) (a : VReg) (imm : BitVec 20)
  | vfaddImm (p : Pred) (t : Ty) (d a : VReg) (imm : BitVec 20)
  | vfmulImm (p : Pred) (t : Ty) (d a : VReg) (imm : BitVec 20)
  -- execute-vector, 08 R154-R162
  | xvStep (nt : Bool) (op w : VReg) (km : KReg)
  | xvRun (nt : Bool) (base w : VReg) (km : KReg) (n : SReg)
  | xvRetire (slice : Nat)
  | xvLdk (a : VReg)
  | xvClr (km : KReg)
  | xvPush (nt : Bool) (a : VReg) (km : KReg)
  | xvPop (nt : Bool) (d : VReg) (km : KReg)
  | xvDep (d : VReg)
  | xvStat (d : VReg)
  | xvSave (c : CReg) (x : SReg) (imm : BitVec 14)
  | xvLoad (c : CReg) (x : SReg) (imm : BitVec 14)
  -- loads, stores, fences, 11 R189-R200
  | ld (o : Ord) (sc : Scope) (t : Ty) (d : SReg) (c : CReg) (x : Idx) (off : BitVec 13)
  | st (o : Ord) (sc : Scope) (t : Ty) (d : SReg) (c : CReg) (x : Idx) (off : BitVec 13)
  | ldc (o : Ord) (sc : Scope) (d : CReg) (c : CReg) (x : Idx) (off : BitVec 13)
  | stc (o : Ord) (sc : Scope) (d : CReg) (c : CReg) (x : Idx) (off : BitVec 13)
  | ldV (p : Pred) (t : Ty) (d : VReg) (c : CReg) (x : Idx) (off : BitVec 13)
  | stV (p : Pred) (t : Ty) (d : VReg) (c : CReg) (x : Idx) (off : BitVec 13)
  | loadDataReturn (slice : Nat)
  | fence (o : Ord) (sc : Scope)
  -- copies, 11 R193-R199
  | cpy (f : CpyFields) (xs xd : SReg)
  | cpy2d (f : CpyFields) (xs xd : SReg)
  | cpyG (p : Pred) (f : CpyFields) (xs : VReg) (xd : SReg)
  | cpyS (p : Pred) (f : CpyFields) (xs : SReg) (xd : VReg)
  | cpyCommit (d : SReg)
  | cpyWait (n : SReg)
  | qfence (q : BitVec 6) (sc : Scope) (cmp : BitVec 5) (set : SReg)
  | queuePerformCommand (queue : Nat)
  | faultRecordPendingWrite (ctx : Nat)
  | commandComplete (cmd : Nat)
  -- atomics, 11 R201-R205
  | atm (p : Pred) (op : AtmOp) (o : Ord) (sc : Scope) (t : Ty) (d : VReg) (c : CReg) (x : Idx) (a : VReg)
  | atmBinc (p : Pred) (o : Ord) (sc : Scope) (t : Ty) (d : VReg) (c : CReg) (x : Idx) (a : VReg)
  | atmWinc (p : Pred) (o : Ord) (sc : Scope) (t : Ty) (d : VReg) (c : CReg) (x : Idx) (a : VReg)
  | atmCdec (p : Pred) (o : Ord) (sc : Scope) (t : Ty) (d : VReg) (c : CReg) (x : Idx)
  | atmFaddl (o : Ord) (sc : Scope) (d : SReg) (c : CReg) (x : Idx) (a : SReg)
  | fat (o : Ord) (sc : Scope) (t : Ty) (d : SReg) (c : CReg) (x : Idx) (a : SReg)
  | redF (o : Ord) (sc : Scope) (i : SReg) (c : CReg) (x : Idx) (a : SReg)
  | redFRetry (cmd : Nat)
  -- barriers, 11 R206-R210
  | barArr (sc : Scope) (n : BitVec 24)
  | barWait (sc : Scope) (n : BitVec 24)
  | bbExp (bb : BitVec 4) (a : SReg)
  | bbArr (d : SReg) (bb : BitVec 4)
  | bbArrDecl (d : SReg) (bb : BitVec 4)
  | bbArrLeave (d : SReg) (bb : BitVec 4)
  | bbWait (bb : BitVec 4) (p : SReg)
  -- matrix, 14 R246-R249, 15 R250-R266
  | mcfg (discard : Bool) (sh : Shape)
  | mperm (t : BitVec 3) (c : CReg) (x : SReg)
  | mlw (c : CReg) (x n : SReg)
  | mst (z : Bool) (t : TileReg) (c : CReg) (x r : SReg)
  | mzero (t : TileReg)
  | mrd (ty : Ty) (d : VReg) (t : TileReg) (row col : SReg)
  | mwr (ty : Ty) (t : TileReg) (a : VReg) (row col : SReg)
  | mout (c : CReg) (x : SReg) (t : TileReg) (r : SReg)
  | mmaskTree (t : TileReg) (p : VReg) (pre col0 : SReg)
  | matrixPerform (unit : Nat)
  | batTest (d : SReg)
  | kvc (z : Bool) (cmp : BitVec 5) (count : SReg) (stage cache : CReg) (pos accept rowBytes : SReg)
  -- tasks, 16 R275-R277, 17 R285-R288; debug marks, 22 R353
  | spawn (p : Pred) (d h x : SReg) (c : CReg) (len : BitVec 12) (cls : BitVec 2)
  | spawnRec (x : SReg) (c : CReg) (imm : BitVec 12)
  | tdone (p : Pred)
  | targ (p : Pred) (d : SReg) (off : BitVec 12)
  | launch (d x : SReg) (c : CReg) (imm : BitVec 12)
  | rinv (t ak : Bool) (node handler : SReg) (c : CReg) (imm : BitVec 12) (len status : SReg) (cls : BitVec 2)
  | tmark (tag : W16) (a : SReg)
  | rdpc (d : SReg)
  -- dispatch, scheduling, traps, saves, 13, 16, 17, 18, 21
  | taskRetireSignals (task : Nat)
  | stallTimerExpiry (stall : Nat)
  | invokeTake (die : Nat)
  | dispatch (die : Nat)
  | hang (slice : Nat)
  | trapServiceStart (unit : Nat)
  | hrdWrite (a : SReg)
  | hcapWrite (a : SReg)
  | hexeWrite (a : SReg)
  | swapOut (block : Nat)
  | lightSave (block : Nat)
  | preemptTimeout (block : Nat)
  | blockRestore (image : Nat)
  | duplexSwitch (pdk : Nat)
  | killQuiescence (ctx : Nat)
  | crewKill (block : Nat)
  | selfTestDone (unit : TestUnit) (r : TestResult)
  | flitCrcFail (port : Nat)
  | yardResend (n : Nat)
  | failover (die : Nat)
  | wearTick (die : Nat) (rates : List (Nat × Nat))
  | thermalDerate (die : Nat)
  | thermalRestore (die : Nat)
  | bringUp (finaliserOk : BitVec 4)
  | breakpointStop (slice : Nat)
  | stepEnd (block : Nat)
  -- 03 R76-R77, 04 R89, 23 R372, 21 R343
  | unassignedOpcode (opc : Byte)
  | fetchFault (slice : Nat)
  | hbmChannelResume (channel : Nat)
  -- words and steps without operands; a message or command step acts on the message in hand
  | nop
  | rgnEnd
  | gjoin
  | sexit
  | yield
  | free
  | tret
  | idle
  | hbrk
  | mswap
  | batTake
  | batGive
  | hctlHold
  | hctlMark
  | hctlUnmark
  | hctlKill
  | lifetimeRecordWrite
  | thermalShutdown
  | railFault
  | powerDown
  | write
  | read
  | data
  | fatm
  | red
  | reductionTreeNode
  | invoke
  | answer
  | launchMessage
  | inval
  | pageResp
  | marker
  | nack
  | barrier
  | status
  | attest
  | regrd
  | regwr
  | ctxwr
  | ctxkill
  | resideMake
  | resideEnd
  | switch
  | preemptBlock
  | preemptGrid
  | preemptContext
  | load
  | migrateExport
  | migrateImport
  | vdev
  | vdresClearResident
  | vdresSetResident
  | vdresReset
  | vdresSetLog
  | redwin
  | podjoin
  | sessionOpen
  | sessionConfigure
  | sessionResetQueue
  | sessionClose
  | debugStop
  | debugStep
  | debugContinue
  | debugKill
  | cutStart
  | cutContinue
  | cutEnd
  | replay
  | fwwrite
  | reset
  | mgmtUnknownCode
  deriving DecidableEq, Repr

end Sys2Proof
end

