-- ==== Sys2Proof/WellFormed.lean ====
section
/-! DEFINITION. What an instruction word may hold, apart from what the kernel header allows (03 R77
subcodes 4 to 6). Steps without a word are always well formed. -/
namespace Sys2Proof

namespace Ty
/-- The integer types of a vector lane (05 R109, type class I). -/
def isI : Ty → Bool
  | n8 | n16 | n32 | i8 | i16 | i32 => true
  | _ => false
/-- The unsigned integer types of a vector lane. -/
def isN : Ty → Bool
  | n8 | n16 | n32 => true
  | _ => false
/-- The signed integer types of a vector lane. -/
def isS : Ty → Bool
  | i8 | i16 | i32 => true
  | _ => false
/-- The float types (05 R115). -/
def isF : Ty → Bool
  | f32 | f16 | bf16 => true
  | _ => false
/-- `.n32` or `.i32`. -/
def isW32 : Ty → Bool
  | n32 | i32 => true
  | _ => false
/-- `.n64` or `.i64`. -/
def isW64 : Ty → Bool
  | n64 | i64 => true
  | _ => false
/-- 16-bit lane elements. -/
def isH16 : Ty → Bool
  | n16 | i16 | f16 | bf16 => true
  | _ => false
/-- 32-bit lane elements. -/
def isH32 : Ty → Bool
  | n32 | i32 | f32 => true
  | _ => false
/-- The block formats. -/
def isFb : Ty → Bool
  | fb8 | fb5 | fb3 => true
  | _ => false
end Ty

namespace Cond
/-- Conditions of an integer compare (04 R81, R88; 05 R111). -/
def isInt : Cond → Bool
  | eq | ne | lt | ge | le | gt => true
  | _ => false
end Cond

/-- PN without PK is `res0` (03 R59). -/
def Pred.ok (p : Pred) : Bool := p.k != 0 || !p.neg
/-- No predicate at all, for words that give none a meaning (03 R59). -/
def Pred.none (p : Pred) : Bool := p.k == 0 && !p.neg

namespace Idx
def isVector : Idx → Bool
  | vector _ => true
  | _ => false
end Idx

/-- SCP is `res0` without an ordering (03 R63). -/
def ordScope (o : Ord) (sc : Scope) : Bool := o != .plain || sc == .core

/-- Queue codes 1 to 31 are out of range (03 R70). -/
def queueOk (q : BitVec 6) : Bool := q == 0 || 32 ≤ q.toNat

/-- Type pairs of `vcvt` (05 R119). -/
def cvtOk (t1 t2 : Ty) : Bool := (t1.isI || t1.isF) && (t2.isI || t2.isF) && t1 != t2
/-- Type pairs of `vpack` (05 R120). -/
def packOk (t1 t2 : Ty) : Bool :=
  (t1.isH16 && t2.isH32) || ((t1 == .n8 || t1 == .i8) && (t2 == .n16 || t2 == .i16))

/-- The types of an `atm` access: 32 bits with a vector index, else 32 or 64 (11 R201). -/
def atmTyOk (x : Idx) (t : Ty) : Bool := t.isW32 || (t.isW64 && !x.isVector)
/-- Registers and predicate of an `atm` access: scalars without a predicate unless the index is a vector (R201). -/
def atmRegs (p : Pred) (x : Idx) (d a : VReg) : Bool :=
  if x.isVector then p.ok else p.none && decide (d.toNat < 64) && decide (a.toNat < 64)

/-- Numbered barriers of a level, the core level up to the most a header can declare (11 R206). -/
def barOk (sc : Scope) (n : Nat) : Bool :=
  match sc with
  | .core => decide (n < 15)
  | .quad | .die => decide (n < 8)
  | .pkg => decide (n < 4)
  | .pod => decide (n < 2)

/-- Format codes and table id of an `fr` image (07 R136, 04 R99). -/
def frCodesOk (x : Nat) : Bool := bitsOf x 0 4 < 8 && bitsOf x 4 4 < 8 && bitsOf x 8 4 < 8
def frPermOk (x : Nat) : Bool := bitsOf x 16 8 < 8

/-- Handler register numbers are examined by the handler only (04 R96). -/
def inHandlerRange (n : Nat) : Bool := 0x100 ≤ n && n ≤ 0x1FF

namespace Instr

/-- The encodable operands of each instruction with a word; `true` for steps without one. -/
def wf : Instr → Bool
  | br c a b _ => c.isInt || (c == .always && a == 0 && b == 0)
  | brS c _ _ _ => c.isInt
  | loop _ _ off => decide (1 ≤ off.toInt)
  | loopi _ _ off => decide (1 ≤ off.toInt)
  | exit p => p.ok
  | rdsr _ n => (n.toNat < 0x14 && n != 0) || inHandlerRange n.toNat
  | rdsrV p _ n => p.ok && (n.toNat < 0x14 || inHandlerRange n.toNat)
  | wrsr n _ => inHandlerRange n.toNat && n != 0x115 && n != 0x116 && n != 0x117
  | fmt imm => frCodesOk imm.toNat && frPermOk imm.toNat
  | scmp c _ _ _ _ => c.isInt
  | sext t _ _ => t.isI
  | sbfe _ _ _ pos w => pos.toNat + w.toNat + 1 ≤ 64
  | sbfi _ _ pos w => pos.toNat + w.toNat + 1 ≤ 64
  | vadd p t _ _ _ => p.ok && t.isI
  | vsub p t _ _ _ => p.ok && t.isI
  | vmul p t _ _ _ => p.ok && t.isI
  | vmulh p t _ _ _ => p.ok && t.isI
  | vmad p t _ _ _ _ => p.ok && t.isI
  | vand p _ _ _ => p.ok
  | vor p _ _ _ => p.ok
  | vxor p _ _ _ => p.ok
  | vshl p t _ _ _ => p.ok && t.isN
  | vshr p t _ _ _ => p.ok && t.isN
  | vsra p t _ _ _ => p.ok && t.isS
  | vmin p t _ _ _ => p.ok && t.isI
  | vmax p t _ _ _ => p.ok && t.isI
  | vabs p t _ _ => p.ok && t.isS
  | vneg p t _ _ => p.ok && t.isS
  | vcmp p c t _ _ _ => p.ok && c.isInt && t.isW32
  | vsel p _ _ _ _ => p.ok
  | vmov p _ _ => p.ok
  | vli p t _ _ => p.ok && (t == .none || t.isI || t.isF)
  | vbcast p t _ _ => p.ok && (t == .none || t == .n16 || t == .n8)
  | vclz p t _ _ => p.ok && t.isN
  | vpopc p t _ _ => p.ok && t.isN
  | vbfe p t _ _ _ _ => p.ok && t.isW32
  | vfadd p t _ _ _ => p.ok && t.isF
  | vfsub p t _ _ _ => p.ok && t.isF
  | vfmul p t _ _ _ => p.ok && t.isF
  | vfma p t _ _ _ _ => p.ok && t.isF
  | vfmin p t _ _ _ => p.ok && t.isF
  | vfmax p t _ _ _ => p.ok && t.isF
  | vfabs p t _ _ => p.ok && t.isF
  | vfneg p t _ _ => p.ok && t.isF
  | vfcmp p c t _ _ _ => p.ok && c != .always && t.isF
  | vfcls p t _ _ => p.ok && t.isF
  | vrcp p t _ _ => p.ok && t.isF
  | vrsq p t _ _ => p.ok && t.isF
  | vexp2 p t _ _ => p.ok && t.isF
  | vlog2 p t _ _ => p.ok && t.isF
  | vcvt p t1 t2 _ _ => p.ok && cvtOk t1 t2
  | vpack p t1 t2 _ _ _ => p.ok && packOk t1 t2
  | vunpack p t1 t2 _ _ _ => p.ok && packOk t2 t1
  | vqb t1 _ _ _ => t1.isFb
  | vdqb p t2 _ _ _ => p.ok && t2.isFb
  | shf p _ _ _ _ _ => p.ok
  | shfUp p _ _ _ _ _ => p.ok
  | shfDn p _ _ _ _ _ => p.ok
  | shfX p _ _ _ _ _ => p.ok
  | voteAny p _ _ _ => p.ok
  | voteAll p _ _ _ => p.ok
  | voteBal p _ _ _ => p.ok
  | vred p _ op t _ _ => p.ok && t.isH32 && (t != .f32 || op == .add || op == .min || op == .max)
  | vscan p _ op t _ _ => p.ok && t.isH32 && (t != .f32 || op == .add || op == .min || op == .max)
  | vaddImm p t _ _ _ => p.ok && t.isI
  | vmulImm p t _ _ _ => p.ok && t.isI
  | vandImm p _ _ _ => p.ok
  | vorImm p _ _ _ => p.ok
  | vxorImm p _ _ _ => p.ok
  | vshlImm p t _ _ _ => p.ok && t.isN
  | vshrImm p t _ _ _ => p.ok && t.isN
  | vsraImm p t _ _ _ => p.ok && t.isS
  | vminImm p t _ _ _ => p.ok && t.isI
  | vmaxImm p t _ _ _ => p.ok && t.isI
  | vcmpImm p c t _ _ _ => p.ok && c.isInt && t.isW32
  | vfaddImm p t _ _ _ => p.ok && t.isF
  | vfmulImm p t _ _ _ => p.ok && t.isF
  | xvStep _ _ w _ => w.toNat ≤ 252
  | xvRun _ _ w _ _ => w.toNat ≤ 252
  | ld o sc t _ _ x _ => (t.isI || t.isW64) && o != .rel && ordScope o sc && !x.isVector
  | st o sc t _ _ x _ => (t.isI || t.isW64) && (o == .plain || o == .rel) && ordScope o sc && !x.isVector
  | ldc o sc _ _ x _ => o != .rel && ordScope o sc && !x.isVector
  | stc o sc _ _ x _ => (o == .plain || o == .rel) && ordScope o sc && !x.isVector
  | ldV p t _ _ _ _ => p.ok && t.isI
  | stV p t _ _ _ _ => p.ok && t.isI
  | fence o _ => o != .plain
  | cpy f _ _ => queueOk f.q
  | cpy2d f _ _ => queueOk f.q && f.len.toNat ≤ 60
  | cpyG p f _ _ => p.ok && queueOk f.q
  | cpyS p f _ _ => p.ok && queueOk f.q
  | qfence q _ cmp _ => queueOk q && cmp.toNat < 16
  | atm p _ o sc t d _ x a => atmTyOk x t && atmRegs p x d a && ordScope o sc
  | atmBinc p o sc t d _ x a => (t == .n32 || (t == .n64 && !x.isVector)) && atmRegs p x d a && ordScope o sc
  | atmWinc p o sc t d _ x a => (t == .n32 || (t == .n64 && !x.isVector)) && atmRegs p x d a && ordScope o sc
  | atmCdec p o sc t d _ x => atmTyOk x t && atmRegs p x d 0 && ordScope o sc
  | atmFaddl o sc _ _ x _ => ordScope o sc && !x.isVector
  | fat o sc t _ _ x _ => (t.isW32 || t.isW64) && ordScope o sc && !x.isVector
  | redF o sc _ _ x _ => (o == .plain || o == .rel) && ordScope o sc && !x.isVector
  | barArr sc n => barOk sc n.toNat
  | barWait sc n => barOk sc n.toNat
  | bbExp bb _ => bb != 15
  | bbArr _ bb => bb != 15
  | bbArrDecl _ bb => bb != 15
  | bbArrLeave _ bb => bb != 15
  | bbWait bb _ => bb != 15
  | mst _ t _ _ _ => t.toNat < 12
  | mzero t => t.toNat < 12
  | mrd ty d t _ _ => (ty.isF || ty == .i32) && t.toNat < 12 && !((ty == .f32 || ty == .i32) && d == 255)
  | mwr ty t a _ _ => (ty.isF || ty == .i32) && t.toNat < 12 && !((ty == .f32 || ty == .i32) && a == 255)
  | mout _ _ t _ => t.toNat < 12
  | mmaskTree t _ _ _ => t.toNat < 12
  | spawn p _ _ _ _ len _ => p.ok && len.toNat % 16 == 0 && 16 ≤ len.toNat && len.toNat ≤ 240
  | spawnRec _ _ imm => imm.toNat % 16 == 0
  | tdone p => p.ok
  | targ p _ off => p.ok && off.toNat % 4 == 0 && off.toNat ≤ 252
  | launch _ _ _ imm => imm.toNat % 16 == 0
  | rinv _ _ _ _ _ imm _ _ _ => imm.toNat % 16 == 0
  | nop => true
  | brKz _ _ => true
  | brKnz _ _ => true
  | brKf _ _ => true
  | call _ _ => true
  | ret _ => true
  | rgn _ _ => true
  | rgnEnd => true
  | gjoin => true
  | sexit => true
  | yield => true
  | frWrite _ => true
  | lfmWrite _ => true
  | lcWrite _ _ => true
  | alloc _ => true
  | free => true
  | trap _ => true
  | tret => true
  | sysc _ => true
  | syscAnswer _ => true
  | idle => true
  | idleTimeout _ => true
  | hbrk => true
  | sadd _ _ _ => true
  | ssub _ _ _ => true
  | smul _ _ _ => true
  | smulh _ _ _ _ => true
  | sdiv _ _ _ _ => true
  | srem _ _ _ _ => true
  | sand _ _ _ => true
  | sor _ _ _ => true
  | sxor _ _ _ => true
  | sshl _ _ _ => true
  | sshr _ _ _ => true
  | ssra _ _ _ => true
  | smin _ _ _ _ => true
  | smax _ _ _ _ => true
  | ssel _ _ _ => true
  | smov _ _ => true
  | sli _ _ => true
  | slih _ _ => true
  | spopc _ _ => true
  | sclz _ _ => true
  | kand _ _ _ => true
  | kor _ _ _ => true
  | kxor _ _ _ => true
  | kandn _ _ _ => true
  | knot _ _ => true
  | kmov _ _ => true
  | kmovImm _ _ => true
  | kmovFromScalar _ _ => true
  | kmovToScalar _ _ => true
  | kpopc _ _ => true
  | kfirst _ _ => true
  | cset _ _ _ => true
  | coff _ _ _ => true
  | cperm _ _ _ => true
  | cgetBase _ _ => true
  | cgetLen _ _ => true
  | cgetGran _ _ => true
  | cgetSpace _ _ => true
  | cgetPerm _ _ => true
  | ctag _ _ => true
  | cmov _ _ => true
  | xvRetire _ => true
  | xvLdk _ => true
  | xvClr _ => true
  | xvPush _ _ _ => true
  | xvPop _ _ _ => true
  | xvDep _ => true
  | xvStat _ => true
  | xvSave _ _ _ => true
  | xvLoad _ _ _ => true
  | loadDataReturn _ => true
  | cpyCommit _ => true
  | cpyWait _ => true
  | queuePerformCommand _ => true
  | faultRecordPendingWrite _ => true
  | commandComplete _ => true
  | redFRetry _ => true
  | mcfg _ _ => true
  | mperm _ _ _ => true
  | mlw _ _ _ => true
  | mswap => true
  | matrixPerform _ => true
  | batTake => true
  | batGive => true
  | batTest _ => true
  | kvc _ _ _ _ _ _ _ _ => true
  | tmark _ _ => true
  | rdpc _ => true
  | taskRetireSignals _ => true
  | stallTimerExpiry _ => true
  | invokeTake _ => true
  | dispatch _ => true
  | hang _ => true
  | trapServiceStart _ => true
  | hctlHold => true
  | hctlMark => true
  | hctlUnmark => true
  | hctlKill => true
  | hrdWrite _ => true
  | hcapWrite _ => true
  | hexeWrite _ => true
  | swapOut _ => true
  | lightSave _ => true
  | preemptTimeout _ => true
  | blockRestore _ => true
  | duplexSwitch _ => true
  | killQuiescence _ => true
  | crewKill _ => true
  | selfTestDone _ _ => true
  | flitCrcFail _ => true
  | yardResend _ => true
  | failover _ => true
  | wearTick _ _ => true
  | lifetimeRecordWrite => true
  | thermalDerate _ => true
  | thermalRestore _ => true
  | thermalShutdown => true
  | railFault => true
  | bringUp _ => true
  | powerDown => true
  | breakpointStop _ => true
  | stepEnd _ => true
  | write => true
  | read => true
  | data => true
  | fatm => true
  | red => true
  | reductionTreeNode => true
  | invoke => true
  | answer => true
  | launchMessage => true
  | inval => true
  | pageResp => true
  | marker => true
  | nack => true
  | barrier => true
  | status => true
  | attest => true
  | regrd => true
  | regwr => true
  | ctxwr => true
  | ctxkill => true
  | resideMake => true
  | resideEnd => true
  | switch => true
  | preemptBlock => true
  | preemptGrid => true
  | preemptContext => true
  | load => true
  | migrateExport => true
  | migrateImport => true
  | vdev => true
  | vdresClearResident => true
  | vdresSetResident => true
  | vdresReset => true
  | vdresSetLog => true
  | redwin => true
  | podjoin => true
  | sessionOpen => true
  | sessionConfigure => true
  | sessionResetQueue => true
  | sessionClose => true
  | debugStop => true
  | debugStep => true
  | debugContinue => true
  | debugKill => true
  | cutStart => true
  | cutContinue => true
  | cutEnd => true
  | replay => true
  | fwwrite => true
  | reset => true
  | unassignedOpcode _ => true
  | fetchFault _ => true
  | mgmtUnknownCode => true
  | hbmChannelResume _ => true

end Instr
end Sys2Proof
end

