-- ==== Sys2Proof/Decode.lean ====
section
/-! DEFINITION. Decoding of instruction words and of arriving messages, and the encoder. The checks of
03 R77 are made in subcode order; an undecodable word answers its ILLOP subcode. -/
namespace Sys2Proof

/-- Format class V3 (03 R65), lowest field first. -/
structure FV3 where
  d : BitVec 8 := 0
  a : BitVec 8 := 0
  b : BitVec 8 := 0
  c : BitVec 8 := 0
  t2 : BitVec 4 := 0
  t1 : BitVec 4 := 0
  sub : BitVec 4 := 0
  deriving DecidableEq, Repr

/-- Reads the operand group as class V3. -/
def FV3.of (o : Nat) : FV3 where
  d := BitVec.ofNat 8 (o / 2 ^ 0)
  a := BitVec.ofNat 8 (o / 2 ^ 8)
  b := BitVec.ofNat 8 (o / 2 ^ 16)
  c := BitVec.ofNat 8 (o / 2 ^ 24)
  t2 := BitVec.ofNat 4 (o / 2 ^ 32)
  t1 := BitVec.ofNat 4 (o / 2 ^ 36)
  sub := BitVec.ofNat 4 (o / 2 ^ 40)

/-- The operand group of class V3. -/
def FV3.enc (f : FV3) : Nat := (f.d.toNat + 2 ^ 8 * (f.a.toNat + 2 ^ 8 * (f.b.toNat + 2 ^ 8 * (f.c.toNat + 2 ^ 8 * (f.t2.toNat + 2 ^ 4 * (f.t1.toNat + 2 ^ 4 * f.sub.toNat))))))

/-- Format class VI (03 R66), lowest field first. -/
structure FVI where
  d : BitVec 8 := 0
  a : BitVec 8 := 0
  imm : BitVec 20 := 0
  t : BitVec 4 := 0
  sub : BitVec 4 := 0
  deriving DecidableEq, Repr

/-- Reads the operand group as class VI. -/
def FVI.of (o : Nat) : FVI where
  d := BitVec.ofNat 8 (o / 2 ^ 0)
  a := BitVec.ofNat 8 (o / 2 ^ 8)
  imm := BitVec.ofNat 20 (o / 2 ^ 16)
  t := BitVec.ofNat 4 (o / 2 ^ 36)
  sub := BitVec.ofNat 4 (o / 2 ^ 40)

/-- The operand group of class VI. -/
def FVI.enc (f : FVI) : Nat := (f.d.toNat + 2 ^ 8 * (f.a.toNat + 2 ^ 8 * (f.imm.toNat + 2 ^ 20 * (f.t.toNat + 2 ^ 4 * f.sub.toNat))))

/-- Format class S3 (03 R67), lowest field first. -/
structure FS3 where
  d : BitVec 6 := 0
  a : BitVec 6 := 0
  b : BitVec 6 := 0
  t : BitVec 4 := 0
  sub : BitVec 4 := 0
  i : BitVec 1 := 0
  imm : BitVec 17 := 0
  deriving DecidableEq, Repr

/-- Reads the operand group as class S3. -/
def FS3.of (o : Nat) : FS3 where
  d := BitVec.ofNat 6 (o / 2 ^ 0)
  a := BitVec.ofNat 6 (o / 2 ^ 6)
  b := BitVec.ofNat 6 (o / 2 ^ 12)
  t := BitVec.ofNat 4 (o / 2 ^ 18)
  sub := BitVec.ofNat 4 (o / 2 ^ 22)
  i := BitVec.ofNat 1 (o / 2 ^ 26)
  imm := BitVec.ofNat 17 (o / 2 ^ 27)

/-- The operand group of class S3. -/
def FS3.enc (f : FS3) : Nat := (f.d.toNat + 2 ^ 6 * (f.a.toNat + 2 ^ 6 * (f.b.toNat + 2 ^ 6 * (f.t.toNat + 2 ^ 4 * (f.sub.toNat + 2 ^ 4 * (f.i.toNat + 2 ^ 1 * f.imm.toNat))))))

/-- Format class SL (03 R67, the long-immediate subform), lowest field first. -/
structure FSL where
  d : BitVec 6 := 0
  z : BitVec 6 := 0
  imm : BitVec 32 := 0
  deriving DecidableEq, Repr

/-- Reads the operand group as class SL. -/
def FSL.of (o : Nat) : FSL where
  d := BitVec.ofNat 6 (o / 2 ^ 0)
  z := BitVec.ofNat 6 (o / 2 ^ 6)
  imm := BitVec.ofNat 32 (o / 2 ^ 12)

/-- The operand group of class SL. -/
def FSL.enc (f : FSL) : Nat := (f.d.toNat + 2 ^ 6 * (f.z.toNat + 2 ^ 6 * f.imm.toNat))

/-- Format class BR (03 R68), lowest field first. -/
structure FBR where
  a : BitVec 6 := 0
  b : BitVec 6 := 0
  cond : BitVec 4 := 0
  l : BitVec 1 := 0
  z : BitVec 1 := 0
  off : BitVec 26 := 0
  deriving DecidableEq, Repr

/-- Reads the operand group as class BR. -/
def FBR.of (o : Nat) : FBR where
  a := BitVec.ofNat 6 (o / 2 ^ 0)
  b := BitVec.ofNat 6 (o / 2 ^ 6)
  cond := BitVec.ofNat 4 (o / 2 ^ 12)
  l := BitVec.ofNat 1 (o / 2 ^ 16)
  z := BitVec.ofNat 1 (o / 2 ^ 17)
  off := BitVec.ofNat 26 (o / 2 ^ 18)

/-- The operand group of class BR. -/
def FBR.enc (f : FBR) : Nat := (f.a.toNat + 2 ^ 6 * (f.b.toNat + 2 ^ 6 * (f.cond.toNat + 2 ^ 4 * (f.l.toNat + 2 ^ 1 * (f.z.toNat + 2 ^ 1 * f.off.toNat)))))

/-- Format class MEM (03 R69), lowest field first. -/
structure FMEM where
  r : BitVec 8 := 0
  c : BitVec 4 := 0
  x : BitVec 8 := 0
  xm : BitVec 2 := 0
  t : BitVec 4 := 0
  ord : BitVec 2 := 0
  scp : BitVec 3 := 0
  off : BitVec 13 := 0
  deriving DecidableEq, Repr

/-- Reads the operand group as class MEM. -/
def FMEM.of (o : Nat) : FMEM where
  r := BitVec.ofNat 8 (o / 2 ^ 0)
  c := BitVec.ofNat 4 (o / 2 ^ 8)
  x := BitVec.ofNat 8 (o / 2 ^ 12)
  xm := BitVec.ofNat 2 (o / 2 ^ 20)
  t := BitVec.ofNat 4 (o / 2 ^ 22)
  ord := BitVec.ofNat 2 (o / 2 ^ 26)
  scp := BitVec.ofNat 3 (o / 2 ^ 28)
  off := BitVec.ofNat 13 (o / 2 ^ 31)

/-- The operand group of class MEM. -/
def FMEM.enc (f : FMEM) : Nat := (f.r.toNat + 2 ^ 8 * (f.c.toNat + 2 ^ 4 * (f.x.toNat + 2 ^ 8 * (f.xm.toNat + 2 ^ 2 * (f.t.toNat + 2 ^ 4 * (f.ord.toNat + 2 ^ 2 * (f.scp.toNat + 2 ^ 3 * f.off.toNat)))))))

/-- Format class CPY (03 R70), lowest field first. -/
structure FCPY where
  cd : BitVec 4 := 0
  cs : BitVec 4 := 0
  xd : BitVec 8 := 0
  xs : BitVec 8 := 0
  len : BitVec 6 := 0
  cmp : BitVec 5 := 0
  scp : BitVec 3 := 0
  q : BitVec 6 := 0
  deriving DecidableEq, Repr

/-- Reads the operand group as class CPY. -/
def FCPY.of (o : Nat) : FCPY where
  cd := BitVec.ofNat 4 (o / 2 ^ 0)
  cs := BitVec.ofNat 4 (o / 2 ^ 4)
  xd := BitVec.ofNat 8 (o / 2 ^ 8)
  xs := BitVec.ofNat 8 (o / 2 ^ 16)
  len := BitVec.ofNat 6 (o / 2 ^ 24)
  cmp := BitVec.ofNat 5 (o / 2 ^ 30)
  scp := BitVec.ofNat 3 (o / 2 ^ 35)
  q := BitVec.ofNat 6 (o / 2 ^ 38)

/-- The operand group of class CPY. -/
def FCPY.enc (f : FCPY) : Nat := (f.cd.toNat + 2 ^ 4 * (f.cs.toNat + 2 ^ 4 * (f.xd.toNat + 2 ^ 8 * (f.xs.toNat + 2 ^ 8 * (f.len.toNat + 2 ^ 6 * (f.cmp.toNat + 2 ^ 5 * (f.scp.toNat + 2 ^ 3 * f.q.toNat)))))))

/-- Format class AT (03 R71), lowest field first. -/
structure FAT where
  d : BitVec 8 := 0
  c : BitVec 4 := 0
  x : BitVec 8 := 0
  xm : BitVec 2 := 0
  a : BitVec 8 := 0
  op : BitVec 3 := 0
  ord : BitVec 2 := 0
  scp : BitVec 3 := 0
  t : BitVec 4 := 0
  z : BitVec 2 := 0
  deriving DecidableEq, Repr

/-- Reads the operand group as class AT. -/
def FAT.of (o : Nat) : FAT where
  d := BitVec.ofNat 8 (o / 2 ^ 0)
  c := BitVec.ofNat 4 (o / 2 ^ 8)
  x := BitVec.ofNat 8 (o / 2 ^ 12)
  xm := BitVec.ofNat 2 (o / 2 ^ 20)
  a := BitVec.ofNat 8 (o / 2 ^ 22)
  op := BitVec.ofNat 3 (o / 2 ^ 30)
  ord := BitVec.ofNat 2 (o / 2 ^ 33)
  scp := BitVec.ofNat 3 (o / 2 ^ 35)
  t := BitVec.ofNat 4 (o / 2 ^ 38)
  z := BitVec.ofNat 2 (o / 2 ^ 42)

/-- The operand group of class AT. -/
def FAT.enc (f : FAT) : Nat := (f.d.toNat + 2 ^ 8 * (f.c.toNat + 2 ^ 4 * (f.x.toNat + 2 ^ 8 * (f.xm.toNat + 2 ^ 2 * (f.a.toNat + 2 ^ 8 * (f.op.toNat + 2 ^ 3 * (f.ord.toNat + 2 ^ 2 * (f.scp.toNat + 2 ^ 3 * (f.t.toNat + 2 ^ 4 * f.z.toNat)))))))))

/-- Format class XV (03 R72), lowest field first. -/
structure FXV where
  a : BitVec 8 := 0
  b : BitVec 8 := 0
  km : BitVec 3 := 0
  nt : BitVec 1 := 0
  s : BitVec 6 := 0
  cp : BitVec 4 := 0
  imm : BitVec 14 := 0
  deriving DecidableEq, Repr

/-- Reads the operand group as class XV. -/
def FXV.of (o : Nat) : FXV where
  a := BitVec.ofNat 8 (o / 2 ^ 0)
  b := BitVec.ofNat 8 (o / 2 ^ 8)
  km := BitVec.ofNat 3 (o / 2 ^ 16)
  nt := BitVec.ofNat 1 (o / 2 ^ 19)
  s := BitVec.ofNat 6 (o / 2 ^ 20)
  cp := BitVec.ofNat 4 (o / 2 ^ 26)
  imm := BitVec.ofNat 14 (o / 2 ^ 30)

/-- The operand group of class XV. -/
def FXV.enc (f : FXV) : Nat := (f.a.toNat + 2 ^ 8 * (f.b.toNat + 2 ^ 8 * (f.km.toNat + 2 ^ 3 * (f.nt.toNat + 2 ^ 1 * (f.s.toNat + 2 ^ 6 * (f.cp.toNat + 2 ^ 4 * f.imm.toNat))))))

/-- Format class MX (03 R73), lowest field first. -/
structure FMX where
  t : BitVec 4 := 0
  c1 : BitVec 4 := 0
  c2 : BitVec 4 := 0
  v : BitVec 8 := 0
  s1 : BitVec 6 := 0
  s2 : BitVec 6 := 0
  s3 : BitVec 6 := 0
  cmp : BitVec 5 := 0
  m : BitVec 1 := 0
  deriving DecidableEq, Repr

/-- Reads the operand group as class MX. -/
def FMX.of (o : Nat) : FMX where
  t := BitVec.ofNat 4 (o / 2 ^ 0)
  c1 := BitVec.ofNat 4 (o / 2 ^ 4)
  c2 := BitVec.ofNat 4 (o / 2 ^ 8)
  v := BitVec.ofNat 8 (o / 2 ^ 12)
  s1 := BitVec.ofNat 6 (o / 2 ^ 20)
  s2 := BitVec.ofNat 6 (o / 2 ^ 26)
  s3 := BitVec.ofNat 6 (o / 2 ^ 32)
  cmp := BitVec.ofNat 5 (o / 2 ^ 38)
  m := BitVec.ofNat 1 (o / 2 ^ 43)

/-- The operand group of class MX. -/
def FMX.enc (f : FMX) : Nat := (f.t.toNat + 2 ^ 4 * (f.c1.toNat + 2 ^ 4 * (f.c2.toNat + 2 ^ 4 * (f.v.toNat + 2 ^ 8 * (f.s1.toNat + 2 ^ 6 * (f.s2.toNat + 2 ^ 6 * (f.s3.toNat + 2 ^ 6 * (f.cmp.toNat + 2 ^ 5 * f.m.toNat))))))))

/-- Format class TK (03 R74), lowest field first. -/
structure FTK where
  s1 : BitVec 6 := 0
  s2 : BitVec 6 := 0
  s3 : BitVec 6 := 0
  s4 : BitVec 6 := 0
  c : BitVec 4 := 0
  cls : BitVec 2 := 0
  tr : BitVec 1 := 0
  ak : BitVec 1 := 0
  imm : BitVec 12 := 0
  deriving DecidableEq, Repr

/-- Reads the operand group as class TK. -/
def FTK.of (o : Nat) : FTK where
  s1 := BitVec.ofNat 6 (o / 2 ^ 0)
  s2 := BitVec.ofNat 6 (o / 2 ^ 6)
  s3 := BitVec.ofNat 6 (o / 2 ^ 12)
  s4 := BitVec.ofNat 6 (o / 2 ^ 18)
  c := BitVec.ofNat 4 (o / 2 ^ 24)
  cls := BitVec.ofNat 2 (o / 2 ^ 28)
  tr := BitVec.ofNat 1 (o / 2 ^ 30)
  ak := BitVec.ofNat 1 (o / 2 ^ 31)
  imm := BitVec.ofNat 12 (o / 2 ^ 32)

/-- The operand group of class TK. -/
def FTK.enc (f : FTK) : Nat := (f.s1.toNat + 2 ^ 6 * (f.s2.toNat + 2 ^ 6 * (f.s3.toNat + 2 ^ 6 * (f.s4.toNat + 2 ^ 6 * (f.c.toNat + 2 ^ 4 * (f.cls.toNat + 2 ^ 2 * (f.tr.toNat + 2 ^ 1 * (f.ak.toNat + 2 ^ 1 * f.imm.toNat))))))))

/-- Format class SYS (03 R75), lowest field first. -/
structure FSYS where
  r1 : BitVec 8 := 0
  r2 : BitVec 8 := 0
  sub : BitVec 4 := 0
  imm : BitVec 24 := 0
  deriving DecidableEq, Repr

/-- Reads the operand group as class SYS. -/
def FSYS.of (o : Nat) : FSYS where
  r1 := BitVec.ofNat 8 (o / 2 ^ 0)
  r2 := BitVec.ofNat 8 (o / 2 ^ 8)
  sub := BitVec.ofNat 4 (o / 2 ^ 16)
  imm := BitVec.ofNat 24 (o / 2 ^ 20)

/-- The operand group of class SYS. -/
def FSYS.enc (f : FSYS) : Nat := (f.r1.toNat + 2 ^ 8 * (f.r2.toNat + 2 ^ 8 * (f.sub.toNat + 2 ^ 4 * f.imm.toNat)))

/-- The header fields that decoding reads: generation 7, byte barriers and core barriers declared (03 R78). -/
structure Hdr where
  gen7 : Bool := false
  bb : Nat := 15
  cbar : Nat := 15
  deriving DecidableEq, Repr

namespace Ty
/-- The type with a code (03 R61). -/
def ofCode (x : BitVec 4) : Ty :=
  match x.toNat with
  | 0 => none | 1 => n8 | 2 => n16 | 3 => n32 | 4 => n64 | 5 => i8 | 6 => i16 | 7 => i32
  | 8 => i64 | 9 => f32 | 10 => f16 | 11 => bf16 | 12 => fb8 | 13 => fb5 | 14 => fb3 | _ => cap
/-- The code of a type (03 R61). -/
def code : Ty → BitVec 4
  | none => 0 | n8 => 1 | n16 => 2 | n32 => 3 | n64 => 4 | i8 => 5 | i16 => 6 | i32 => 7
  | i64 => 8 | f32 => 9 | f16 => 10 | bf16 => 11 | fb8 => 12 | fb5 => 13 | fb3 => 14 | cap => 15
end Ty

namespace Cond
/-- The condition with a code; codes 9 to 15 have none (03 R62). -/
def ofCode (x : BitVec 4) : Cond :=
  match x.toNat with
  | 0 => always | 1 => eq | 2 => ne | 3 => lt | 4 => ge | 5 => le | 6 => gt | 7 => uo | _ => or_
def defined (x : BitVec 4) : Bool := x.toNat ≤ 8
def code : Cond → BitVec 4
  | always => 0 | eq => 1 | ne => 2 | lt => 3 | ge => 4 | le => 5 | gt => 6 | uo => 7 | or_ => 8
end Cond

namespace Scope
/-- The scope with a code; codes 5 to 7 have none (03 R63). -/
def ofCode (x : Nat) : Scope :=
  match x with
  | 0 => core | 1 => quad | 2 => die | 3 => pkg | _ => pod
def code : Scope → Nat
  | core => 0 | quad => 1 | die => 2 | pkg => 3 | pod => 4
end Scope

namespace Ord
def ofCode (x : BitVec 2) : Ord :=
  match x.toNat with
  | 0 => plain | 1 => acq | 2 => rel | _ => rmt
def code : Ord → BitVec 2
  | plain => 0 | acq => 1 | rel => 2 | rmt => 3
end Ord

namespace RedOp
def ofCode (x : Nat) : RedOp :=
  match x with
  | 0 => add | 1 => min | 2 => max | 3 => and | 4 => or | _ => xor
def code : RedOp → Nat
  | add => 0 | min => 1 | max => 2 | and => 3 | or => 4 | xor => 5
end RedOp

namespace AtmOp
def ofCode (x : BitVec 3) : AtmOp :=
  match x.toNat with
  | 0 => add | 1 => and | 2 => or | 3 => xor | 4 => min | 5 => max | 6 => xchg | _ => cas
def code : AtmOp → BitVec 3
  | add => 0 | and => 1 | or => 2 | xor => 3 | min => 4 | max => 5 | xchg => 6 | cas => 7
end AtmOp

namespace Shape
def ofCode (x : Nat) : Shape :=
  match x with
  | 0 => single | 1 => pairH | 2 => pairV | _ => quad
def code : Shape → Nat
  | single => 0 | pairH => 1 | pairV => 2 | quad => 3
end Shape

/-- The low bits of a register field (03 R60). -/
def lowS (x : BitVec 8) : SReg := x.setWidth 6
def lowK (x : BitVec 8) : KReg := x.setWidth 3
/-- A register field whose bits above the operand's are zero (03 R60). -/
def fits {w : Nat} (x : BitVec w) (n : Nat) : Bool := decide (x.toNat < 2 ^ n)

/-- The index of a memory operand and whether its field is legal (03 R69). -/
def idxOf (xm : BitVec 2) (x : BitVec 8) : Idx :=
  match xm.toNat with
  | 0 => .none
  | 1 => .scalar (lowS x)
  | _ => .vector x
def idxRes (xm : BitVec 2) (x : BitVec 8) : Bool :=
  match xm.toNat with
  | 0 => x == 0
  | 1 => fits x 6
  | _ => true
def Idx.code : Idx → BitVec 2 × BitVec 8
  | .none => (0, 0)
  | .scalar r => (1, r.setWidth 8)
  | .vector r => (2, r)

/-- The outcome of a word's checks in subcode order: `res0` bits, codes, ranges (03 R77). -/
def fin (res0 codes ranges : Bool) (i : Instr) : Except Nat Instr :=
  if !res0 then .error 4 else if !codes then .error 5 else if !ranges then .error 6 else .ok i

/-- Operand B of an S3 word that accepts an immediate (03 R67). -/
def srcB (f : FS3) : SrcB := if f.i == 1 then .imm f.imm else .reg f.b
def srcBRes (f : FS3) : Bool := if f.i == 1 then f.b == 0 else f.imm == 0
/-- B, I and IMM17 unused. -/
def noB (f : FS3) : Bool := f.b == 0 && f.i == 0 && f.imm == 0

/-- A scalar word with no type and an optional immediate (04 R81). -/
def s3Plain (np : Bool) (f : FS3) (mk : SReg → SReg → SrcB → Instr) : Except Nat Instr :=
  fin (np && f.sub == 0 && srcBRes f) (f.t == 0) true (mk f.d f.a (srcB f))
/-- A scalar word of type `.i64` or `.n64` (04 R81). -/
def s3Signed (np : Bool) (f : FS3) (mk : Bool → SReg → SReg → SrcB → Instr) : Except Nat Instr :=
  fin (np && f.sub == 0 && srcBRes f) (Ty.ofCode f.t).isW64 true (mk (f.t == 8) f.d f.a (srcB f))
/-- A scalar word with one source (04 R81). -/
def s3Unary (np : Bool) (f : FS3) (mk : SReg → SReg → Instr) : Except Nat Instr :=
  fin (np && f.sub == 0 && noB f) (f.t == 0) true (mk f.d f.a)
/-- A mask word of two sources or one (04 R84). -/
def s3Mask2 (np : Bool) (f : FS3) (mk : KReg → KReg → KReg → Instr) : Except Nat Instr :=
  fin (np && f.t == 0 && f.i == 0 && f.imm == 0 && fits f.d 3 && fits f.a 3 && fits f.b 3) (f.sub == 0) true
    (mk (f.d.setWidth 3) (f.a.setWidth 3) (f.b.setWidth 3))
def s3MaskToS (np : Bool) (f : FS3) (mk : SReg → KReg → Instr) : Except Nat Instr :=
  fin (np && f.t == 0 && noB f && fits f.a 3) (f.sub == 0) true (mk f.d (f.a.setWidth 3))
/-- A capability derivation (04 R85, R86). -/
def s3Cap (np : Bool) (f : FS3) (mk : CReg → CReg → SrcB → Instr) : Except Nat Instr :=
  fin (np && f.t == 0 && f.sub == 0 && srcBRes f && fits f.d 4 && fits f.a 4) true true
    (mk (f.d.setWidth 4) (f.a.setWidth 4) (srcB f))

/-- Opcodes 0x20 to 0x4D but for the long immediates (04 R81, R84-R87). `kmov` with SUB 3 to 15 has mask fields in D and A (log 108). -/
def decS3 (np : Bool) (opc : Nat) (f : FS3) : Except Nat Instr :=
  match opc with
  | 0x20 => s3Plain np f .sadd
  | 0x21 => s3Plain np f .ssub
  | 0x22 => s3Plain np f .smul
  | 0x23 => s3Signed np f .smulh
  | 0x24 => s3Signed np f .sdiv
  | 0x25 => s3Signed np f .srem
  | 0x26 => s3Plain np f .sand
  | 0x27 => s3Plain np f .sor
  | 0x28 => s3Plain np f .sxor
  | 0x29 => s3Plain np f .sshl
  | 0x2A => s3Plain np f .sshr
  | 0x2B => s3Plain np f .ssra
  | 0x2C => s3Signed np f .smin
  | 0x2D => s3Signed np f .smax
  | 0x2E => fin (np && srcBRes f) ((Ty.ofCode f.t).isW64 && Cond.defined f.sub && (Cond.ofCode f.sub).isInt) true
      (.scmp (Cond.ofCode f.sub) (f.t == 8) f.d f.a (srcB f))
  | 0x2F => fin (np && f.sub == 0 && f.i == 0 && f.imm == 0) (f.t == 0) true (.ssel f.d f.a f.b)
  | 0x30 => s3Unary np f .smov
  | 0x33 => fin (np && f.sub == 0 && noB f) (Ty.ofCode f.t).isI true (.sext (Ty.ofCode f.t) f.d f.a)
  | 0x34 => fin (np && f.sub == 0 && f.b == 0 && (if f.i == 1 then fits f.imm 12 else f.imm == 0))
      (f.i == 1 && (Ty.ofCode f.t).isW64) (bitsOf f.imm.toNat 0 6 + bitsOf f.imm.toNat 6 6 + 1 ≤ 64)
      (.sbfe (f.t == 8) f.d f.a (f.imm.setWidth 6) (BitVec.ofNat 6 (f.imm.toNat / 64)))
  | 0x35 => fin (np && f.sub == 0 && f.b == 0 && (if f.i == 1 then fits f.imm 12 else f.imm == 0))
      (f.i == 1 && f.t == 0) (bitsOf f.imm.toNat 0 6 + bitsOf f.imm.toNat 6 6 + 1 ≤ 64)
      (.sbfi f.d f.a (f.imm.setWidth 6) (BitVec.ofNat 6 (f.imm.toNat / 64)))
  | 0x36 => s3Unary np f .spopc
  | 0x37 => s3Unary np f .sclz
  | 0x40 => s3Mask2 np f .kand
  | 0x41 => s3Mask2 np f .kor
  | 0x42 => s3Mask2 np f .kxor
  | 0x43 => s3Mask2 np f .kandn
  | 0x44 => fin (np && f.t == 0 && noB f && fits f.d 3 && fits f.a 3) (f.sub == 0) true
      (.knot (f.d.setWidth 3) (f.a.setWidth 3))
  | 0x45 =>
    if f.sub == 1 then
      fin (np && f.t == 0 && noB f && fits f.d 3) true true (.kmovFromScalar (f.d.setWidth 3) f.a)
    else if f.sub == 2 then
      fin (np && f.t == 0 && noB f && fits f.a 3) true true (.kmovToScalar f.d (f.a.setWidth 3))
    else if f.sub == 0 && f.i == 1 then
      fin (np && f.t == 0 && f.b == 0 && f.a == 0 && fits f.d 3) true true (.kmovImm (f.d.setWidth 3) f.imm)
    else
      fin (np && f.t == 0 && noB f && fits f.d 3 && fits f.a 3) (f.sub == 0) true
        (.kmov (f.d.setWidth 3) (f.a.setWidth 3))
  | 0x46 => s3MaskToS np f .kpopc
  | 0x47 => s3MaskToS np f .kfirst
  | 0x48 => s3Cap np f .cset
  | 0x49 => s3Cap np f .coff
  | 0x4A => s3Cap np f .cperm
  | 0x4B => fin (np && f.t == 0 && noB f && fits f.a 4) (fits f.sub 3 && f.sub.toNat < 5) true
      (match f.sub.toNat with
       | 0 => .cgetBase f.d (f.a.setWidth 4)
       | 1 => .cgetLen f.d (f.a.setWidth 4)
       | 2 => .cgetGran f.d (f.a.setWidth 4)
       | 3 => .cgetSpace f.d (f.a.setWidth 4)
       | _ => .cgetPerm f.d (f.a.setWidth 4))
  | 0x4C => fin (np && f.t == 0 && noB f && fits f.a 4) (f.sub == 0) true (.ctag f.d (f.a.setWidth 4))
  | 0x4D => fin (np && f.t == 0 && noB f && fits f.a 4 && fits f.d 4) (f.sub == 0) true
      (.cmov (f.d.setWidth 4) (f.a.setWidth 4))
  | _ => .error 3

/-- The long-immediate words (03 R67, 04 R83). -/
def decSL (np : Bool) (opc : Nat) (f : FSL) : Except Nat Instr :=
  match opc with
  | 0x31 => fin (np && f.z == 0) true true (.sli f.d f.imm)
  | _ => fin (np && f.z == 0) true true (.slih f.d f.imm)

/-- Branches and loops (03 R68, 04 R88, R90). -/
def decBR (np : Bool) (opc : Nat) (f : FBR) : Except Nat Instr :=
  match opc with
  | 0x01 => fin (np && f.z == 0 && f.l == 0 && (f.cond != 0 || (f.a == 0 && f.b == 0)))
      (Cond.defined f.cond && (f.cond == 0 || (Cond.ofCode f.cond).isInt)) true (.br (Cond.ofCode f.cond) f.a f.b f.off)
  | 0x02 => fin (np && f.z == 0 && f.l == 0) (Cond.defined f.cond && (Cond.ofCode f.cond).isInt) true
      (.brS (Cond.ofCode f.cond) f.a f.b f.off)
  | 0x03 => fin (np && f.z == 0 && f.l == 0 && f.cond == 0 && f.b == 0 && fits f.a 3) true true
      (.brKz (f.a.setWidth 3) f.off)
  | 0x04 => fin (np && f.z == 0 && f.l == 0 && f.cond == 0 && f.b == 0 && fits f.a 3) true true
      (.brKnz (f.a.setWidth 3) f.off)
  | 0x05 => fin (np && f.z == 0 && f.l == 0 && f.cond == 0 && f.b == 0 && fits f.a 3) true true
      (.brKf (f.a.setWidth 3) f.off)
  | 0x06 => fin (np && f.z == 0 && f.l == 0 && f.cond == 0 && f.b == 0) true true (.call f.a f.off)
  | 0x07 => fin (np && f.z == 0 && f.l == 0 && f.cond == 0 && f.b == 0 && f.off == 0) true true (.ret f.a)
  | 0x08 => fin (np && f.z == 0 && f.cond == 0 && f.b == 0) true (decide (1 ≤ f.off.toInt)) (.loop (f.l == 1) f.a f.off)
  | _ => fin (np && f.z == 0 && f.cond == 0) true (decide (1 ≤ f.off.toInt))
      (.loopi (f.l == 1) (BitVec.ofNat 12 (f.a.toNat + 64 * f.b.toNat)) f.off)

/-- Opcodes of class SYS (03 R75; 04 R93-R101, 11 R208, R210, 22 R353). `rdsr` with SUB 2 to 15 has the
fields of its scalar form (log 108). -/
def decSYS (h : Hdr) (p : Pred) (opc : Nat) (f : FSYS) : Except Nat Instr :=
  let np := p.none
  let bare := np && f.r1 == 0 && f.r2 == 0
  let n := BitVec.ofNat 12 f.imm.toNat
  let bb := BitVec.ofNat 4 f.imm.toNat
  let bbRes := np && fits f.imm 4
  let bbOk := decide (bb.toNat < h.bb)
  match opc with
  | 0x00 => fin (bare && f.sub == 0 && f.imm == 0) true true .nop
  | 0x0A =>
    if f.sub == 0 then fin (np && f.imm == 0 && fits f.r1 6 && fits f.r2 6) true true (.rgn (lowS f.r1) (lowS f.r2))
    else fin (bare && f.imm == 0) (f.sub == 1) true .rgnEnd
  | 0x0B => fin (bare && f.sub == 0 && f.imm == 0) true true .gjoin
  | 0x0C => fin (p.ok && f.r1 == 0 && f.r2 == 0 && f.sub == 0 && f.imm == 0) true true (.exit p)
  | 0x0D => fin (bare && f.sub == 0 && f.imm == 0) true true .sexit
  | 0x0E => fin (bare && f.sub == 0 && f.imm == 0) true true .yield
  | 0x10 =>
    if f.sub == 1 then
      fin (p.ok && f.r2 == 0 && fits f.imm 12) (n.toNat < 0x14 || inHandlerRange n.toNat) true (.rdsrV p f.r1 n)
    else
      fin (np && f.r2 == 0 && fits f.imm 12 && fits f.r1 6)
        (f.sub == 0 && ((n.toNat < 0x14 && n != 0) || inHandlerRange n.toNat)) true (.rdsr (lowS f.r1) n)
  | 0x11 =>
    let a := lowS f.r2
    let i : Instr :=
      match n.toNat with
      | 0x00E => .frWrite a
      | 0x00F => .lfmWrite a
      | 0x012 => .lcWrite false a
      | 0x013 => .lcWrite true a
      | 0x115 => .hrdWrite a
      | 0x116 => .hcapWrite a
      | 0x117 => .hexeWrite a
      | _ => .wrsr n a
    fin (np && f.r1 == 0 && fits f.imm 12 && fits f.r2 6)
      (f.sub == 0 && (n == 0x00E || n == 0x00F || n == 0x012 || n == 0x013 || inHandlerRange n.toNat)) true i
  | 0x12 => fin (bare && f.sub == 0) (frCodesOk f.imm.toNat) (frPermOk f.imm.toNat) (.fmt f.imm)
  | 0x13 => fin (bare && f.sub == 0 && fits f.imm 8) true true (.alloc (BitVec.ofNat 8 f.imm.toNat))
  | 0x14 => fin (bare && f.sub == 0 && f.imm == 0) true true .free
  | 0x18 => fin (bare && f.sub == 0 && fits f.imm 8) true true (.trap (BitVec.ofNat 8 f.imm.toNat))
  | 0x19 => fin (bare && f.sub == 0 && f.imm == 0) true true .tret
  | 0x1A => fin (bare && f.sub == 0 && fits f.imm 16) true true (.sysc (BitVec.ofNat 16 f.imm.toNat))
  | 0x1B => fin (bare && f.sub == 0 && f.imm == 0) true true .idle
  | 0x1C => fin (bare && f.sub == 0 && f.imm == 0) true true .hbrk
  | 0xC8 =>
    let sc := Scope.ofCode f.sub.toNat
    fin bare (decide (f.sub.toNat < 5)) (barOk sc f.imm.toNat && (sc != .core || f.imm.toNat < h.cbar)) (.barArr sc f.imm)
  | 0xC9 =>
    let sc := Scope.ofCode f.sub.toNat
    fin bare (decide (f.sub.toNat < 5)) (barOk sc f.imm.toNat && (sc != .core || f.imm.toNat < h.cbar)) (.barWait sc f.imm)
  | 0xCA => fin (bbRes && f.r1 == 0 && fits f.r2 6) (f.sub == 0) bbOk (.bbExp bb (lowS f.r2))
  | 0xCB => fin (bbRes && f.r2 == 0 && fits f.r1 6) (decide (f.sub.toNat < 3)) bbOk
      (match f.sub.toNat with
       | 0 => .bbArr (lowS f.r1) bb
       | 1 => .bbArrDecl (lowS f.r1) bb
       | _ => .bbArrLeave (lowS f.r1) bb)
  | 0xCC => fin (bbRes && f.r1 == 0 && fits f.r2 6) (f.sub == 0) bbOk (.bbWait bb (lowS f.r2))
  | 0xE8 => fin (np && f.sub == 0 && fits f.imm 16 && f.r1 == 0 && fits f.r2 6) true true
      (.tmark (BitVec.ofNat 16 f.imm.toNat) (lowS f.r2))
  | 0xE9 => fin (np && f.sub == 0 && f.imm == 0 && f.r2 == 0 && fits f.r1 6) true true (.rdpc (lowS f.r1))
  | _ => .error 3

/-- An element-wise word of three, two or one source registers with one type (05 R107). -/
def v3T3 (p : Pred) (f : FV3) (ok : Ty → Bool) (mk : Pred → Ty → VReg → VReg → VReg → VReg → Instr) : Except Nat Instr :=
  fin (p.ok && f.sub == 0 && f.t2 == 0) (ok (Ty.ofCode f.t1)) true (mk p (Ty.ofCode f.t1) f.d f.a f.b f.c)
def v3T2 (p : Pred) (f : FV3) (ok : Ty → Bool) (mk : Pred → Ty → VReg → VReg → VReg → Instr) : Except Nat Instr :=
  fin (p.ok && f.sub == 0 && f.t2 == 0 && f.c == 0) (ok (Ty.ofCode f.t1)) true (mk p (Ty.ofCode f.t1) f.d f.a f.b)
def v3T1 (p : Pred) (f : FV3) (ok : Ty → Bool) (mk : Pred → Ty → VReg → VReg → Instr) : Except Nat Instr :=
  fin (p.ok && f.sub == 0 && f.t2 == 0 && f.c == 0 && f.b == 0) (ok (Ty.ofCode f.t1)) true (mk p (Ty.ofCode f.t1) f.d f.a)
/-- A whole-lane word without a type (05 R106, R109). -/
def v3N2 (p : Pred) (f : FV3) (mk : Pred → VReg → VReg → VReg → Instr) : Except Nat Instr :=
  fin (p.ok && f.sub == 0 && f.t2 == 0 && f.c == 0) (f.t1 == 0) true (mk p f.d f.a f.b)
/-- A shuffle: SUB[3] is `.sl`, C names the flag mask (05 R125). -/
def v3Shf (p : Pred) (f : FV3) (mk : Pred → Bool → VReg → KReg → VReg → SReg → Instr) : Except Nat Instr :=
  fin (p.ok && f.t1 == 0 && f.t2 == 0 && f.sub.toNat % 8 == 0 && fits f.c 3 && fits f.b 6) true true
    (mk p (f.sub == 8) f.d (lowK f.c) f.a (lowS f.b))
/-- A vote (05 R126). -/
def v3Vote (p : Pred) (f : FV3) (mk : Pred → Bool → SReg → KReg → Instr) : Except Nat Instr :=
  fin (p.ok && f.t1 == 0 && f.t2 == 0 && f.sub.toNat % 8 == 0 && f.c == 0 && f.b == 0 && fits f.d 6 && fits f.a 3) true true
    (mk p (f.sub == 8) (lowS f.d) (lowK f.a))
/-- A reduction or scan (05 R127). -/
def v3Red (p : Pred) (f : FV3) (mk : Pred → Bool → RedOp → Ty → VReg → VReg → Instr) : Except Nat Instr :=
  let op := RedOp.ofCode (f.sub.toNat % 8)
  let t := Ty.ofCode f.t1
  fin (p.ok && f.t2 == 0 && f.c == 0 && f.b == 0)
    (decide (f.sub.toNat % 8 < 6) && t.isH32 && (t != .f32 || op == .add || op == .min || op == .max)) true
    (mk p (decide (8 ≤ f.sub.toNat)) op t f.d f.a)
/-- A compare into a mask (05 R111, R116). -/
def v3Cmp (p : Pred) (f : FV3) (ok : Ty → Bool) (okc : Cond → Bool) (mk : Pred → Cond → Ty → KReg → VReg → VReg → Instr) :
    Except Nat Instr :=
  fin (p.ok && f.t2 == 0 && f.d == 0 && fits f.c 3)
    (ok (Ty.ofCode f.t1) && Cond.defined f.sub && okc (Cond.ofCode f.sub)) true
    (mk p (Cond.ofCode f.sub) (Ty.ofCode f.t1) (lowK f.c) f.a f.b)

/-- Opcodes of class V3 (05). -/
def decV3 (p : Pred) (opc : Nat) (f : FV3) : Except Nat Instr :=
  match opc with
  | 0x50 => v3T2 p f Ty.isI .vadd
  | 0x51 => v3T2 p f Ty.isI .vsub
  | 0x52 => v3T2 p f Ty.isI .vmul
  | 0x53 => v3T2 p f Ty.isI .vmulh
  | 0x54 => v3T3 p f Ty.isI .vmad
  | 0x55 => v3N2 p f .vand
  | 0x56 => v3N2 p f .vor
  | 0x57 => v3N2 p f .vxor
  | 0x58 => v3T2 p f Ty.isN .vshl
  | 0x59 => v3T2 p f Ty.isN .vshr
  | 0x5A => v3T2 p f Ty.isS .vsra
  | 0x5B => v3T2 p f Ty.isI .vmin
  | 0x5C => v3T2 p f Ty.isI .vmax
  | 0x5D => v3T1 p f Ty.isS .vabs
  | 0x5E => v3T1 p f Ty.isS .vneg
  | 0x5F => v3Cmp p f Ty.isW32 Cond.isInt .vcmp
  | 0x60 => fin (p.ok && f.sub == 0 && f.t2 == 0 && fits f.c 3) (f.t1 == 0) true (.vsel p f.d f.a f.b (lowK f.c))
  | 0x61 => fin (p.ok && f.sub == 0 && f.t2 == 0 && f.c == 0 && f.b == 0) (f.t1 == 0) true (.vmov p f.d f.a)
  | 0x63 =>
    let t := Ty.ofCode f.t1
    fin (p.ok && f.sub == 0 && f.t2 == 0 && f.c == 0 && f.b == 0 && fits f.a 6) (t == .none || t == .n16 || t == .n8) true
      (.vbcast p t f.d (lowS f.a))
  | 0x64 => v3T1 p f Ty.isN .vclz
  | 0x65 => v3T1 p f Ty.isN .vpopc
  | 0x66 => v3T3 p f Ty.isW32 .vbfe
  | 0x67 => v3T2 p f Ty.isF .vfadd
  | 0x68 => v3T2 p f Ty.isF .vfsub
  | 0x69 => v3T2 p f Ty.isF .vfmul
  | 0x6A => v3T3 p f Ty.isF .vfma
  | 0x6B => v3T2 p f Ty.isF .vfmin
  | 0x6C => v3T2 p f Ty.isF .vfmax
  | 0x6D => v3T1 p f Ty.isF .vfabs
  | 0x6E => v3T1 p f Ty.isF .vfneg
  | 0x6F => v3Cmp p f Ty.isF (fun c => c != .always) .vfcmp
  | 0x70 => v3T1 p f Ty.isF .vfcls
  | 0x71 => v3T1 p f Ty.isF .vrcp
  | 0x72 => v3T1 p f Ty.isF .vrsq
  | 0x73 => v3T1 p f Ty.isF .vexp2
  | 0x74 => v3T1 p f Ty.isF .vlog2
  | 0x75 => fin (p.ok && f.sub == 0 && f.c == 0 && f.b == 0) (cvtOk (Ty.ofCode f.t1) (Ty.ofCode f.t2)) true
      (.vcvt p (Ty.ofCode f.t1) (Ty.ofCode f.t2) f.d f.a)
  | 0x76 => fin (p.ok && f.sub == 0 && f.c == 0) (packOk (Ty.ofCode f.t1) (Ty.ofCode f.t2)) true
      (.vpack p (Ty.ofCode f.t1) (Ty.ofCode f.t2) f.d f.a f.b)
  | 0x77 => fin (p.ok && f.c == 0 && f.b == 0) (packOk (Ty.ofCode f.t2) (Ty.ofCode f.t1) && fits f.sub 1) true
      (.vunpack p (Ty.ofCode f.t1) (Ty.ofCode f.t2) f.d f.a (f.sub == 1))
  | 0x78 => fin (p.none && f.sub == 0 && f.c == 0) ((Ty.ofCode f.t1).isFb && Ty.ofCode f.t2 == .f32) true
      (.vqb (Ty.ofCode f.t1) f.d f.a f.b)
  | 0x79 => fin (p.ok && f.c == 0 && f.b == 0) (Ty.ofCode f.t1 == .f32 && (Ty.ofCode f.t2).isFb && fits f.sub 1) true
      (.vdqb p (Ty.ofCode f.t2) f.d f.a (f.sub == 1))
  | 0x7A => fin (p.ok && f.t1 == 0 && f.t2 == 0 && f.sub.toNat % 8 == 0 && fits f.c 3) true true
      (.shf p (f.sub == 8) f.d (lowK f.c) f.a f.b)
  | 0x7B => v3Shf p f .shfUp
  | 0x7C => v3Shf p f .shfDn
  | 0x7D => v3Shf p f .shfX
  | 0x7E => v3Vote p f .voteAny
  | 0x7F => v3Vote p f .voteAll
  | 0x80 => v3Vote p f .voteBal
  | 0x81 => v3Red p f .vred
  | 0x82 => v3Red p f .vscan
  | _ => .error 3

def viT (p : Pred) (f : FVI) (ok : Ty → Bool) (mk : Pred → Ty → VReg → VReg → BitVec 20 → Instr) : Except Nat Instr :=
  fin (p.ok && f.sub == 0) (ok (Ty.ofCode f.t)) true (mk p (Ty.ofCode f.t) f.d f.a f.imm)
def viN (p : Pred) (f : FVI) (mk : Pred → VReg → VReg → BitVec 20 → Instr) : Except Nat Instr :=
  fin (p.ok && f.sub == 0) (f.t == 0) true (mk p f.d f.a f.imm)

/-- Opcodes of class VI (05 R108, R112). -/
def decVI (p : Pred) (opc : Nat) (f : FVI) : Except Nat Instr :=
  match opc with
  | 0x62 =>
    let t := Ty.ofCode f.t
    fin (p.ok && f.sub == 0 && f.a == 0) (t == .none || t.isI || t.isF) true (.vli p t f.d f.imm)
  | 0x83 => viT p f Ty.isI .vaddImm
  | 0x84 => viT p f Ty.isI .vmulImm
  | 0x85 => viN p f .vandImm
  | 0x86 => viN p f .vorImm
  | 0x87 => viN p f .vxorImm
  | 0x88 => viT p f Ty.isN .vshlImm
  | 0x89 => viT p f Ty.isN .vshrImm
  | 0x8A => viT p f Ty.isS .vsraImm
  | 0x8B => viT p f Ty.isI .vminImm
  | 0x8C => viT p f Ty.isI .vmaxImm
  | 0x8D => fin (p.ok && fits f.d 3) ((Ty.ofCode f.t).isW32 && Cond.defined f.sub && (Cond.ofCode f.sub).isInt) true
      (.vcmpImm p (Cond.ofCode f.sub) (Ty.ofCode f.t) (lowK f.d) f.a f.imm)
  | 0x8E => viT p f Ty.isF .vfaddImm
  | 0x8F => viT p f Ty.isF .vfmulImm
  | _ => .error 3

/-- Opcodes of class XV (08 R154). -/
def decXV (np : Bool) (opc : Nat) (f : FXV) : Except Nat Instr :=
  let tail := np && f.s == 0 && f.cp == 0 && f.imm == 0
  let onlyA := tail && f.nt == 0 && f.km == 0 && f.b == 0
  match opc with
  | 0x90 => fin tail true (decide (f.b.toNat ≤ 252)) (.xvStep (f.nt == 1) f.a f.b f.km)
  | 0x91 => fin (np && f.cp == 0 && f.imm == 0) true (decide (f.b.toNat ≤ 252)) (.xvRun (f.nt == 1) f.a f.b f.km f.s)
  | 0x92 => fin onlyA true true (.xvLdk f.a)
  | 0x93 => fin (tail && f.nt == 0 && f.b == 0 && f.a == 0) true true (.xvClr f.km)
  | 0x94 => fin (tail && f.b == 0) true true (.xvPush (f.nt == 1) f.a f.km)
  | 0x95 => fin (tail && f.b == 0) true true (.xvPop (f.nt == 1) f.a f.km)
  | 0x96 => fin onlyA true true (.xvDep f.a)
  | 0x97 => fin onlyA true true (.xvStat f.a)
  | 0x98 => fin (np && f.nt == 0 && f.km == 0 && f.b == 0 && f.a == 0) true true (.xvSave f.cp f.s f.imm)
  | 0x99 => fin (np && f.nt == 0 && f.km == 0 && f.b == 0 && f.a == 0) true true (.xvLoad f.cp f.s f.imm)
  | _ => .error 3

/-- Opcodes of class MEM (11 R189-R191, R200). -/
def decMEM (p : Pred) (opc : Nat) (f : FMEM) : Except Nat Instr :=
  let o := Ord.ofCode f.ord
  let sc := Scope.ofCode f.scp.toNat
  let t := Ty.ofCode f.t
  let x := idxOf f.xm f.x
  let res := (f.ord != 0 || f.scp == 0) && idxRes f.xm f.x
  let codes := (f.ord == 0 || decide (f.scp.toNat < 5)) && f.xm != 3
  match opc with
  | 0xA0 => fin (p.none && res && fits f.r 6) (codes && (t.isI || t.isW64) && o != .rel && !x.isVector) true
      (.ld o sc t (lowS f.r) f.c x f.off)
  | 0xA1 => fin (p.none && res && fits f.r 6) (codes && (t.isI || t.isW64) && (o == .plain || o == .rel) && !x.isVector) true
      (.st o sc t (lowS f.r) f.c x f.off)
  | 0xA2 => fin (p.none && res && fits f.r 4) (codes && f.t == 0 && o != .rel && !x.isVector) true
      (.ldc o sc (f.r.setWidth 4) f.c x f.off)
  | 0xA3 => fin (p.none && res && fits f.r 4) (codes && f.t == 0 && (o == .plain || o == .rel) && !x.isVector) true
      (.stc o sc (f.r.setWidth 4) f.c x f.off)
  | 0xA4 => fin (p.ok && res) (codes && t.isI && o == .plain) true (.ldV p t f.r f.c x f.off)
  | 0xA5 => fin (p.ok && res) (codes && t.isI && o == .plain) true (.stV p t f.r f.c x f.off)
  | 0xB0 => fin (p.none && (f.ord != 0 || f.scp == 0) && f.off == 0 && f.t == 0 && f.xm == 0 && f.x == 0 && f.c == 0 && f.r == 0)
      (o != .plain && decide (f.scp.toNat < 5)) true (.fence o sc)
  | _ => .error 3

/-- A byte barrier that a completion field names is declared (03 R64). -/
def cmpOk (h : Hdr) (cmp : BitVec 5) : Bool := decide (cmp.toNat < 16) || decide (cmp.toNat - 16 < h.bb)

/-- Opcodes of class CPY (11 R193-R199). -/
def decCPY (h : Hdr) (p : Pred) (opc : Nat) (f : FCPY) : Except Nat Instr :=
  let g : CpyFields := ⟨f.q, Scope.ofCode f.scp.toNat, f.cmp, f.len, f.cs, f.cd⟩
  let sc := decide (f.scp.toNat < 5)
  let rng := queueOk f.q && cmpOk h f.cmp
  match opc with
  | 0xA8 => fin (p.none && fits f.xs 6 && fits f.xd 6) sc rng (.cpy g (lowS f.xs) (lowS f.xd))
  | 0xA9 => fin (p.none && fits f.xs 6 && fits f.xd 6) sc (rng && decide (f.len.toNat ≤ 60)) (.cpy2d g (lowS f.xs) (lowS f.xd))
  | 0xAA => fin (p.ok && fits f.xd 6) sc rng (.cpyG p g f.xs (lowS f.xd))
  | 0xAB => fin (p.ok && fits f.xs 6) sc rng (.cpyS p g (lowS f.xs) f.xd)
  | 0xAC => fin (p.none && f.q == 0 && f.scp == 0 && f.cmp == 0 && f.xs == 0 && f.xd == 0 && f.cs == 0 && f.cd == 0) true true
      (.cpyCommit f.len)
  | 0xAD => fin (p.none && f.q == 0 && f.scp == 0 && f.cmp == 0 && f.xs == 0 && f.xd == 0 && f.cs == 0 && f.cd == 0) true true
      (.cpyWait f.len)
  | 0xB1 => fin (p.none && f.xs == 0 && f.xd == 0 && f.cs == 0 && f.cd == 0) (sc && decide (f.cmp.toNat < 16)) (queueOk f.q)
      (.qfence f.q (Scope.ofCode f.scp.toNat) f.cmp f.len)
  | _ => .error 3

/-- Opcodes of class AT (11 R201-R205); XM 3 has the fields of the scalar form (log 108). -/
def decAT (p : Pred) (opc : Nat) (f : FAT) : Except Nat Instr :=
  let o := Ord.ofCode f.ord
  let sc := Scope.ofCode f.scp.toNat
  let t := Ty.ofCode f.t
  let x := idxOf f.xm f.x
  let vec := f.xm == 2 && decide (opc < 0xC4)
  let res := f.z == 0 && (f.ord != 0 || f.scp == 0) && idxRes f.xm f.x &&
    (if vec then p.ok else p.none && fits f.d 6 && fits f.a 6)
  let codes := (f.ord == 0 || decide (f.scp.toNat < 5)) && f.xm != 3
  match opc with
  | 0xC0 => fin res (codes && atmTyOk x t) true (.atm p (AtmOp.ofCode f.op) o sc t f.d f.c x f.a)
  | 0xC1 => fin (res && f.op == 0) (codes && (t == .n32 || (t == .n64 && !x.isVector))) true (.atmBinc p o sc t f.d f.c x f.a)
  | 0xC2 => fin (res && f.op == 0) (codes && (t == .n32 || (t == .n64 && !x.isVector))) true (.atmWinc p o sc t f.d f.c x f.a)
  | 0xC3 => fin (res && f.op == 0 && f.a == 0) (codes && atmTyOk x t) true (.atmCdec p o sc t f.d f.c x)
  | 0xC4 => fin (res && f.op == 0) (codes && t == .n64 && !x.isVector) true (.atmFaddl o sc (lowS f.d) f.c x (lowS f.a))
  | 0xC5 => fin (res && f.op == 0) (codes && (t.isW32 || t.isW64) && !x.isVector) true (.fat o sc t (lowS f.d) f.c x (lowS f.a))
  | 0xC6 => fin (res && f.op == 0) (codes && t == .f32 && (o == .plain || o == .rel) && !x.isVector) true
      (.redF o sc (lowS f.d) f.c x (lowS f.a))
  | _ => .error 3

/-- Opcodes of class MX (15 R256, 14 R246-R249). -/
def decMX (h : Hdr) (np : Bool) (opc : Nat) (f : FMX) : Except Nat Instr :=
  let np := np && (opc == 0xDD || f.cmp == 0)
  let ty := Ty.ofCode f.c2
  let two := ty == .f32 || ty == .i32
  let tile := decide (f.t.toNat < 12)
  let s3 := f.s3 == 0
  let v := f.v == 0
  match opc with
  | 0xD0 => fin (np && f.s1 == 0 && f.s2 == 0 && s3 && v && f.c2 == 0 && f.c1 == 0) (decide (f.t.toNat < 4)) true
      (.mcfg (f.m == 1) (Shape.ofCode f.t.toNat))
  | 0xD1 => fin (np && f.m == 0 && f.s2 == 0 && s3 && v && f.c2 == 0) true (decide (f.t.toNat < 8))
      (.mperm (f.t.setWidth 3) f.c1 f.s1)
  | 0xD2 => fin (np && f.m == 0 && s3 && v && f.c2 == 0 && f.t == 0) true true (.mlw f.c1 f.s1 f.s2)
  | 0xD3 => fin (np && f.m == 0 && f.s1 == 0 && f.s2 == 0 && s3 && v && f.c2 == 0 && f.c1 == 0 && f.t == 0) true true .mswap
  | 0xD4 => fin (np && s3 && v && f.c2 == 0) true tile (.mst (f.m == 1) f.t f.c1 f.s1 f.s2)
  | 0xD5 => fin (np && f.m == 0 && f.s1 == 0 && f.s2 == 0 && s3 && v && f.c2 == 0 && f.c1 == 0) true tile (.mzero f.t)
  | 0xD6 => fin (np && f.m == 0 && s3 && f.c1 == 0) (ty.isF || ty == .i32) (tile && !(two && f.v == 255))
      (.mrd ty f.v f.t f.s1 f.s2)
  | 0xD7 => fin (np && f.m == 0 && s3 && f.c1 == 0) (ty.isF || ty == .i32) (tile && !(two && f.v == 255))
      (.mwr ty f.t f.v f.s1 f.s2)
  | 0xD8 => fin (np && f.m == 0 && s3 && v && f.c2 == 0) true tile (.mout f.c1 f.s1 f.t f.s2)
  | 0xD9 => fin (np && f.m == 0 && s3 && f.c2 == 0 && f.c1 == 0) true tile (.mmaskTree f.t f.v f.s1 f.s2)
  | 0xDA => fin (np && f.m == 0 && f.s1 == 0 && f.s2 == 0 && s3 && v && f.c2 == 0 && f.c1 == 0 && f.t == 0) true true .batTake
  | 0xDB => fin (np && f.m == 0 && f.s1 == 0 && f.s2 == 0 && s3 && v && f.c2 == 0 && f.c1 == 0 && f.t == 0) true true .batGive
  | 0xDC => fin (np && f.m == 0 && f.s2 == 0 && s3 && v && f.c2 == 0 && f.c1 == 0 && f.t == 0) true true (.batTest f.s1)
  | 0xDD => fin (np && f.t == 0 && fits f.v 6) true (cmpOk h f.cmp)
      (.kvc (f.m == 1) f.cmp f.s1 f.c1 f.c2 f.s2 f.s3 (lowS f.v))
  | _ => .error 3

/-- Opcodes of class TK (16 R275, R277, 17 R285-R288). -/
def decTK (p : Pred) (opc : Nat) (f : FTK) : Except Nat Instr :=
  let n := f.imm.toNat
  let bare := f.ak == 0 && f.tr == 0 && f.s4 == 0
  match opc with
  | 0xE0 => fin (p.ok && bare) true (n % 16 == 0 && 16 ≤ n && n ≤ 240) (.spawn p f.s1 f.s2 f.s3 f.c f.imm f.cls)
  | 0xE1 => fin (p.none && bare && f.s1 == 0 && f.s3 == 0 && f.cls == 0) true (n % 16 == 0) (.spawnRec f.s2 f.c f.imm)
  | 0xE2 => fin (p.ok && bare && f.s1 == 0 && f.s2 == 0 && f.s3 == 0 && f.c == 0 && f.cls == 0 && f.imm == 0) true true (.tdone p)
  | 0xE3 => fin (p.ok && bare && f.s2 == 0 && f.s3 == 0 && f.c == 0 && f.cls == 0) true (n % 4 == 0 && n ≤ 252) (.targ p f.s1 f.imm)
  | 0xE4 => fin (p.none && bare && f.s3 == 0 && f.cls == 0) true (n % 16 == 0) (.launch f.s1 f.s2 f.c f.imm)
  | 0xE5 => fin p.none true (n % 16 == 0) (.rinv (f.tr == 1) (f.ak == 1) f.s1 f.s2 f.c f.imm f.s3 f.s4 f.cls)
  | _ => .error 3

/-- The operand group of a word under the opcode map (03 R76). -/
def decodeOps (h : Hdr) (p : Pred) (opc o : Nat) : Except Nat Instr :=
  if opc ≤ 0x00 ∨ (0x0A ≤ opc ∧ opc ≤ 0x0E) ∨ (0x10 ≤ opc ∧ opc ≤ 0x14) ∨ (0x18 ≤ opc ∧ opc ≤ 0x1C) ∨
      (0xC8 ≤ opc ∧ opc ≤ 0xCC) ∨ (0xE8 ≤ opc ∧ opc ≤ 0xE9) then decSYS h p opc (FSYS.of o)
  else if opc ≤ 0x09 then decBR p.none opc (FBR.of o)
  else if opc = 0x31 ∨ opc = 0x32 then decSL p.none opc (FSL.of o)
  else if (0x20 ≤ opc ∧ opc ≤ 0x37) ∨ (0x40 ≤ opc ∧ opc ≤ 0x4D) then decS3 p.none opc (FS3.of o)
  else if opc = 0x62 ∨ (0x83 ≤ opc ∧ opc ≤ 0x8F) then decVI p opc (FVI.of o)
  else if 0x50 ≤ opc ∧ opc ≤ 0x82 then decV3 p opc (FV3.of o)
  else if 0x90 ≤ opc ∧ opc ≤ 0x99 then decXV p.none opc (FXV.of o)
  else if (0xA0 ≤ opc ∧ opc ≤ 0xA5) ∨ opc = 0xB0 then decMEM p opc (FMEM.of o)
  else if (0xA8 ≤ opc ∧ opc ≤ 0xAD) ∨ opc = 0xB1 then decCPY h p opc (FCPY.of o)
  else if 0xC0 ≤ opc ∧ opc ≤ 0xC6 then decAT p opc (FAT.of o)
  else if 0xD0 ≤ opc ∧ opc ≤ 0xDD then decMX h p.none opc (FMX.of o)
  else if 0xE0 ≤ opc ∧ opc ≤ 0xE5 then decTK p opc (FTK.of o)
  else .error 3

/-- The scheduling fields of a word (03 R52-R54). -/
structure Sched where
  ver : BitVec 2 := 0
  stall : BitVec 4 := 0
  yld : Bool := false
  sb : Bool := false
  deriving DecidableEq, Repr

def Sched.of (w : Nat) : Sched where
  ver := BitVec.ofNat 2 w
  stall := BitVec.ofNat 4 (w / 4)
  yld := w / 64 % 2 == 1
  sb := w / 128 % 2 == 1

/-- An instruction word decoded, or its ILLOP subcode, causes in subcode order (03 R53, R77). A word
with an unassigned opcode decodes to the step that raises subcode 3 (R76). -/
def decode (h : Hdr) (w : Nat) : Except Nat Instr :=
  let opc := w / 256 % 256
  let p : Pred := ⟨BitVec.ofNat 3 (w / 2 ^ 16), w / 2 ^ 19 % 2 == 1⟩
  if w % 4 = 3 then .error 1
  else if w % 4 = 2 ∧ !h.gen7 then .error 2
  else
    match decodeOps h p opc (w / 2 ^ 20 % 2 ^ 44) with
    | .error 3 => .ok (.unassignedOpcode (BitVec.ofNat 8 opc))
    | r => r

/-! ### The encoder -/

/-- Opcode, predicate and operand group of an instruction. -/
structure Enc where
  opc : Nat
  p : Pred := {}
  ops : Nat
  deriving DecidableEq, Repr

/-- The index fields of an index. -/
def Idx.xm (x : Idx) : BitVec 2 := x.code.1
def Idx.fld (x : Idx) : BitVec 8 := x.code.2

def encS3 (opc : Nat) (f : FS3) : Option Enc := some ⟨opc, {}, f.enc⟩
/-- An S3 word whose operand B is a scalar or an immediate (03 R67). -/
def encS3B (opc : Nat) (f : FS3) : SrcB → Option Enc
  | .reg r => some ⟨opc, {}, { f with b := r }.enc⟩
  | .imm i => some ⟨opc, {}, { f with i := 1, imm := i }.enc⟩
/-- Type `.i64` or `.n64` of a scalar word (04 R81). -/
def w64 (signed : Bool) : BitVec 4 := if signed then 8 else 4
def encK2 (opc : Nat) (d a b : KReg) : Option Enc :=
  encS3 opc { d := d.setWidth 6, a := a.setWidth 6, b := b.setWidth 6 }
def encCap (opc : Nat) (d a : CReg) (b : SrcB) : Option Enc :=
  encS3B opc { d := d.setWidth 6, a := a.setWidth 6 } b
def encCget (sub : BitVec 4) (d : SReg) (a : CReg) : Option Enc :=
  encS3 0x4B { d := d, a := a.setWidth 6, sub := sub }
def encBR (opc : Nat) (f : FBR) : Option Enc := some ⟨opc, {}, f.enc⟩
def encSYS (opc : Nat) (f : FSYS) (p : Pred := {}) : Option Enc := some ⟨opc, p, f.enc⟩
def encV3 (opc : Nat) (p : Pred) (f : FV3) : Option Enc := some ⟨opc, p, f.enc⟩
def encVI (opc : Nat) (p : Pred) (f : FVI) : Option Enc := some ⟨opc, p, f.enc⟩
def encXV (opc : Nat) (f : FXV) : Option Enc := some ⟨opc, {}, f.enc⟩
def encMEM (opc : Nat) (p : Pred) (o : Ord) (sc : Scope) (t : Ty) (r : BitVec 8) (c : CReg) (x : Idx) (off : BitVec 13) :
    Option Enc :=
  some ⟨opc, p, { r := r, c := c, x := x.fld, xm := x.xm, t := t.code, ord := o.code, scp := BitVec.ofNat 3 sc.code,
                  off := off : FMEM }.enc⟩
def encCPY (opc : Nat) (p : Pred) (f : CpyFields) (xs xd : BitVec 8) : Option Enc :=
  some ⟨opc, p, { cd := f.cd, cs := f.cs, xd := xd, xs := xs, len := f.len, cmp := f.cmp,
                  scp := BitVec.ofNat 3 f.scope.code, q := f.q : FCPY }.enc⟩
def encAT (opc : Nat) (p : Pred) (op : BitVec 3) (o : Ord) (sc : Scope) (t : Ty) (d : BitVec 8) (c : CReg) (x : Idx)
    (a : BitVec 8) : Option Enc :=
  some ⟨opc, p, { d := d, c := c, x := x.fld, xm := x.xm, a := a, op := op, ord := o.code,
                  scp := BitVec.ofNat 3 sc.code, t := t.code : FAT }.enc⟩
def encMX (opc : Nat) (f : FMX) : Option Enc := some ⟨opc, {}, f.enc⟩
def encTK (opc : Nat) (f : FTK) (p : Pred := {}) : Option Enc := some ⟨opc, p, f.enc⟩
/-- A register field wider than its operand (03 R60). -/
def s8 (r : SReg) : BitVec 8 := r.setWidth 8
def k8 (r : KReg) : BitVec 8 := r.setWidth 8
/-- SUB of a cross-lane word: bit 3 is `.sl` (05 R125). -/
def slSub (sl : Bool) (n : Nat) : BitVec 4 := BitVec.ofNat 4 (n + if sl then 8 else 0)
/-- SUB of an indexed flag. -/
def bit1 (b : Bool) : BitVec 1 := if b then 1 else 0

/-- The fields of an instruction with a word; none for a step without one (03 R65-R76). -/
def encodeFields : Instr → Option Enc
  | .nop => encSYS 0x00 {}
  | .br c a b off => encBR 0x01 { a := a, b := b, cond := c.code, off := off }
  | .brS c a b off => encBR 0x02 { a := a, b := b, cond := c.code, off := off }
  | .brKz a off => encBR 0x03 { a := a.setWidth 6, off := off }
  | .brKnz a off => encBR 0x04 { a := a.setWidth 6, off := off }
  | .brKf a off => encBR 0x05 { a := a.setWidth 6, off := off }
  | .call a off => encBR 0x06 { a := a, off := off }
  | .ret a => encBR 0x07 { a := a }
  | .loop l a off => encBR 0x08 { a := a, l := bit1 l, off := off }
  | .loopi l n off => encBR 0x09 { a := n.setWidth 6, b := (n >>> 6).setWidth 6, l := bit1 l, off := off }
  | .rgn s v => encSYS 0x0A { r1 := s8 s, r2 := s8 v }
  | .rgnEnd => encSYS 0x0A { sub := 1 }
  | .gjoin => encSYS 0x0B {}
  | .exit p => encSYS 0x0C {} p
  | .sexit => encSYS 0x0D {}
  | .yield => encSYS 0x0E {}
  | .rdsr d n => encSYS 0x10 { r1 := s8 d, imm := n.setWidth 24 }
  | .rdsrV p d n => encSYS 0x10 { r1 := d, sub := 1, imm := n.setWidth 24 } p
  | .wrsr n a => encSYS 0x11 { r2 := s8 a, imm := n.setWidth 24 }
  | .frWrite a => encSYS 0x11 { r2 := s8 a, imm := 0x00E }
  | .lfmWrite a => encSYS 0x11 { r2 := s8 a, imm := 0x00F }
  | .hrdWrite a => encSYS 0x11 { r2 := s8 a, imm := 0x115 }
  | .hcapWrite a => encSYS 0x11 { r2 := s8 a, imm := 0x116 }
  | .hexeWrite a => encSYS 0x11 { r2 := s8 a, imm := 0x117 }
  | .lcWrite l a => encSYS 0x11 { r2 := s8 a, imm := if l then 0x013 else 0x012 }
  | .fmt imm => encSYS 0x12 { imm := imm }
  | .alloc e => encSYS 0x13 { imm := e.setWidth 24 }
  | .free => encSYS 0x14 {}
  | .trap n => encSYS 0x18 { imm := n.setWidth 24 }
  | .tret => encSYS 0x19 {}
  | .sysc n => encSYS 0x1A { imm := n.setWidth 24 }
  | .idle => encSYS 0x1B {}
  | .hbrk => encSYS 0x1C {}
  | .sadd d a b => encS3B 0x20 { d := d, a := a } b
  | .ssub d a b => encS3B 0x21 { d := d, a := a } b
  | .smul d a b => encS3B 0x22 { d := d, a := a } b
  | .sand d a b => encS3B 0x26 { d := d, a := a } b
  | .sor d a b => encS3B 0x27 { d := d, a := a } b
  | .sxor d a b => encS3B 0x28 { d := d, a := a } b
  | .sshl d a b => encS3B 0x29 { d := d, a := a } b
  | .sshr d a b => encS3B 0x2A { d := d, a := a } b
  | .ssra d a b => encS3B 0x2B { d := d, a := a } b
  | .smulh g d a b => encS3B 0x23 { d := d, a := a, t := w64 g } b
  | .sdiv g d a b => encS3B 0x24 { d := d, a := a, t := w64 g } b
  | .srem g d a b => encS3B 0x25 { d := d, a := a, t := w64 g } b
  | .smin g d a b => encS3B 0x2C { d := d, a := a, t := w64 g } b
  | .smax g d a b => encS3B 0x2D { d := d, a := a, t := w64 g } b
  | .scmp c g d a b => encS3B 0x2E { d := d, a := a, t := w64 g, sub := c.code } b
  | .ssel d a b => encS3 0x2F { d := d, a := a, b := b }
  | .smov d a => encS3 0x30 { d := d, a := a }
  | .spopc d a => encS3 0x36 { d := d, a := a }
  | .sclz d a => encS3 0x37 { d := d, a := a }
  | .sli d imm => some ⟨0x31, {}, { d := d, imm := imm : FSL }.enc⟩
  | .slih d imm => some ⟨0x32, {}, { d := d, imm := imm : FSL }.enc⟩
  | .sext t d a => encS3 0x33 { d := d, a := a, t := t.code }
  | .sbfe g d a pos w => encS3 0x34 { d := d, a := a, t := w64 g, i := 1, imm := BitVec.ofNat 17 (pos.toNat + 64 * w.toNat) }
  | .sbfi d a pos w => encS3 0x35 { d := d, a := a, i := 1, imm := BitVec.ofNat 17 (pos.toNat + 64 * w.toNat) }
  | .kand d a b => encK2 0x40 d a b
  | .kor d a b => encK2 0x41 d a b
  | .kxor d a b => encK2 0x42 d a b
  | .kandn d a b => encK2 0x43 d a b
  | .knot d a => encK2 0x44 d a 0
  | .kmov d a => encK2 0x45 d a 0
  | .kmovImm d imm => encS3 0x45 { d := d.setWidth 6, i := 1, imm := imm }
  | .kmovFromScalar d a => encS3 0x45 { d := d.setWidth 6, a := a, sub := 1 }
  | .kmovToScalar d a => encS3 0x45 { d := d, a := a.setWidth 6, sub := 2 }
  | .kpopc d a => encS3 0x46 { d := d, a := a.setWidth 6 }
  | .kfirst d a => encS3 0x47 { d := d, a := a.setWidth 6 }
  | .cset d a b => encCap 0x48 d a b
  | .coff d a b => encCap 0x49 d a b
  | .cperm d a b => encCap 0x4A d a b
  | .cgetBase d a => encCget 0 d a
  | .cgetLen d a => encCget 1 d a
  | .cgetGran d a => encCget 2 d a
  | .cgetSpace d a => encCget 3 d a
  | .cgetPerm d a => encCget 4 d a
  | .ctag d a => encS3 0x4C { d := d, a := a.setWidth 6 }
  | .cmov d a => encS3 0x4D { d := d.setWidth 6, a := a.setWidth 6 }
  | .vadd p t d a b => encV3 0x50 p { d := d, a := a, b := b, t1 := t.code }
  | .vsub p t d a b => encV3 0x51 p { d := d, a := a, b := b, t1 := t.code }
  | .vmul p t d a b => encV3 0x52 p { d := d, a := a, b := b, t1 := t.code }
  | .vmulh p t d a b => encV3 0x53 p { d := d, a := a, b := b, t1 := t.code }
  | .vshl p t d a b => encV3 0x58 p { d := d, a := a, b := b, t1 := t.code }
  | .vshr p t d a b => encV3 0x59 p { d := d, a := a, b := b, t1 := t.code }
  | .vsra p t d a b => encV3 0x5A p { d := d, a := a, b := b, t1 := t.code }
  | .vmin p t d a b => encV3 0x5B p { d := d, a := a, b := b, t1 := t.code }
  | .vmax p t d a b => encV3 0x5C p { d := d, a := a, b := b, t1 := t.code }
  | .vfadd p t d a b => encV3 0x67 p { d := d, a := a, b := b, t1 := t.code }
  | .vfsub p t d a b => encV3 0x68 p { d := d, a := a, b := b, t1 := t.code }
  | .vfmul p t d a b => encV3 0x69 p { d := d, a := a, b := b, t1 := t.code }
  | .vfmin p t d a b => encV3 0x6B p { d := d, a := a, b := b, t1 := t.code }
  | .vfmax p t d a b => encV3 0x6C p { d := d, a := a, b := b, t1 := t.code }
  | .vabs p t d a => encV3 0x5D p { d := d, a := a, t1 := t.code }
  | .vneg p t d a => encV3 0x5E p { d := d, a := a, t1 := t.code }
  | .vclz p t d a => encV3 0x64 p { d := d, a := a, t1 := t.code }
  | .vpopc p t d a => encV3 0x65 p { d := d, a := a, t1 := t.code }
  | .vfabs p t d a => encV3 0x6D p { d := d, a := a, t1 := t.code }
  | .vfneg p t d a => encV3 0x6E p { d := d, a := a, t1 := t.code }
  | .vfcls p t d a => encV3 0x70 p { d := d, a := a, t1 := t.code }
  | .vrcp p t d a => encV3 0x71 p { d := d, a := a, t1 := t.code }
  | .vrsq p t d a => encV3 0x72 p { d := d, a := a, t1 := t.code }
  | .vexp2 p t d a => encV3 0x73 p { d := d, a := a, t1 := t.code }
  | .vlog2 p t d a => encV3 0x74 p { d := d, a := a, t1 := t.code }
  | .vmad p t d a b c => encV3 0x54 p { d := d, a := a, b := b, c := c, t1 := t.code }
  | .vbfe p t d a b c => encV3 0x66 p { d := d, a := a, b := b, c := c, t1 := t.code }
  | .vfma p t d a b c => encV3 0x6A p { d := d, a := a, b := b, c := c, t1 := t.code }
  | .vand p d a b => encV3 0x55 p { d := d, a := a, b := b }
  | .vor p d a b => encV3 0x56 p { d := d, a := a, b := b }
  | .vxor p d a b => encV3 0x57 p { d := d, a := a, b := b }
  | .vcmp p c t k a b => encV3 0x5F p { a := a, b := b, c := k8 k, t1 := t.code, sub := c.code }
  | .vfcmp p c t k a b => encV3 0x6F p { a := a, b := b, c := k8 k, t1 := t.code, sub := c.code }
  | .vsel p d a b k => encV3 0x60 p { d := d, a := a, b := b, c := k8 k }
  | .vmov p d a => encV3 0x61 p { d := d, a := a }
  | .vli p t d imm => encVI 0x62 p { d := d, imm := imm, t := t.code }
  | .vbcast p t d a => encV3 0x63 p { d := d, a := s8 a, t1 := t.code }
  | .vcvt p t1 t2 d a => encV3 0x75 p { d := d, a := a, t1 := t1.code, t2 := t2.code }
  | .vpack p t1 t2 d a b => encV3 0x76 p { d := d, a := a, b := b, t1 := t1.code, t2 := t2.code }
  | .vunpack p t1 t2 d a h => encV3 0x77 p { d := d, a := a, t1 := t1.code, t2 := t2.code, sub := if h then 1 else 0 }
  | .vqb t1 d a b => encV3 0x78 {} { d := d, a := a, b := b, t1 := t1.code, t2 := Ty.f32.code }
  | .vdqb p t2 d a h => encV3 0x79 p { d := d, a := a, t1 := Ty.f32.code, t2 := t2.code, sub := if h then 1 else 0 }
  | .shf p sl d kf a b => encV3 0x7A p { d := d, a := a, b := b, c := k8 kf, sub := slSub sl 0 }
  | .shfUp p sl d kf a b => encV3 0x7B p { d := d, a := a, b := s8 b, c := k8 kf, sub := slSub sl 0 }
  | .shfDn p sl d kf a b => encV3 0x7C p { d := d, a := a, b := s8 b, c := k8 kf, sub := slSub sl 0 }
  | .shfX p sl d kf a b => encV3 0x7D p { d := d, a := a, b := s8 b, c := k8 kf, sub := slSub sl 0 }
  | .voteAny p sl d a => encV3 0x7E p { d := s8 d, a := k8 a, sub := slSub sl 0 }
  | .voteAll p sl d a => encV3 0x7F p { d := s8 d, a := k8 a, sub := slSub sl 0 }
  | .voteBal p sl d a => encV3 0x80 p { d := s8 d, a := k8 a, sub := slSub sl 0 }
  | .vred p sl op t d a => encV3 0x81 p { d := d, a := a, t1 := t.code, sub := slSub sl op.code }
  | .vscan p sl op t d a => encV3 0x82 p { d := d, a := a, t1 := t.code, sub := slSub sl op.code }
  | .vaddImm p t d a imm => encVI 0x83 p { d := d, a := a, imm := imm, t := t.code }
  | .vmulImm p t d a imm => encVI 0x84 p { d := d, a := a, imm := imm, t := t.code }
  | .vshlImm p t d a imm => encVI 0x88 p { d := d, a := a, imm := imm, t := t.code }
  | .vshrImm p t d a imm => encVI 0x89 p { d := d, a := a, imm := imm, t := t.code }
  | .vsraImm p t d a imm => encVI 0x8A p { d := d, a := a, imm := imm, t := t.code }
  | .vminImm p t d a imm => encVI 0x8B p { d := d, a := a, imm := imm, t := t.code }
  | .vmaxImm p t d a imm => encVI 0x8C p { d := d, a := a, imm := imm, t := t.code }
  | .vfaddImm p t d a imm => encVI 0x8E p { d := d, a := a, imm := imm, t := t.code }
  | .vfmulImm p t d a imm => encVI 0x8F p { d := d, a := a, imm := imm, t := t.code }
  | .vandImm p d a imm => encVI 0x85 p { d := d, a := a, imm := imm }
  | .vorImm p d a imm => encVI 0x86 p { d := d, a := a, imm := imm }
  | .vxorImm p d a imm => encVI 0x87 p { d := d, a := a, imm := imm }
  | .vcmpImm p c t k a imm => encVI 0x8D p { d := k8 k, a := a, imm := imm, t := t.code, sub := c.code }
  | .xvStep nt op w km => encXV 0x90 { a := op, b := w, km := km, nt := bit1 nt }
  | .xvRun nt op w km n => encXV 0x91 { a := op, b := w, km := km, nt := bit1 nt, s := n }
  | .xvLdk a => encXV 0x92 { a := a }
  | .xvClr km => encXV 0x93 { km := km }
  | .xvPush nt a km => encXV 0x94 { a := a, km := km, nt := bit1 nt }
  | .xvPop nt d km => encXV 0x95 { a := d, km := km, nt := bit1 nt }
  | .xvDep d => encXV 0x96 { a := d }
  | .xvStat d => encXV 0x97 { a := d }
  | .xvSave c x imm => encXV 0x98 { s := x, cp := c, imm := imm }
  | .xvLoad c x imm => encXV 0x99 { s := x, cp := c, imm := imm }
  | .ld o sc t d c x off => encMEM 0xA0 {} o sc t (s8 d) c x off
  | .st o sc t d c x off => encMEM 0xA1 {} o sc t (s8 d) c x off
  | .ldc o sc d c x off => encMEM 0xA2 {} o sc .none (d.setWidth 8) c x off
  | .stc o sc d c x off => encMEM 0xA3 {} o sc .none (d.setWidth 8) c x off
  | .ldV p t d c x off => encMEM 0xA4 p .plain .core t d c x off
  | .stV p t d c x off => encMEM 0xA5 p .plain .core t d c x off
  | .fence o sc => encMEM 0xB0 {} o sc .none 0 0 .none 0
  | .cpy f xs xd => encCPY 0xA8 {} f (s8 xs) (s8 xd)
  | .cpy2d f xs xd => encCPY 0xA9 {} f (s8 xs) (s8 xd)
  | .cpyG p f xs xd => encCPY 0xAA p f xs (s8 xd)
  | .cpyS p f xs xd => encCPY 0xAB p f (s8 xs) xd
  | .cpyCommit d => some ⟨0xAC, {}, { len := d : FCPY }.enc⟩
  | .cpyWait d => some ⟨0xAD, {}, { len := d : FCPY }.enc⟩
  | .qfence q sc cmp n => some ⟨0xB1, {}, { len := n, cmp := cmp, scp := BitVec.ofNat 3 sc.code, q := q : FCPY }.enc⟩
  | .atm p op o sc t d c x a => encAT 0xC0 p op.code o sc t d c x a
  | .atmBinc p o sc t d c x a => encAT 0xC1 p 0 o sc t d c x a
  | .atmWinc p o sc t d c x a => encAT 0xC2 p 0 o sc t d c x a
  | .atmCdec p o sc t d c x => encAT 0xC3 p 0 o sc t d c x 0
  | .atmFaddl o sc d c x a => encAT 0xC4 {} 0 o sc .n64 (s8 d) c x (s8 a)
  | .fat o sc t d c x a => encAT 0xC5 {} 0 o sc t (s8 d) c x (s8 a)
  | .redF o sc d c x a => encAT 0xC6 {} 0 o sc .f32 (s8 d) c x (s8 a)
  | .barArr sc n => encSYS 0xC8 { sub := BitVec.ofNat 4 sc.code, imm := n }
  | .barWait sc n => encSYS 0xC9 { sub := BitVec.ofNat 4 sc.code, imm := n }
  | .bbExp bb a => encSYS 0xCA { r2 := s8 a, imm := bb.setWidth 24 }
  | .bbArr d bb => encSYS 0xCB { r1 := s8 d, sub := 0, imm := bb.setWidth 24 }
  | .bbArrDecl d bb => encSYS 0xCB { r1 := s8 d, sub := 1, imm := bb.setWidth 24 }
  | .bbArrLeave d bb => encSYS 0xCB { r1 := s8 d, sub := 2, imm := bb.setWidth 24 }
  | .bbWait bb a => encSYS 0xCC { r2 := s8 a, imm := bb.setWidth 24 }
  | .mcfg m sh => encMX 0xD0 { t := BitVec.ofNat 4 sh.code, m := bit1 m }
  | .mperm t c x => encMX 0xD1 { t := t.setWidth 4, c1 := c, s1 := x }
  | .mlw c x n => encMX 0xD2 { c1 := c, s1 := x, s2 := n }
  | .mswap => encMX 0xD3 {}
  | .mst z t c x n => encMX 0xD4 { t := t, c1 := c, s1 := x, s2 := n, m := bit1 z }
  | .mzero t => encMX 0xD5 { t := t }
  | .mrd ty d t r c => encMX 0xD6 { t := t, c2 := ty.code, v := d, s1 := r, s2 := c }
  | .mwr ty t a r c => encMX 0xD7 { t := t, c2 := ty.code, v := a, s1 := r, s2 := c }
  | .mout c x t r => encMX 0xD8 { t := t, c1 := c, s1 := x, s2 := r }
  | .mmaskTree t v x n => encMX 0xD9 { t := t, v := v, s1 := x, s2 := n }
  | .batTake => encMX 0xDA {}
  | .batGive => encMX 0xDB {}
  | .batTest d => encMX 0xDC { s1 := d }
  | .kvc z cmp cnt sg ch pos acc rb => encMX 0xDD { c1 := sg, c2 := ch, v := s8 rb, s1 := cnt, s2 := pos, s3 := acc, cmp := cmp, m := bit1 z }
  | .spawn p d h x c len cls => encTK 0xE0 { s1 := d, s2 := h, s3 := x, c := c, cls := cls, imm := len } p
  | .spawnRec x c len => encTK 0xE1 { s2 := x, c := c, imm := len }
  | .tdone p => encTK 0xE2 {} p
  | .targ p d off => encTK 0xE3 { s1 := d, imm := off } p
  | .launch d x c len => encTK 0xE4 { s1 := d, s2 := x, c := c, imm := len }
  | .rinv t ak node h c len l st cls => encTK 0xE5 { s1 := node, s2 := h, s3 := l, s4 := st, c := c, cls := cls, tr := bit1 t, ak := bit1 ak, imm := len }
  | .tmark tag a => encSYS 0xE8 { r2 := s8 a, imm := tag.setWidth 24 }
  | .rdpc d => encSYS 0xE9 { r1 := s8 d }
  | .syscAnswer _ => none
  | .idleTimeout _ => none
  | .xvRetire _ => none
  | .loadDataReturn _ => none
  | .queuePerformCommand _ => none
  | .faultRecordPendingWrite _ => none
  | .commandComplete _ => none
  | .redFRetry _ => none
  | .matrixPerform _ => none
  | .taskRetireSignals _ => none
  | .stallTimerExpiry _ => none
  | .invokeTake _ => none
  | .dispatch _ => none
  | .hang _ => none
  | .trapServiceStart _ => none
  | .swapOut _ => none
  | .lightSave _ => none
  | .preemptTimeout _ => none
  | .blockRestore _ => none
  | .duplexSwitch _ => none
  | .killQuiescence _ => none
  | .crewKill _ => none
  | .selfTestDone _ _ => none
  | .flitCrcFail _ => none
  | .yardResend _ => none
  | .failover _ => none
  | .wearTick _ _ => none
  | .thermalDerate _ => none
  | .thermalRestore _ => none
  | .bringUp _ => none
  | .breakpointStop _ => none
  | .stepEnd _ => none
  | .unassignedOpcode _ => none
  | .fetchFault _ => none
  | .hbmChannelResume _ => none
  | .hctlHold => none
  | .hctlMark => none
  | .hctlUnmark => none
  | .hctlKill => none
  | .lifetimeRecordWrite => none
  | .thermalShutdown => none
  | .railFault => none
  | .powerDown => none
  | .write => none
  | .read => none
  | .data => none
  | .fatm => none
  | .red => none
  | .reductionTreeNode => none
  | .invoke => none
  | .answer => none
  | .launchMessage => none
  | .inval => none
  | .pageResp => none
  | .marker => none
  | .nack => none
  | .barrier => none
  | .status => none
  | .attest => none
  | .regrd => none
  | .regwr => none
  | .ctxwr => none
  | .ctxkill => none
  | .resideMake => none
  | .resideEnd => none
  | .switch => none
  | .preemptBlock => none
  | .preemptGrid => none
  | .preemptContext => none
  | .load => none
  | .migrateExport => none
  | .migrateImport => none
  | .vdev => none
  | .vdresClearResident => none
  | .vdresSetResident => none
  | .vdresReset => none
  | .vdresSetLog => none
  | .redwin => none
  | .podjoin => none
  | .sessionOpen => none
  | .sessionConfigure => none
  | .sessionResetQueue => none
  | .sessionClose => none
  | .debugStop => none
  | .debugStep => none
  | .debugContinue => none
  | .debugKill => none
  | .cutStart => none
  | .cutContinue => none
  | .cutEnd => none
  | .replay => none
  | .fwwrite => none
  | .reset => none
  | .mgmtUnknownCode => none

/-- The scheduling fields as a number (03 R52). -/
def Sched.code (c : Sched) : Nat := c.ver.toNat + 4 * (c.stall.toNat + 16 * (b2n c.yld + 2 * b2n c.sb))

/-- A word from its parts (03 R52). -/
def Enc.word (c : Sched) (e : Enc) : Nat :=
  c.code + 2 ^ 8 * (e.opc + 2 ^ 8 * (e.p.k.toNat + 2 ^ 3 * (b2n e.p.neg + 2 * e.ops)))

/-- The instruction word of a well-formed instruction, with scheduling fields. -/
def encode (c : Sched) (i : Instr) : Option Nat := (encodeFields i).map (Enc.word c)

/-- The instruction read from a word numbered as the opcode table numbers it: one 64-bit word, little-endian
(03 R52), under the least restrictive header. -/
def decodeTableWord (_nbits w : Nat) : Option Instr :=
  match decode {} (w % 2 ^ 64) with
  | .ok i => some i
  | .error _ => none

/-! ### Messages (17 R292, 23 R372, R374) -/

/-- One byte of a message's payload. -/
def Msg.byte (m : Msg) (o : Nat) : Nat := (m.payload.getD o 0).toNat
/-- The operation of a management message, by its code in ARG and its op byte where the code has one; an op that is not
listed goes to the first operation of its code, which refuses it. -/
def decodeMgmt (m : Msg) : Instr :=
  match m.arg.toNat with
  | 0x01 => .status
  | 0x02 => .attest
  | 0x03 => .regrd
  | 0x04 => .regwr
  | 0x10 => .ctxwr
  | 0x11 => .ctxkill
  | 0x12 => if m.byte 1 = 0 then .resideEnd else .resideMake
  | 0x13 => .switch
  | 0x14 => if m.byte 1 = 1 then .preemptGrid else if m.byte 1 = 2 then .preemptContext else .preemptBlock
  | 0x15 => .load
  | 0x16 => if m.byte 1 = 1 then .migrateImport else .migrateExport
  | 0x18 => .vdev
  | 0x19 => if m.byte 1 = 1 then .vdresSetResident else if m.byte 1 = 2 then .vdresReset else if m.byte 1 = 3 then .vdresSetLog else .vdresClearResident
  | 0x1A => .redwin
  | 0x1B => .podjoin
  | 0x20 => if m.byte 1 = 1 then .sessionConfigure else if m.byte 1 = 2 then .sessionResetQueue else if m.byte 1 = 3 then .sessionClose else .sessionOpen
  | 0x21 => if m.byte 1 = 1 then .debugStep else if m.byte 1 = 2 then .debugContinue else if m.byte 1 = 3 then .debugKill else .debugStop
  | 0x22 => if m.byte 7 = 1 then .cutContinue else if m.byte 7 = 2 then .cutEnd else .cutStart
  | 0x23 => .replay
  | 0x30 => .fwwrite
  | 0x31 => .reset
  | _ => .mgmtUnknownCode
/-- The step that an arriving message brings; none for one that has no effect here: COMPLETION, LOG, INVAL-DONE and
FAULT-NOTE, which are for hosts, and a reserved TYPE. -/
def decodeMsg (m : Msg) : Option Instr :=
  match m.type.toNat with
  | 0x01 => some .write
  | 0x02 => some .read
  | 0x03 => some .data
  | 0x04 => some .fatm
  | 0x05 => some (if m.arg = 0x8000 then .red else .reductionTreeNode)
  | 0x08 => some .invoke
  | 0x09 => some .answer
  | 0x10 => some .launchMessage
  | 0x13 => some .inval
  | 0x15 => some .pageResp
  | 0x18 => some .marker
  | 0x19 => some (decodeMgmt m)
  | 0x1A => some .nack
  | 0x1B => some .barrier
  | _ => none

end Sys2Proof
end

