-- ==== Sys2Proof/Machine/State.lean ====
section
/-! DEFINITION. The state of one package: every piece of state the manual gives it, as plain data.
Registers and memories are canonical sparse stores; units are records in lists, found by a key. -/
namespace Sys2Proof.Machine

/-- One hardware loop level (02 R26, 04 R90). -/
structure Loop where
  active : Bool := false
  count : W32 := 0
  start : Addr := 0
  stop : Addr := 0
  deriving DecidableEq, Repr

/-- A capability with its tag (10 R176). -/
structure Cap where
  bits : BitVec 128 := 0
  tag : Bool := false
  deriving DecidableEq, Repr

/-- The snapshot that `rgn` takes (04 R93). -/
structure Snapshot where
  k : Cells 32 := []
  c : Cells 128 := []
  ct : W16 := 0
  fr : W64 := 0
  lc0 : Loop := {}
  lc1 : Loop := {}
  deriving DecidableEq, Repr

/-- The region marker with its snapshot (04 R93). -/
structure Region where
  entry : Addr := 0
  sMask : W64 := 0
  vMask : W64 := 0
  snap : Snapshot := {}
  deriving DecidableEq, Repr

/-- What a holding slice waits for (02 R36, R37). -/
inductive Wait where
  /-- `cpy.wait n` (11 R197). -/
  | copy (n : W16)
  /-- `bar.wait` for the end of a phase of barrier `bar` (11 R208). -/
  | bar (bar phase : Nat)
  /-- A second arrival before the phase of the first has ended (11 R208). -/
  | barAgain (bar phase : Nat)
  /-- `bb.wait`: the phase bit differs from `p` (11 R210). -/
  | bb (bar : Nat) (p : Bool)
  /-- A second arrival of a party in one phase (11 R210). -/
  | bbAgain (bar : Nat) (p : Bool)
  /-- `bat.take` (14 R248). -/
  | baton (unit : Nat)
  /-- `sysc n` without its answer (04 R102). -/
  | sysc (n : W16)
  /-- `sysc` whose answer has been written (04 R102). -/
  | answered
  /-- `fence` or a read of a pending `fat` result: commands that must end (11 R200, R204). -/
  | cmds (ids : List Nat)
  /-- `rinv.t` without its answer (16 R275). -/
  | answer (tag : W16)
  /-- `gjoin` (02 R29). -/
  | gjoin
  /-- `idle` until a cycle; an event of R103 leaves 0 (04 R103). -/
  | idle (due : Nat)
  /-- `alloc e` (02 R40). -/
  | alloc (e : Nat)
  /-- A push that found no stall (17 R283), or a 17th `rinv` (16 R275). -/
  | room
  /-- A full matrix queue (15 R255). -/
  | mroom (unit : Nat)
  /-- An instruction that waits for earlier execute-vector instructions to retire (08 R155). -/
  | xv
  /-- A trapping execute-vector instruction that has not retired (08 R155). -/
  | xvDone
  /-- `cpy.commit` with 32767 unfinished batches, until the oldest of the slice's completes; none where another member of
  the group has them (11 R196). -/
  | batches (oldest : Option W16)
  /-- After a `yield`: the slices named issue first or stop being ready (04 R95). -/
  | yield (others : List Nat)
  deriving DecidableEq, Repr

/-- Where a slice stands (02 R25, R37, R44; 13 R229, R233). -/
inductive Run where
  | ready
  | waiting (w : Wait)
  | parked (w : Wait)
  | held
  | retired
  deriving DecidableEq, Repr

/-- A variable-latency result that has not landed (02 R50). -/
inductive Landing where
  | s (r : SReg) (x : W64)
  | c (r : CReg) (x : Cap)
  | v (r : VReg) (m : W32) (xs : List W32)
  deriving DecidableEq, Repr

/-- A fixed-latency result on its way (03 R54-R57): register class and number, the value before, and the
cycle from which the new value is forwarded. -/
structure Recent where
  cls : Nat := 0
  num : Nat := 0
  due : Nat := 0
  old : List W64 := []
  deriving DecidableEq, Repr

/-- The kinds of execute-vector instruction (08 R154). -/
inductive XvKind where
  | step | run | ldk | clr | push | pop
  deriving DecidableEq, Repr

/-- An issued execute-vector instruction with what it read at issue (08 R156-R160). -/
structure XvOp where
  kind : XvKind := .step
  pc : Addr := 0
  nt : Bool := false
  sel : W32 := 0
  w : VReg := 0
  win : List (List W32) := []
  ops : List (List W32) := []
  fr : W64 := 0
  cc : W64 := 0
  wu : W64 := 0
  handler : Bool := false
  word : W64 := 0
  deriving DecidableEq, Repr

/-- The execute-vector state of a slice (08 R151): stack entry e of lane l at key 8 l + e. -/
structure Xv where
  stack : Cells 32 := []
  depth : Cells 4 := []
  consts : Cells 32 := []
  lfm : W32 := 0
  code : Cells 4 := []
  resume : Option (Addr × Nat) := none
  queue : List XvOp := []
  deriving DecidableEq, Repr

/-- A trap cause found in a slice (13 R227). -/
structure TrapInfo where
  code : Byte := 0
  subc : Byte := 0
  lane : Byte := 0xFF
  pc : Addr := 0
  rpc : Addr := 0
  info : W64 := 0
  word : W64 := 0
  deriving DecidableEq, Repr

/-- Whom a task answers (16 R275, 17 R284). -/
structure Ack where
  node : W16 := 0
  tag : W16 := 0
  grp : W16 := 0
  gen : W16 := 0
  cls : Nat := 0
  die : Nat := 0
  deriving DecidableEq, Repr

/-- A task: its record and whom it answers (17 R278). -/
structure Task where
  bytes : List Byte := []
  ack : Option Ack := none
  deriving DecidableEq, Repr

/-- One slice (02 R22), of a gang or a handler's (13 R229). Lane l of register r of `v` stands at key 32 r + l. -/
structure Slice where
  id : Nat := 0
  handler : Bool := false
  block : Nat := 0
  ctx : Nat := 0
  die : Nat := 0
  core : Nat := 0
  pdk : Nat := 0
  gid : Nat := 0
  idx : Nat := 0
  pc : Addr := 0
  s : Cells 64 := []
  v : Cells 32 := []
  k : Cells 32 := []
  c : Cells 128 := []
  ct : W16 := 0
  lc0 : Loop := {}
  lc1 : Loop := {}
  fr : W64 := 0
  alive : W32 := 0
  exited : W32 := 0
  gm : BitVec 4 := 0
  ext : Nat := 0
  batch : W16 := 0
  region : Option Region := none
  hang : Nat := 0
  run : Run := .ready
  marked : Bool := false
  xv : Xv := {}
  land : List Landing := []
  recent : List Recent := []
  nextIssue : Nat := 0
  interlock : Nat := 0
  arrived : List (Nat × Nat) := []
  pagex : List TrapInfo := []
  /-- The breakpoint at which it has stopped and whose word it has not issued yet (22 R356). -/
  bpDone : Option Addr := none
  /-- Vector registers that carry a poison mark, their check copies and results on their way among them (21 R339). -/
  badV : List Nat := []
  steps : Option Nat := none
  pushes : List (Nat × Nat × Task) := []
  /-- The lag window of a checked slice: for each instruction that its shadow has not executed yet, the values that the
  load-value queue and the effects that the store-compare buffer hold for it (21 R336; log 18). -/
  lag : List (Nat × Nat) := []
  deriving DecidableEq, Repr

/-- A numbered barrier: core, quad, die, package or pod level, of a block, crew, grid or join (11 R206). -/
structure Bar where
  id : Nat := 0
  level : Scope := .core
  owner : Nat := 0
  num : Nat := 0
  expected : Nat := 0
  arrivals : Nat := 0
  phase : Nat := 0
  who : List Nat := []
  /-- Arrivals that count once the releases which their slices made before, by command, have been performed (12 R217). -/
  late : List (Nat × List Nat) := []
  deriving DecidableEq, Repr

/-- A byte barrier (11 R209). -/
structure ByteBar where
  block : Nat := 0
  num : Nat := 0
  count : BitVec 36 := 0
  phase : Bool := false
  parties : List Nat := []
  arrived : List Nat := []
  /-- Parties that have left with their arrival: none of later phases (11 R210). -/
  leaving : List Nat := []
  /-- As in a numbered barrier (12 R217). -/
  late : List (Nat × List Nat) := []
  deriving DecidableEq, Repr

/-- One lane of a wave (16 R276, 17 R284). -/
structure LaneTask where
  lane : Nat := 0
  task : Task := {}
  done : Bool := false
  answered : Bool := false
  deriving DecidableEq, Repr

/-- A launch record or packet (01 R15, 17 R288). -/
structure LaunchRec where
  entry : W64 := 0
  args : W64 := 0
  gx : Nat := 1
  gy : Nat := 1
  gz : Nat := 1
  gangs : Nat := 1
  crew : Nat := 1
  argb : Nat := 1
  lq : Nat := 0
  cls : Nat := 0
  span : Nat := 0
  pj : Nat := 0
  deriving DecidableEq, Repr

/-- An entry of a launch queue (18 R297, R298). -/
structure LqEntry where
  htag : W64 := 0
  lrec : LaunchRec := {}
  wait : Option Nat := none
  wval : W64 := 0
  sig : Option Nat := none
  inline : Bool := false
  grid : Nat := 0
  deriving DecidableEq, Repr

/-- The trap record (13 R231). -/
structure TrapRec where
  pc : W64 := 0
  rpc : W64 := 0
  info : W64 := 0
  word : W64 := 0
  code : Byte := 0
  subc : Byte := 0
  lane : Byte := 0xFF
  unit : Byte := 0
  gid : Byte := 0
  gen : W16 := 0
  lfm : W32 := 0
  bph : W32 := 0
  blk : BitVec 48 := 0
  cc : W64 := 0
  deriving DecidableEq, Repr

/-- A grid (02 R22). -/
structure Grid where
  id : Nat := 0
  ctx : Nat := 0
  die : Nat := 0
  lrec : LaunchRec := {}
  htag : W64 := 0
  sig : Option Nat := none
  inline : Bool := false
  queue : Option Nat := none
  header : W64 := 0
  argBytes : List Byte := []
  argTags : List Bool := []
  argBad : List Nat := []
  total : Nat := 1
  placed : Nat := 0
  ended : Nat := 0
  killed : Nat := 0
  firstKilled : BitVec 48 := 0
  launches : List (Nat × LaunchRec) := []
  relaunch : List (Nat × Nat × List LaneTask) := []
  reports : List TrapRec := []
  wave : Bool := false
  registered : Bool := false
  finished : Bool := false
  /-- Made of blocks whose images came from elsewhere (20 R333, 22 R360). -/
  imported : Bool := false
  deriving DecidableEq, Repr

/-- How a block stands: `dying` while the commands of a killed crew go on to their next boundaries (13 R241, 18 R306, 21 R342, 22
R354). -/
inductive BlockRun where
  | running | stopped | dying | saved | ended
  deriving DecidableEq, Repr

/-- A stop of a block that is under way: its cause byte, the program counter and slice of its record, the command that
asked for it (22 R354). -/
structure StopReq where
  cause : Byte := 0
  pc : Addr := 0
  slice : Nat := 0
  msg : Option Msg := none
  /-- Where the dump goes, for a stop that is one session's. -/
  node : Option W16 := none
  deriving DecidableEq, Repr

/-- One block (02 R22). -/
structure Block where
  id : Nat := 0
  grid : Nat := 0
  ctx : Nat := 0
  die : Nat := 0
  core : Nat := 0
  lcore : Nat := 0
  blk : BitVec 48 := 0
  lin : Nat := 0
  crew : BitVec 18 := 0
  crewSize : Nat := 1
  crewBase : Nat := 0
  header : W64 := 0
  entry : Addr := 0
  sharedBase : Nat := 0
  argBase : Nat := 0
  /-- Where the two areas stand on the core: a restore may move them under their addresses (18 R312). -/
  sharedAt : Nat := 0
  argAt : Nat := 0
  /-- Exclusive or of a logical and a physical paddock index, 0 to 3 (15 R270). -/
  flip : Nat := 0
  argBytes : Nat := 0
  ngang : Nat := 1
  pdks : List Nat := []
  bph : W32 := 0
  wave : List LaneTask := []
  waveErr : Bool := false
  run : BlockRun := .running
  cls : Nat := 0
  order : Nat := 0
  park : Nat := 0
  preempt : Option Nat := none
  kind : Nat := 0
  frozen : List (Nat × Bool) := []
  relaunched : Bool := false
  /-- It was killed (17 R288). -/
  killed : Bool := false
  stop : Option StopReq := none
  stepping : Bool := false
  /-- Since when it is stopped (22 R361). -/
  since : Nat := 0
  /-- Replayed, and not released yet (22 R360). -/
  hold : Bool := false
  deriving DecidableEq, Repr

/-- The translation fault of a command for which no record could be taken yet (10 R188). -/
structure Stuck where
  cause : Nat := 0
  level : Nat := 0
  va : Nat := 0
  kind : Nat := 0
  lane : Nat := 255
  /-- `%cc` when it was found (09 R169). -/
  cc : W64 := 0
  deriving DecidableEq, Repr

/-- A byte that a copy overwrote in its last 512 bytes: its key, the byte before with the tag byte of its unit, and the
copy's progress (11 R194). -/
structure Was where
  key : Nat := 0
  byte : Byte := 0
  tag : Byte := 0
  pos : Nat := 0
  deriving DecidableEq, Repr

/-- A command of a copy queue (11 R193-R205, 14 R249, 17 R286; image form 18 R310). -/
structure Command where
  id : Nat := 0
  kind : Nat := 1
  queue : Nat := 0
  qcode : Nat := 0
  slice : Nat := 0
  block : Nat := 0
  ctx : Nat := 0
  die : Nat := 0
  gen : W16 := 0
  pc : Addr := 0
  word : W64 := 0
  /-- As R310: 0 not begun, 1 a remainder, 2 parked, 3 set aside by NACK; 4 answered, to be retried. -/
  status : Nat := 0
  committed : Bool := false
  batch : W16 := 0
  cmp : Nat := 0
  task : Cap := {}
  scope : Scope := .core
  seq : W32 := 0
  src : Cap := {}
  dst : Cap := {}
  srcA : W64 := 0
  dstA : W64 := 0
  len : Nat := 0
  count : Nat := 0
  ps : W64 := 0
  pd : W64 := 0
  lanes : W32 := 0
  idx : Cells 32 := []
  accept : W64 := 0
  pos : W64 := 0
  z : Bool := false
  piece : Nat := 0
  off : Nat := 0
  value : W64 := 0
  index : W32 := 0
  ty : Ty := .none
  dreg : SReg := 0
  before : List Nat := []
  due : Nat := 0
  /-- 0 not begun or to be tried again, 1 performed, 2 awaiting a message, 3 a held contribution, 4 stopped for a record
  slot, 5 in progress. -/
  stage : Nat := 0
  /-- ORD of a far atomic or an ordered reduction (12 R216). -/
  ord : Ord := .plain
  /-- It has parked and not completed since: slices that wait for it stay parked (09 R171). -/
  parked : Bool := false
  stuck : Option Stuck := none
  /-- Its block has been killed: it stops at its next boundary (13 R244, 21 R342). -/
  dying : Bool := false
  was : List Was := []
  /-- The signal of its task record has been made and its push waits for a stall. -/
  pushing : Bool := false
  /-- Trace sampling (22 R361): the session parts that chose it, cycle of entry, FLAGS, the cycles of stages 0, 1, 4 and 7
  of its first piece, and since when it is in its present stage. -/
  sample : List Nat := []
  entered : Nat := 0
  flags : Byte := 0
  wait0 : Nat := 0
  wait1 : Nat := 0
  wait4 : Nat := 0
  wait7 : Nat := 0
  since : Nat := 0
  deriving DecidableEq, Repr

/-- An issued matrix instruction with what it read at issue (15 R254, R255). -/
structure MxOp where
  i : Instr := .mswap
  unit : Nat := 0
  slice : Nat := 0
  /-- The member slices whose accesses it makes (12 R222). -/
  members : List Nat := []
  block : Nat := 0
  pc : Addr := 0
  fr : W64 := 0
  cap : Cap := {}
  addr : W64 := 0
  n : Nat := 0
  m : Nat := 0
  vecs : List (List W32) := []
  perm : List Byte := []
  fmt : Nat := 0
  word : W64 := 0
  /-- A further member slice's part of the instruction before it, or the place of an `mcfg` in a further queue. -/
  part : Bool := false
  /-- The shape of its paddocks when it was issued, and the place of an `mcfg` in issue order (15 R255, R257). -/
  sh : Shape := .single
  seq : Nat := 0
  /-- Rows or columns that it has performed (15 R270). -/
  done : Nat := 0
  deriving DecidableEq, Repr

/-- A trap taken and not yet served (13 R229). -/
structure TrapEntry where
  slice : Nat := 0
  block : Nat := 0
  trec : TrapRec := {}
  deriving DecidableEq, Repr

/-- The shape codes in force on a paddock, planes, tiles and baton of one context (15 R250), its permutation
tables (07 R142) and its trap handler (13 R229-R236). Plane position k of column n stands at key 64 n + k,
tile element (t, r, n) at key 4096 t + 64 r + n (a column of a block format as the words of its image), table entry p of table t at key 64 t + p as the exclusive
or with p, so that an empty store is the identity. -/
structure PUnit where
  id : Nat := 0
  active : Cells 32 := []
  activeFmt : Nat := 1
  shadow : Cells 32 := []
  shadowFmt : Nat := 1
  tiles : Cells 32 := []
  live : W16 := 0
  kind : W16 := 0
  shape : Shape := .single
  /-- The paddock map of the block whose tiles it holds (15 R270). -/
  flip : Nat := 0
  holder : Option (Nat × Nat) := none
  takers : List (Nat × (Nat × Nat)) := []
  mq : List MxOp := []
  /-- Tiles and planes, active and shadow, that carry a poison mark (21 R339). -/
  badTiles : W16 := 0
  badPlanes : BitVec 2 := 0
  perm : Cells 8 := []
  traps : List TrapEntry := []
  late : List TrapEntry := []
  service : Option TrapEntry := none
  hslice : Nat := 0
  hregs : Option Slice := none
  hsel : BitVec 10 := 0
  hrn : BitVec 20 := 0
  hxs : Byte := 0
  proxy : Option W64 := none
  deriving DecidableEq, Repr

/-- A queued `alloc` (02 R40, R42): member slices, blocks of each, extended size asked for. -/
structure Waiter where
  ctx : Nat := 0
  members : List Nat := []
  need : Nat := 0
  e : Nat := 0
  deriving DecidableEq, Repr

/-- What wear has made of a paddock (21 R347). -/
inductive WearState where
  | nominal | derated | drained | retired
  deriving DecidableEq, Repr

/-- One paddock: residency slots (18 R303), issuing slot (R304), allocation waiters (02 R42), virtual device
(18 R313), wear in 2^-40 wu (21 R344), issue times of contexts since the last wear tick (21 R345), the peak rate of each
day in 2^-8 (21 R346), spare rows left in its quadrant (15 R269). -/
structure Pdk where
  id : Nat := 0
  slot0 : Option Nat := none
  slot1 : Option Nat := none
  issuing : Nat := 0
  since : Nat := 0
  quiet : Nat := 0
  shares : List (Nat × Nat) := []
  waiters : List Waiter := []
  vdev : Option Nat := none
  wear : Nat := 0
  peaks : List (Nat × Nat) := []
  wstate : WearState := .nominal
  rows : Nat := 2
  scrub : Bool := false
  deriving DecidableEq, Repr

/-- One stall of a core (17 R282). -/
structure Stall where
  id : Nat := 0
  state : Nat := 0
  ctx : Nat := 0
  hnd : Nat := 0
  cls : Nat := 0
  entry : W64 := 0
  fill : Nat := 1
  timer : Nat := 64
  started : Nat := 0
  readyAt : Nat := 0
  tasks : List Task := []
  deriving DecidableEq, Repr

/-- A retiring task whose accesses must complete before its signals (17 R284). -/
structure Retiring where
  id : Nat := 0
  slice : Nat := 0
  block : Nat := 0
  ctx : Nat := 0
  core : Nat := 0
  cmds : List Nat := []
  task : Task := {}
  lane : Nat := 0
  ackOk : Bool := true
  step : Nat := 0
  deriving DecidableEq, Repr

/-- An answer that this package still expects (16 R275, 17 R290). -/
structure Await where
  tag : W16 := 0
  node : W16 := 0
  /-- 0 `rinv.t`, 1 `rinv` without an answer register, 2 a command's message. -/
  kind : Nat := 0
  slice : Nat := 0
  reg : SReg := 0
  cmd : Nat := 0
  ctx : Nat := 0
  off : Nat := 0
  len : Nat := 0
  deriving DecidableEq, Repr

/-- An answer that a block of a cut still awaits: the block, the slice, the place of its command among the image's, and what the answer
brings (22 R358-R360; log 124). -/
structure OpenReq where
  blk : BitVec 48 := 0
  entry : Addr := 0
  gid : Nat := 0
  idx : Nat := 0
  cmd : Option Nat := none
  wait : Await := {}
  deriving DecidableEq, Repr

/-- A saved unit: a block's image (18 R308-R311). -/
structure Saved where
  id : Nat := 0
  block : Nat := 0
  addr : Nat := 0
  len : Nat := 0
  ready : Bool := true
  since : Nat := 0
  opens : List OpenReq := []
  /-- Poison marks of tiles and planes, by logical paddock. -/
  bad : List (Nat × W16 × BitVec 2) := []
  deriving DecidableEq, Repr

/-- A record in the push buffer of its core, whose task waits for a stall (17 R283). -/
structure PushRec where
  id : Nat := 0
  core : Nat := 0
  ctx : Nat := 0
  block : Nat := 0
  bytes : List Byte := []
  deriving DecidableEq, Repr

/-- An accepted invoke in its queue, with its place in the order of arrival (16 R274). -/
structure Invoke where
  order : Nat := 0
  hnd : Nat := 0
  cls : Nat := 0
  task : Task := {}
  deriving DecidableEq, Repr

/-- One context of one die: descriptor, tables and counters byte by byte (18 R296, R297, 17 R289), what a load
left (23 R373), queues, counters and progress of a kill. -/
structure Ctx where
  id : Nat := 0
  desc : Cells 8 := []
  lqt : Cells 8 := []
  ht : Cells 8 := []
  counters : Cells 64 := []
  launchTable : List LaunchRec := []
  kernels : List W64 := []
  lq : List (Nat × LqEntry) := []
  invokes : List Invoke := []
  outstanding : Cells 32 := []
  seq : W32 := 0
  pendingRec : List (List Byte) := []
  stale : Nat := 0
  staleResp : Nat := 0
  invalid : Nat := 0
  staleRed : Nat := 0
  /-- The virtual device of the context that had the index last (18 R315). -/
  last : Nat := 0
  /-- Stalls of the context taken off a die on which it is no longer resident (17 R282, 18 R311). -/
  away : List Stall := []
  wu : W64 := 0
  wuLow : Nat := 0
  recs : List (Nat × W64) := []
  /-- Where the matrix and stall state that has left a paddock stands in the save area: paddock, address, length (18 R311). -/
  left : List (Nat × Nat × Nat) := []
  killing : Nat := 0
  /-- 4 KiB pieces of die SRAM reserved for its spill stacks (02 R43; log 50). -/
  reserve : Nat := 196608
  /-- Which of the die's contexts it is: its key is drawn anew for each (18 R311). -/
  born : Nat := 0
  deriving DecidableEq, Repr

/-- A cached entry: a leaf in the cache of a paddock, or a table entry that the walkers of a die keep (10 R185). -/
structure TlbEntry where
  pdk : Option Nat := none
  die : Nat := 0
  ctx : Nat := 0
  gen : W16 := 0
  base : Nat := 0
  size : Nat := 0
  pte : W64 := 0
  deriving DecidableEq, Repr

/-- A contribution held for a reduction cell: its command in this package, else 0 with the message that brought it
(11 R205). -/
structure RedHeld where
  cell : Nat := 0
  index : W32 := 0
  value : W32 := 0
  cmd : Nat := 0
  back : Option Msg := none
  deriving DecidableEq, Repr

/-- A contribution, or the sum of one child, at a node of a window's tree: the switches from the root to the node, and the child
it came from, a member or a switch (17 R294). -/
structure TreeHeld where
  id : Nat := 0
  window : Nat := 0
  off : Nat := 0
  index : W32 := 0
  value : W32 := 0
  node : List Nat := []
  child : Bool × Nat := (true, 0)
  /-- What the members beneath sent. -/
  msgs : List Msg := []
  /-- Every child is in the sum, which waits for room at the next node. -/
  whole : Bool := false
  /-- The root's sum is on its way to the cell. -/
  summed : Bool := false
  deriving DecidableEq, Repr

/-- A refused message and its next sending (17 R291). -/
structure Resend where
  msg : Msg := {}
  refusals : Nat := 1
  due : Nat := 0
  sent : Bool := false
  deriving DecidableEq, Repr

/-- A virtual device (18 R313, R314). -/
structure VDev where
  id : Nat := 0
  resident : Bool := true
  logBase : Nat := 0
  logK : Nat := 0
  head : W16 := 0
  tail : W16 := 0
  drops : Nat := 0
  /-- Messages of older generations dropped (18 R315). -/
  stale : Nat := 0
  deriving DecidableEq, Repr

/-- A pod join set up here (11 R207). -/
structure PodJoin where
  grp : W16 := 0
  j : W16 := 0
  home : W16 := 0
  members : List W16 := []
  m : Nat := 1
  registered : List Nat := []
  deriving DecidableEq, Repr

/-- A reduction window; its tree as the switches on the way from the root to each member (17 R294; log 43). -/
structure RedWin where
  index : Nat := 0
  ctx : Nat := 0
  drops : Nat := 0
  base : Nat := 0
  len : Nat := 0
  members : List W16 := []
  paths : List (W16 × List Nat) := []
  deriving DecidableEq, Repr

/-- A die's part of a debug session (22 R349-R364); `uid` tells it from every other part, also from one that ended. -/
structure Session where
  uid : Nat := 0
  die : Nat := 0
  id : Nat := 0
  ctx : Nat := 0
  ringBase : Nat := 0
  ringK : Nat := 0
  head : W32 := 0
  tail : W32 := 0
  seq : W32 := 0
  dropped : Nat := 0
  mask : W32 := 0
  sample : Nat := 0
  counts : List (Nat × Nat) := []
  breaks : List W64 := []
  events : List Nat := []
  counters : Cells 64 := []
  node : W16 := 0
  deriving DecidableEq, Repr

/-- A cut that a die has recorded (22 R358, R359): its `%cc` then, markers still to send and still to come, channel records
with the cycle of their arrival, held messages, messages of the die that it holds back. -/
structure Cut where
  die : Nat := 0
  cc : W64 := 0
  grp : W16 := 0
  num : W32 := 0
  due : List (W16 × Nat) := []
  members : List W16 := []
  dest : W16 := 0
  asked : Option Msg := none
  written : Bool := false
  told : Bool := false
  channel : List (W64 × Msg) := []
  held : List Msg := []
  out : List Msg := []
  deriving DecidableEq, Repr

/-- A replay under way: the dies whose sections are loaded and delivered; those whose images are still to be restored, with their
channel records and commands; and messages for dies that have not loaded (22 R360). -/
structure Replay where
  grp : W16 := 0
  loaded : List Nat := []
  waiting : List (Nat × List Msg × Msg) := []
  held : List Msg := []
  deriving DecidableEq, Repr

/-- The counters of a context's sessions on their way with it: its CTXID where it goes, events and counts of each (22 R364); or the
answers that the blocks of a cut's section await, under the CTXID in their images (22 R358-R360; log 124). -/
structure Carried where
  id : Nat := 0
  parts : List (List Nat × Cells 64) := []
  opens : List OpenReq := []
  deriving DecidableEq, Repr

/-- An entry of the management error log of a die (21 R341, R343, R347). -/
inductive ErrEntry where
  | test (unit : TestUnit) (r : TestResult)
  | retired (pdk : Nat)
  | bare (channel : Nat)
  | controller
  deriving DecidableEq, Repr

/-- An entry of the finaliser cache: digest of the portable section, version of the finaliser's firmware, the native words and
the counts of the load's answer (20 R324). -/
structure Cached where
  digest : List Byte := []
  version : List Byte := []
  words : List Nat := []
  rewritten : Nat := 0
  unchanged : Nat := 0
  kernels : Nat := 0
  deriving DecidableEq, Repr

/-- The dispatch controller of a die (18 R300, R317), its cycle counter with what it has of its next cycle, in
sevenths of a nominal one (00 R3, 23 R369), and its firmware (23 R370). -/
structure Die where
  id : Nat := 0
  cc : Nat := 0
  rest : Nat := 0
  derated : Bool := false
  age : Cells 32 := []
  last : Cells 32 := []
  credit : List (Nat × Nat) := []
  failover : Bool := false
  standby : Bool := true
  failed : Bool := false
  held : List Msg := []
  recov : Bool := false
  slotB : Bool := false
  finaliserOk : Bool := true
  cache : List Cached := []
  /-- The pending-kick bitmap: contexts with a LAUNCH (0), an INVOKE (1) or a Ready stall (2) that has come (18 R317). -/
  kicks : List (Nat × Nat) := []
  mgmtNodes : W64 := 0xFFFFFFFFFFFFFFFF
  /-- The management error log (21 R341). -/
  errlog : List ErrEntry := []
  tick : Nat := 0
  deriving DecidableEq, Repr

/-- A Yard port, or the link over a die-to-die boundary: CRC failures since the last retrain, whether it is fenced
(21 R339). -/
structure Port where
  id : Nat := 0
  fails : Nat := 0
  fenced : Bool := false
  deriving DecidableEq, Repr

/-- An HBM channel: redundant data lanes left, and a pause for a pin repair with its start (21 R343). -/
structure Chan where
  id : Nat := 0
  lanes : Nat := 2
  paused : Bool := false
  since : Nat := 0
  bare : Bool := false
  deriving DecidableEq, Repr

/-- A self-test under way, and the cycle of its die at which it has ended (21 R341). -/
structure SelfTest where
  unit : TestUnit := .paddock 0
  due : Nat := 0
  deriving DecidableEq, Repr

/-- Cycles of the latest corrected errors of a unit (21 R341). -/
structure UnitErrs where
  unit : TestUnit := .paddock 0
  times : List Nat := []
  deriving DecidableEq, Repr

/-- A paddock's entry of the lifetime record: W in 2^-40 wu, state, peak rate of each day in 2^-8 (21 R346). -/
structure WearRec where
  id : Nat := 0
  wear : Nat := 0
  wstate : WearState := .nominal
  peaks : List (Nat × Nat) := []
  deriving DecidableEq, Repr

/-- Package flash: the node number, the firmware slots, the lifetime record with the error counts of the dies and
whether an orderly power-down closed it (21 R346, 23 R370, R375). -/
structure Flash where
  node : W16 := 0
  slotA : List Byte := []
  slotB : List Byte := []
  record : List WearRec := []
  errs : List (Nat × W64) := []
  closed : Bool := true
  deriving DecidableEq, Repr

/-- Which agent moves next, set from outside (log 2). -/
inductive Act where
  /-- A step without a word. -/
  | event (i : Instr)
  /-- A message arrives. -/
  | msg (m : Msg)
  /-- One slice's group issues. -/
  | issue (slice : Nat)
  /-- Software writes the head of a session's ring (22 R349). -/
  | ringHead (die id : Nat) (head : W32)
  /-- The host writes the head of a device's interrupt log (18 R314); by what access it does is left open, and an event of the agenda is
  the model's choice (log 38). -/
  | logHead (vdev : Nat) (head : W16)
  /-- Management reads a counter of a session, or writes its COUNT (22 R362). -/
  | counterGet (die id n : Nat)
  | counterSet (die id n : Nat) (v : W64)
  /-- Bytes of the store become poisoned by an uncorrectable error (21 R339). -/
  | poison (keys : List Nat)
  /-- An undetected error in the logic of a slice or of its shadow leaves a wrong value in a register: class 0 scalar, 1 vector, 2
  mask, 3 capability; the cell and the bits that are wrong (21 R337, R338). -/
  | upset (slice : Nat) (shadow : Bool) (cls key : Nat) (bits : W64)
  /-- A vector register of a slice becomes poisoned, or tiles and planes of a unit do (21 R339). -/
  | markReg (slice reg : Nat)
  | markUnit (unit : Nat) (tiles : W16) (planes : BitVec 2)
  /-- A corrected error in a die's controller memory (21 R339). -/
  | ctlError (die : Nat)
  /-- A unit finds an error, corrected or not (21 R339, R341). -/
  | error (unit : TestUnit) (corrected : Bool)
  /-- The counters of a context that comes from another package arrive (22 R364). -/
  | carry (c : Carried)
  deriving DecidableEq, Repr

/-- The whole package. `agenda`, `focus`, `group`, `msg`, `free`, `uid` and `word` are the model's own (logs 2 and 5). -/
structure State where
  part : Part := .fn9400a
  powered : Bool := true
  mem : List Host.Cell := []
  tags : Cells 8 := []
  /-- Keys of the bytes that carry a poison mark (21 R339). -/
  poison : List Nat := []
  /-- Blocks that have consumed an uncorrectable error in this move, each with the unit that is tested for it (21 R341, R342). -/
  consumed : List (Nat × Option TestUnit) := []
  dies : List Die := []
  ctxs : List Ctx := []
  pdks : List Pdk := []
  units : List PUnit := []
  grids : List Grid := []
  blocks : List Block := []
  slices : List Slice := []
  /-- Shadow slices whose registers differ from those of their leading slice: a shadow that is not listed holds the same (21
  R334 to R337). -/
  shadows : List Slice := []
  bars : List Bar := []
  bbs : List ByteBar := []
  cmds : List Command := []
  stalls : List Stall := []
  retiring : List Retiring := []
  pushbuf : List PushRec := []
  saved : List Saved := []
  tlb : List TlbEntry := []
  red : List RedHeld := []
  tree : List TreeHeld := []
  awaits : List Await := []
  mgmt : List (Msg × List Nat) := []
  /-- Commands that are answered once these blocks have stopped, been saved or ended (23 R372). -/
  asked : List (Msg × List Nat) := []
  mgmtq : List Msg := []
  outbox : List Msg := []
  resend : List Resend := []
  vdevs : List VDev := []
  joins : List PodJoin := []
  windows : List RedWin := []
  sessions : List Session := []
  cuts : List Cut := []
  replays : List Replay := []
  /-- Messages refused that have not come again (22 R359). -/
  refused : List Msg := []
  /-- Markers that wait for messages refused before them, and what came behind them (22 R359). -/
  behind : List Msg := []
  /-- Messages that no port of the package can take now (17 R291, 21 R341). -/
  linkq : List Msg := []
  carried : List Carried := []
  /-- What management has read of counters. -/
  reads : List W64 := []
  dumps : List (Nat × List Byte) := []
  ports : List Port := []
  chans : List Chan := []
  tests : List SelfTest := []
  unitErrs : List UnitErrs := []
  /-- Spare rows that repairs of a core's bank have used (21 R341). -/
  bankRows : List (Nat × Nat) := []
  /-- When the lifetime record was written last, by die 0's clock (21 R346). -/
  recordAt : Nat := 0
  drops : Nat := 0
  node : W16 := 0
  fenced : BitVec 4 := 0
  /-- Bring-up has run since the rails rose or the package was reset (23 R370). -/
  booted : Bool := false
  bootReady : Bool := false
  flash : Flash := {}
  tagSeq : W16 := 0
  agenda : List Act := []
  focus : Nat := 0
  group : List Nat := []
  msg : Msg := {}
  free : Nat := 0
  uid : Nat := 1
  word : W64 := 0
  proxy : Option Nat := none
  deriving DecidableEq, Repr

/-- Why the machine itself stops. -/
inductive Fault where
  /-- A step of a package whose rails are down and to which nothing arrives (23 R367); raised by `step`. Safe. -/
  | unpowered
  deriving DecidableEq, Repr

/-- Why a step has no meaning here. -/
inductive Refusal where
  /-- An instruction of the opcode table whose meaning has not been written; raised by `exec`. Safe. -/
  | notModelled (mnemonic : String)
  deriving DecidableEq, Repr

abbrev Result := Host.Outcome State Fault Refusal

/-- Package reset (04 R89, 18 R296, 23 R367, R375): nothing resident, empty queues, defaults in every table. -/
def State.reset : State := {}

end Sys2Proof.Machine
end

