-- ==== Sys2Proof/Machine/Operands.lean ====
section
/-! DEFINITION. Operands: registers of a slice, capability fields, addresses, vector elements and
immediates (03 R60-R71, 04 R80-R87, 10 R176-R178). -/
namespace Sys2Proof

/-- Element width of a type. -/
def Ty.width : Ty → Nat
  | .n8 | .i8 => 8
  | .n16 | .i16 | .f16 | .bf16 => 16
  | .n64 | .i64 => 64
  | _ => 32
def Ty.signed : Ty → Bool
  | .i8 | .i16 | .i32 | .i64 => true
  | _ => false

end Sys2Proof

namespace Sys2Proof.Machine

namespace Slice

/-- Scalar register; `s0` reads 0 (04 R80). -/
def rs (x : Slice) (r : SReg) : W64 := if r = 0 then 0 else x.s.get r.toNat
/-- Scalar write; a write to `s0` is discarded (04 R80). -/
def ws (x : Slice) (r : SReg) (v : W64) : Slice := if r = 0 then x else { x with s := x.s.set r.toNat v }
/-- Mask register (04 R84). -/
def rk (x : Slice) (r : KReg) : W32 := x.k.get r.toNat
/-- Mask write; `k0` is stored ANDed with `%alive` (02 R31). -/
def wk (x : Slice) (r : KReg) (v : W32) : Slice :=
  { x with k := x.k.set r.toNat (if r = 0 then v &&& x.alive else v) }
/-- Vector element of a lane. -/
def rv (x : Slice) (r : VReg) (l : Nat) : W32 := x.v.get (32 * r.toNat + l)
/-- All lanes of a vector register. -/
def rvAll (x : Slice) (r : VReg) : List W32 := (List.range 32).map (x.rv r)
/-- Writes the lanes of a mask (02 R21): every other lane keeps its value. -/
def wv (x : Slice) (r : VReg) (m : W32) (f : Nat → W32) : Slice :=
  { x with v := (lanesOf m).foldl (fun v l => v.set (32 * r.toNat + l) (f l)) x.v }
/-- Capability register; `c0` is the null capability (04 R85). -/
def rc (x : Slice) (r : CReg) : Cap :=
  if r = 0 then {} else { bits := x.c.get r.toNat, tag := x.ct.getLsbD r.toNat }
/-- Capability write; a write to `c0` is discarded (04 R85). -/
def wc (x : Slice) (r : CReg) (v : Cap) : Slice :=
  if r = 0 then x
  else { x with c := x.c.set r.toNat v.bits,
                ct := if v.tag then x.ct ||| ((1 : W16) <<< r.toNat) else x.ct &&& ~~~((1 : W16) <<< r.toNat) }
/-- The lanes that a per-lane instruction selects (02 R21, R31). -/
def sel (x : Slice) (p : Pred) : W32 :=
  if p.k = 0 then x.rk 0 else if p.neg then x.rk 0 &&& ~~~x.rk p.k else x.rk 0 &&& x.rk p.k
/-- Operand B of an S3 word: a scalar, or IMM17 sign-extended (04 R81). -/
def rb (x : Slice) : SrcB → W64
  | .reg r => x.rs r
  | .imm i => i.signExtend 64
/-- The loop level that L selects (04 R90). -/
def lc (x : Slice) (l : Bool) : Loop := if l then x.lc1 else x.lc0
def setLc (x : Slice) (l : Bool) (v : Loop) : Slice := if l then { x with lc1 := v } else { x with lc0 := v }
/-- The slice's register allotment (02 R39). -/
def allot (x : Slice) : Nat := 32 + x.ext
/-- The key of the slice's paddock. -/
def pk (x : Slice) : Nat := (x.die * 48 + x.core) * 4 + x.pdk
/-- The key of the slice's context on its paddock. -/
def uk (x : Slice) : Nat := x.pk * 64 + x.ctx
/-- The key of the slice's context on its die. -/
def ck (x : Slice) : Nat := x.die * 64 + x.ctx
/-- Not retired, with lanes left (02 R29). -/
def isAlive (x : Slice) : Bool := x.run != .retired && x.alive != 0
/-- In the trap handler: held, or held while its trap waits for an entry (13 R229). -/
def isHeld (x : Slice) : Bool := x.run == .held
/-- Rounding mode, flush and saturation bits and table id of `fr` (07 R136). -/
def rm (x : Slice) : Nat := bitsOf x.fr.toNat 12 2
def ftz (x : Slice) : Bool := x.fr.getLsbD 14
def sat (x : Slice) : Bool := x.fr.getLsbD 15

end Slice

/-! ### Capabilities (10 R176, R177) -/
namespace Cap

def base (c : Cap) : Nat := bitsOf c.bits.toNat 0 57
def lenG (c : Cap) : Nat := bitsOf c.bits.toNat 64 40
def gran (c : Cap) : Nat := bitsOf c.bits.toNat 104 4
def space (c : Cap) : Nat := bitsOf c.bits.toNat 108 4
def perm (c : Cap) : Nat := bitsOf c.bits.toNat 112 11
/-- Length in bytes. -/
def len (c : Cap) : Nat := c.lenG * 2 ^ c.gran
/-- A permission by its bit: L 0, S 1, X 2, C 3, W 4, A 5, Q 6, P 7, G 8, K 9, D 10. -/
def has (c : Cap) (b : Nat) : Bool := c.bits.getLsbD (112 + b)
/-- Address bits of a space; the bits above them are 0 in every tagged capability (10 R173). -/
def spaceBits (space : Nat) : Nat :=
  match space with
  | 1 => 31
  | 2 => 21
  | 3 => 16
  | _ => 57
/-- A value that may carry a tag (10 R173, R176). -/
def tagOk (x : BitVec 128) : Bool :=
  decide (bitsOf x.toNat 0 57 < 2 ^ spaceBits (bitsOf x.toNat 108 4)) && bitsOf x.toNat 123 5 == 0 && bitsOf x.toNat 57 7 == 0 && bitsOf x.toNat 0 57 % 2 ^ bitsOf x.toNat 104 4 == 0
/-- A capability from its fields. -/
def mk' (space gran perm base lenG : Nat) : Cap :=
  { bits := BitVec.ofNat 128 (base + 2 ^ 64 * (lenG + 2 ^ 40 * (gran + 2 ^ 4 * (space + 2 ^ 4 * perm)))), tag := true }
/-- The capability with its tag only where its value may carry one. -/
def checked (c : Cap) : Cap := { c with tag := c.tag && tagOk c.bits }
/-- The same capability with another length (04 R86). -/
def withLen (c : Cap) (lenG : Nat) : Cap := { c with bits := (mk' c.space c.gran c.perm c.base (lenG % 2 ^ 40)).bits }

end Cap

/-- Permission bits (10 R177). -/
def pL : Nat := 0
def pS : Nat := 1
def pC : Nat := 3
def pW : Nat := 4
def pA : Nat := 5
def pQ : Nat := 6
def pP : Nat := 7
def pG : Nat := 8
def pK : Nat := 9
def pD : Nat := 10

/-- Trap codes (13 R227). -/
def tILLOP : Byte := 0x01
def tPRIV : Byte := 0x02
def tCAPBND : Byte := 0x03
def tCAPPERM : Byte := 0x04
def tCAPTAG : Byte := 0x05
def tALIGN : Byte := 0x06
def tPAGEX : Byte := 0x08
def tLANEF : Byte := 0x09
def tILLCONV : Byte := 0x0A
def tILLJOIN : Byte := 0x0B
def tILLCFG : Byte := 0x0C
def tILLTREE : Byte := 0x0D
def tSTALLSHORT : Byte := 0x0E
def tHANG : Byte := 0x0F
def tRINVOVF : Byte := 0x10
def tALLOCX : Byte := 0x11
def tBRK : Byte := 0x12
def tSWTRAP : Byte := 0x13

/-! ### Addresses (10 R178) -/

/-- Base, index and offset added exactly; a scalar index is signed, a vector index unsigned. -/
def addrS (x : Slice) (c : Cap) (i : Idx) (off : Int) : Int :=
  match i with
  | .scalar r => c.base + (x.rs r).toInt + off
  | _ => c.base + off
/-- The address of lane `l` for accesses of `w` bytes (11 R191). -/
def addrV (x : Slice) (c : Cap) (i : Idx) (off : Int) (l w : Nat) : Int :=
  match i with
  | .none => c.base + off + l * w
  | .scalar r => c.base + (x.rs r).toInt + off + l * w
  | .vector r => c.base + (x.rv r l).toNat + off

/-- An exact address as the 64 bits that INFO holds. -/
def toW64 (a : Int) : W64 := BitVec.ofInt 64 a

/-! ### Vector elements (05 R106) -/

/-- Element `e` of width `w`. -/
def elem (x : W32) (w e : Nat) : Nat := bitsOf x.toNat (w * e) w
/-- A lane from its elements, lowest first. -/
def packElems (w : Nat) : List Nat → Nat
  | [] => 0
  | e :: t => e % 2 ^ w + 2 ^ w * packElems w t
/-- Applies a function of elements to every element of a lane. -/
def mapElems (w : Nat) (f : Nat → Nat) (a : W32) : W32 :=
  BitVec.ofNat 32 (packElems w ((List.range (32 / w)).map fun e => f (elem a w e)))
def mapElems2 (w : Nat) (f : Nat → Nat → Nat) (a b : W32) : W32 :=
  BitVec.ofNat 32 (packElems w ((List.range (32 / w)).map fun e => f (elem a w e) (elem b w e)))
def mapElems3 (w : Nat) (f : Nat → Nat → Nat → Nat) (a b c : W32) : W32 :=
  BitVec.ofNat 32 (packElems w ((List.range (32 / w)).map fun e => f (elem a w e) (elem b w e) (elem c w e)))
/-- An element read as its exact value. -/
def elemInt (signed : Bool) (w x : Nat) : Int :=
  if signed && decide (2 ^ (w - 1) ≤ x) then (x : Int) - 2 ^ w else x
/-- An exact value modulo 2^w. -/
def intElem (w : Nat) (v : Int) : Nat := (v % 2 ^ w).toNat


/-- The kernel header's fields (03 R78). -/
def hdrField (h : W64) (lo n : Nat) : Nat := bitsOf h.toNat lo n

end Sys2Proof.Machine
end

