-- ==== Sys2Proof/Machine/Flags.lean ====
section
/-! DEFINITION. Conditions and lane fault codes. The machine has no condition-code flags: a compare writes
a scalar or a mask (04 R81, 05 R111); the one flag register is the lane fault mask (06 R132). -/
namespace Sys2Proof.Machine

/-- A condition on the order of two integers (03 R62, 04 R81). -/
def condInt (c : Cond) (a b : Int) : Bool :=
  match c with
  | .always => true
  | .eq => a == b
  | .ne => a != b
  | .lt => decide (a < b)
  | .ge => decide (b ≤ a)
  | .le => decide (a ≤ b)
  | .gt => decide (b < a)
  | .uo => false
  | .or_ => true

/-- A condition on two scalars, signed or unsigned. -/
def condS (c : Cond) (signed : Bool) (a b : W64) : Bool :=
  if signed then condInt c a.toInt b.toInt else condInt c a.toNat b.toNat

/-- A condition on two lanes, signed or unsigned (05 R111). -/
def condV (c : Cond) (signed : Bool) (a b : W32) : Bool :=
  if signed then condInt c a.toInt b.toInt else condInt c a.toNat b.toNat

/-- Lane fault codes (06 R131, R132). -/
def lfLILL : Nat := 1
def lfLPRIV : Nat := 2
def lfLUND : Nat := 3
def lfLOVF : Nat := 4
def lfLRSV : Nat := 5

end Sys2Proof.Machine
end

