-- ==== Sys2Proof/Machine/Formats.lean ====
section
/-! DEFINITION. Number formats (07): floats decoded to exact dyadic values, rounded once, and the block
formats with their quantiser (07 R134-R141). -/
namespace Sys2Proof.Machine

/-- A binary interchange format: exponent and fraction bits (07 R134). -/
structure FFmt where
  eb : Nat
  fb : Nat
  deriving DecidableEq, Repr

def fp32 : FFmt := ⟨8, 23⟩
def fp16 : FFmt := ⟨5, 10⟩
def bf16 : FFmt := ⟨8, 7⟩
end Sys2Proof.Machine

namespace Sys2Proof
/-- The format of a float type. -/
def Ty.ffmt : Ty → Machine.FFmt
  | .f16 => Machine.fp16
  | .bf16 => Machine.bf16
  | _ => Machine.fp32
end Sys2Proof

namespace Sys2Proof.Machine

namespace FFmt
def bias (f : FFmt) : Nat := 2 ^ (f.eb - 1) - 1
/-- Pattern of +infinity, of the canonical NaN (05 R114), of the sign bit. -/
def infBits (f : FFmt) : Nat := (2 ^ f.eb - 1) * 2 ^ f.fb
def nanBits (f : FFmt) : Nat := f.infBits + 2 ^ (f.fb - 1)
def signBit (f : FFmt) : Nat := 2 ^ (f.eb + f.fb)
/-- Exponent of the least subnormal. -/
def qmin (f : FFmt) : Int := 1 - (f.bias : Int) - f.fb
end FFmt

/-- An exact value: `m * 2^e` with a sign. -/
inductive Fl where
  | nan
  | inf (neg : Bool)
  | fin (neg : Bool) (m : Nat) (e : Int)
  deriving DecidableEq, Repr

/-- The value of a pattern. -/
def fdec (f : FFmt) (x : Nat) : Fl :=
  let neg := decide (f.signBit ≤ x % (2 * f.signBit))
  let e := x / 2 ^ f.fb % 2 ^ f.eb
  let m := x % 2 ^ f.fb
  if e = 2 ^ f.eb - 1 then (if m = 0 then .inf neg else .nan)
  else if e = 0 then .fin neg m f.qmin
  else .fin neg (2 ^ f.fb + m) (f.qmin + (e - 1 : Nat))

/-- A subnormal pattern. -/
def isSub (f : FFmt) (x : Nat) : Bool := x / 2 ^ f.fb % 2 ^ f.eb == 0 && x % 2 ^ f.fb != 0
/-- Flushes a subnormal pattern to zero of its sign (05 R113). -/
def flush (f : FFmt) (ftz : Bool) (x : Nat) : Nat := if ftz && isSub f x then x / f.signBit % 2 * f.signBit else x
/-- An input under FTZ. -/
def fin' (f : FFmt) (ftz : Bool) (x : Nat) : Fl := fdec f (flush f ftz x)

/-- Whether a magnitude with remainder is rounded up: mode 0 nearest-even, 1 zero, 2 down, 3 up (07 R136). -/
def roundUp (rm : Nat) (neg : Bool) (odd : Bool) (cmpHalf : Ordering) (exact : Bool) : Bool :=
  if exact then false
  else match rm with
    | 0 => (match cmpHalf with
            | .gt => true
            | .eq => odd
            | .lt => false)
    | 1 => false
    | 2 => neg
    | _ => !neg

/-- A magnitude `m * 2^e`, plus less than `2^e` when `sticky`, as an integer multiple of `2^q` rounded. -/
def roundAt (rm : Nat) (neg : Bool) (m : Nat) (e q : Int) (sticky : Bool) : Nat :=
  if q ≤ e then
    let n := m * 2 ^ (e - q).toNat
    if roundUp rm neg (n % 2 == 1) .lt (!sticky) then n + 1 else n
  else
    let sh := (q - e).toNat
    let n := m / 2 ^ sh
    let r := m % 2 ^ sh
    let half := 2 ^ (sh - 1)
    let c : Ordering := if r < half then .lt else if half < r then .gt else if sticky then .gt else .eq
    if roundUp rm neg (n % 2 == 1) c (r == 0 && !sticky) then n + 1 else n

/-- Overflow to infinity or to the largest finite value, as the mode gives (IEEE 754-2019). -/
def overflowBits (f : FFmt) (rm : Nat) (neg : Bool) : Nat :=
  if rm == 1 || (rm == 2 && !neg) || (rm == 3 && neg) then f.infBits - 1 else f.infBits

/-- The exact value rounded once; `sat` replaces an overflow by the largest finite value (05 R119). -/
def fround (f : FFmt) (rm : Nat) (ftz sat : Bool) (neg : Bool) (m : Nat) (e : Int) (sticky : Bool := false) : Nat :=
  let s := if neg then f.signBit else 0
  if m = 0 ∧ !sticky then s
  else
    let q := max ((if m = 0 then 0 else Nat.log2 m : Nat) + e - f.fb) f.qmin
    let n := roundAt rm neg m e q sticky
    let b := if n = 0 then 0 else n + (q - f.qmin).toNat * 2 ^ f.fb
    let b := if f.infBits ≤ b then (if sat then f.infBits - 1 else overflowBits f rm neg) else b
    s + flush f ftz b

/-- A value with its format's rounding. -/
def fenc (f : FFmt) (rm : Nat) (ftz sat : Bool) : Fl → Nat
  | .nan => f.nanBits
  | .inf neg => (if neg then f.signBit else 0) + f.infBits
  | .fin neg m e => fround f rm ftz sat neg m e

/-- A signed integer multiple of `2^e`; an exact zero is +0, or -0 toward minus infinity (05 R115). -/
def ofSigned (rm : Nat) (v : Int) (e : Int) : Fl :=
  if v = 0 then .fin (rm == 2) 0 e else .fin (decide (v < 0)) v.natAbs e

/-- Exact sum; `rm` decides only the sign of a zero that is not the sum of zeros of one sign. -/
def Fl.add (rm : Nat) : Fl → Fl → Fl
  | .nan, _ => .nan
  | _, .nan => .nan
  | .inf s, .inf t => if s = t then .inf s else .nan
  | .inf s, _ => .inf s
  | _, .inf t => .inf t
  | .fin s m e, .fin t n g =>
    if m = 0 ∧ n = 0 then (if s = t then .fin s 0 e else .fin (rm == 2) 0 e)
    else
      let lo := min e g
      let a : Int := (if s then -1 else 1) * (m * 2 ^ (e - lo).toNat : Nat)
      let b : Int := (if t then -1 else 1) * (n * 2 ^ (g - lo).toNat : Nat)
      ofSigned rm (a + b) lo

def Fl.neg : Fl → Fl
  | .nan => .nan
  | .inf s => .inf (!s)
  | .fin s m e => .fin (!s) m e

/-- Exact product. -/
def Fl.mul : Fl → Fl → Fl
  | .nan, _ => .nan
  | _, .nan => .nan
  | .inf s, .inf t => .inf (s != t)
  | .inf s, .fin t n _ => if n = 0 then .nan else .inf (s != t)
  | .fin s m _, .inf t => if m = 0 then .nan else .inf (s != t)
  | .fin s m e, .fin t n g => .fin (s != t) (m * n) (e + g)

/-- Exact comparison of two values; none with a NaN. -/
def Fl.cmp : Fl → Fl → Option Ordering
  | .nan, _ => none
  | _, .nan => none
  | .inf s, .inf t => some (if s = t then .eq else if s then .lt else .gt)
  | .inf s, _ => some (if s then .lt else .gt)
  | _, .inf t => some (if t then .gt else .lt)
  | .fin s m e, .fin t n g =>
    let lo := min e g
    let a : Int := (if s then -1 else 1) * (m * 2 ^ (e - lo).toNat : Nat)
    let b : Int := (if t then -1 else 1) * (n * 2 ^ (g - lo).toNat : Nat)
    some (compare a b)

/-! ### Float instructions on patterns (05 R113-R118) -/

/-- What `fr` says of rounding: mode, flush, saturation. -/
structure FrMode where
  rm : Nat := 0
  ftz : Bool := false
  sat : Bool := false
  deriving DecidableEq, Repr

/-- The rounding settings of an `fr` value (07 R136). -/
def frMode (fr : W64) : FrMode := ⟨bitsOf fr.toNat 12 2, fr.getLsbD 14, fr.getLsbD 15⟩

def fadd (f : FFmt) (m : FrMode) (a b : Nat) : Nat :=
  fenc f m.rm m.ftz false ((fin' f m.ftz a).add m.rm (fin' f m.ftz b))
def fsub (f : FFmt) (m : FrMode) (a b : Nat) : Nat :=
  fenc f m.rm m.ftz false ((fin' f m.ftz a).add m.rm (fin' f m.ftz b).neg)
def fmul (f : FFmt) (m : FrMode) (a b : Nat) : Nat :=
  fenc f m.rm m.ftz false ((fin' f m.ftz a).mul (fin' f m.ftz b))
def ffma (f : FFmt) (m : FrMode) (a b c : Nat) : Nat :=
  fenc f m.rm m.ftz false (((fin' f m.ftz a).mul (fin' f m.ftz b)).add m.rm (fin' f m.ftz c))
def isNan (f : FFmt) (x : Nat) : Bool := fdec f x == .nan
def fneg (f : FFmt) (a : Nat) : Nat := if f.signBit ≤ a % (2 * f.signBit) then a - f.signBit else a + f.signBit
def fabs (f : FFmt) (a : Nat) : Nat := a % f.signBit

/-- The total order of non-NaN patterns, -0 below +0. -/
def fkey (f : FFmt) (a : Nat) : Int := if f.signBit ≤ a then -((a - f.signBit : Nat) : Int) - 1 else a

/-- Lesser (or greater) of two patterns (05 R115). -/
def fminmax (f : FFmt) (greater : Bool) (m : FrMode) (a b : Nat) : Nat :=
  let a := flush f m.ftz a
  let b := flush f m.ftz b
  if isNan f a && isNan f b then f.nanBits
  else if isNan f a then b
  else if isNan f b then a
  else if greater then (if fkey f a < fkey f b then b else a)
  else (if fkey f b < fkey f a then b else a)

/-- A float comparison (05 R116). -/
def fcmp (f : FFmt) (ftz : Bool) (c : Cond) (a b : Nat) : Bool :=
  match (fin' f ftz a).cmp (fin' f ftz b), c with
  | none, .ne => true
  | none, .uo => true
  | none, _ => false
  | some o, .eq => o == .eq
  | some o, .ne => o != .eq
  | some o, .lt => o == .lt
  | some o, .ge => o != .lt
  | some o, .le => o != .gt
  | some o, .gt => o == .gt
  | some _, .or_ => true
  | some _, .uo => false
  | some _, .always => false

/-- The class mask (05 R117). -/
def fclass (f : FFmt) (a : Nat) : Nat :=
  let neg := decide (f.signBit ≤ a)
  match fdec f a with
  | .nan => if a / 2 ^ (f.fb - 1) % 2 = 1 then 2 ^ 9 else 2 ^ 8
  | .inf true => 2 ^ 0
  | .inf false => 2 ^ 7
  | .fin _ 0 _ => if neg then 2 ^ 3 else 2 ^ 4
  | .fin _ _ _ => if isSub f a then (if neg then 2 ^ 2 else 2 ^ 5) else (if neg then 2 ^ 1 else 2 ^ 6)

/-- Integer square root, bit by bit from bit `n - 1`. -/
def isqrtAux (x : Nat) : Nat → Nat → Nat
  | 0, r => r
  | n + 1, r =>
    let r' := r + 2 ^ n
    if r' * r' ≤ x then isqrtAux x n r' else isqrtAux x n r
def isqrt (x : Nat) : Nat := isqrtAux x (Nat.log2 x / 2 + 1) 0

/-- 1/a rounded once (05 R118). -/
def frcp (f : FFmt) (m : FrMode) (a : Nat) : Nat :=
  match fin' f m.ftz a with
  | .nan => f.nanBits
  | .inf s => if s then f.signBit else 0
  | .fin s 0 _ => (if s then f.signBit else 0) + f.infBits
  | .fin s x e =>
    let k := Nat.log2 x + f.fb + 4
    fround f m.rm m.ftz false s (2 ^ k / x) (-(k : Int) - e) (2 ^ k % x != 0)

/-- 1/sqrt a rounded once (05 R118). -/
def frsq (f : FFmt) (m : FrMode) (a : Nat) : Nat :=
  match fin' f m.ftz a with
  | .nan => f.nanBits
  | .inf s => if s then f.nanBits else 0
  | .fin s 0 _ => (if s then f.signBit else 0) + f.infBits
  | .fin true _ _ => f.nanBits
  | .fin false x e =>
    let odd := e % 2 != 0
    let x := if odd then 2 * x else x
    let h := (if odd then e - 1 else e) / 2
    let k := Nat.log2 x + f.fb + 4
    let y := isqrt (2 ^ (2 * k) / x)
    fround f m.rm m.ftz false false y (-(k : Int) - h) (y * y * x != 2 ^ (2 * k))

/-! ### Conversions (05 R119) -/

/-- Range of an integer type. -/
def intMin (t : Ty) : Int := if t.signed then -(2 ^ (t.width - 1) : Nat) else 0
def intMax (t : Ty) : Int := if t.signed then (2 ^ (t.width - 1) : Nat) - 1 else (2 ^ t.width : Nat) - 1
def clampInt (t : Ty) (v : Int) : Int := max (intMin t) (min (intMax t) v)

/-- A finite value rounded to an integer. -/
def toIntegral (rm : Nat) (neg : Bool) (m : Nat) (e : Int) : Int :=
  let n : Int := roundAt rm neg m e 0 false
  if neg then -n else n

/-- Conversion of an element from `t2` to `t1` (05 R119). -/
def cvt (m : FrMode) (t1 t2 : Ty) (x : Nat) : Nat :=
  if t2.isF then
    let v := fin' t2.ffmt m.ftz x
    if t1.isF then fenc t1.ffmt m.rm m.ftz m.sat v
    else match v with
      | .nan => 0
      | .inf s => intElem t1.width (if s then intMin t1 else intMax t1)
      | .fin s n e => intElem t1.width (clampInt t1 (toIntegral m.rm s n e))
  else
    let v := elemInt t2.signed t2.width x
    if t1.isF then fround t1.ffmt m.rm m.ftz m.sat (decide (v < 0)) v.natAbs 0
    else if intMin t1 ≤ v ∧ v ≤ intMax t1 then intElem t1.width v
    else if m.sat then intElem t1.width (clampInt t1 v) else intElem t1.width v

/-- Rounding of a float to an integral value of its format (08 R153, FRND). -/
def frnd (m : FrMode) (a : Nat) : Nat :=
  match fin' fp32 m.ftz a with
  | .nan => fp32.nanBits
  | .inf s => (if s then fp32.signBit else 0) + fp32.infBits
  | .fin s x e => fround fp32 m.rm m.ftz false s (toIntegral m.rm s x e).natAbs 0

/-! ### Block formats (07 R138-R140) -/

/-- Magnitude bits and bytes of a block. -/
def fbM : Ty → Nat
  | .fb8 => 7
  | .fb5 => 4
  | _ => 2
def fbBytes : Ty → Nat
  | .fb8 => 36
  | .fb5 => 24
  | _ => 16

/-- Value of element `i` of a block image read as a little-endian number (07 R139). -/
def fbValue (m blk i : Nat) : Fl :=
  let e := blk % 256
  let d := bitsOf blk (8 + 3 * (i / 4)) 3
  let fld := bitsOf blk (32 + i * (1 + m)) (1 + m)
  if e = 255 then .nan
  else .fin (decide (2 ^ m ≤ fld)) (fld % 2 ^ m) ((e : Int) - 127 - ((m : Int) - 1) - d)

/-- `x / 2^q` rounded to an integer magnitude under the mode (07 R140). -/
def rqMag (rm : Nat) (x : Fl) (q : Int) : Nat :=
  match x with
  | .fin s m e => roundAt rm s m e q false
  | _ => 0

/-- The largest offset at which a group fits (07 R140, step 2). -/
def groupOffset (m rm : Nat) (xs : List Fl) (q : Int) : Nat :=
  ((List.range 8).reverse.find? fun (d : Nat) => xs.all fun x => decide (rqMag rm x (q - (d : Int)) ≤ 2 ^ m - 1)).getD 0

/-- Exponent of the largest magnitude. -/
def flExp : Fl → Option Int
  | .fin _ m e => if m = 0 then none else some ((Nat.log2 m : Nat) + e)
  | _ => none

/-- One pass of the quantiser: offsets, fields and whether the exponent must rise. -/
def quantPass (m rm : Nat) (sat : Bool) (xs : List Fl) (e : Nat) : List Nat × List Nat × Bool :=
  let q : Int := (e : Int) - 127 - ((m : Int) - 1)
  let ds := (List.range 8).map fun g => groupOffset m rm ((xs.drop (4 * g)).take 4) q
  let mags := (List.range 32).map fun i => rqMag rm (xs.getD i (.fin false 0 0)) (q - (ds.getD (i / 4) 0 : Nat))
  let beyond := mags.any fun n => decide (2 ^ m - 1 < n)
  let fields := (List.range 32).map fun i =>
    let n := min (mags.getD i 0) (2 ^ m - 1)
    (match xs.getD i (.fin false 0 0) with | .fin true _ _ => 2 ^ m | _ => 0) + n
  (ds, fields, beyond && !(sat || e == 254))

/-- The block image as a number. -/
def quantImage (m e : Nat) (ds fields : List Nat) : Nat :=
  e + 2 ^ 8 * packElems 3 ds + 2 ^ 32 * packElems (1 + m) fields

/-- The quantiser (07 R140): 32 FP32 patterns to one block. -/
def quantise (t : Ty) (fm : FrMode) (xs : List Nat) : List Byte :=
  let m := fbM t
  let vs := xs.map (fin' fp32 fm.ftz)
  let n := fbBytes t
  if vs.any (fun v => match v with | .fin _ _ _ => false | _ => true) then leBytes n 255
  else
    let e := match (vs.filterMap flExp).foldl (fun a x => some (match a with | none => x | some y => max x y)) none with
      | none => 0
      | some x => (max (x + 127) 0).toNat
    let (ds, fs, up) := quantPass m fm.rm fm.sat vs e
    if up then
      let (ds, fs, _) := quantPass m fm.rm fm.sat vs (e + 1)
      leBytes n (quantImage m (e + 1) ds fs)
    else leBytes n (quantImage m e ds fs)

end Sys2Proof.Machine
end

