-- ==== Sys2Proof/Machine/Ops.lean ====
section
/-! DEFINITION. The named operations over units, registers and memory that the meanings share: record
access, memory and tags, capability checks, program counters and group issue, trap records. -/
namespace Sys2Proof

/-- The payload, LEN bytes. -/
def Msg.pay (m : Msg) : List Byte := (m.payload ++ List.replicate m.len.toNat 0).take m.len.toNat
/-- `n` bytes of the payload at an offset, as a number; bytes beyond LEN count as 0. -/
def Msg.at' (m : Msg) (o n : Nat) : Nat := leNat ((m.pay.drop o).take n)
/-- The message as a die sends it. -/
def Msg.ofDie (m : Msg) (d : Nat) : Msg := { m with die := d }

end Sys2Proof
namespace Sys2Proof.Machine

/-! ### Contexts (18 R296) -/

/-- A context index as package reset leaves it: GEN 1, HANGH 24, PARK 17, PRETO 20 (18 R296). -/
def Ctx.fresh (id : Nat) : Ctx := { id := id, desc := [(0x04, 1), (0x0D, 24), (0x0E, 17), (0x0F, 20)] }

namespace Ctx
/-- `n` bytes of the descriptor at an offset. -/
def fld (c : Ctx) (off n : Nat) : Nat := leNat (c.desc.getList off n)
def setFld (c : Ctx) (off n v : Nat) : Ctx := { c with desc := c.desc.setList off (leBytes n v) }
def valid (c : Ctx) : Bool := bitsOf (c.fld 0 4) 0 1 == 1
def prot (c : Ctx) : Bool := bitsOf (c.fld 0 4) 1 1 == 1
def csb (c : Ctx) : Bool := bitsOf (c.fld 0 4) 2 1 == 1
def pgs (c : Ctx) : Bool := bitsOf (c.fld 0 4) 3 1 == 1
def gen (c : Ctx) : W16 := BitVec.ofNat 16 (c.fld 4 2)
def grp (c : Ctx) : W16 := BitVec.ofNat 16 (c.fld 6 2)
def host (c : Ctx) : W16 := BitVec.ofNat 16 (c.fld 8 2)
def pgnode (c : Ctx) : W16 := BitVec.ofNat 16 (c.fld 0xA 2)
def vdev (c : Ctx) : Nat := c.fld 0xC 1
def hangh (c : Ctx) : Nat := c.fld 0xD 1
def park (c : Ctx) : Nat := c.fld 0xE 1
def preto (c : Ctx) : Nat := c.fld 0xF 1
def top (c : Ctx) : Nat := c.fld 0x10 8
def codeb (c : Ctx) : Nat := c.fld 0x18 8
def codel (c : Ctx) : Nat := c.fld 0x20 8
def trape (c : Ctx) : Nat := c.fld 0x28 8
def fqb (c : Ctx) : Nat := c.fld 0x30 8
def fqk (c : Ctx) : Nat := c.fld 0x38 1
def spill (c : Ctx) : Nat := c.fld 0x39 1
def fqh (c : Ctx) : Nat := c.fld 0x3A 2
def fqt (c : Ctx) : Nat := c.fld 0x3C 2
def iqd (c : Ctx) : Nat := c.fld 0x3E 2
def arenab (c : Ctx) : Nat := c.fld 0x40 8
def arenal (c : Ctx) : Nat := c.fld 0x48 8
def dqg (c : Ctx) : Nat := c.fld 0x50 4
def pool (c : Ctx) : Nat := c.fld 0x54 1
def wwave (c : Ctx) : Nat := c.fld 0x55 1
def quant (c : Ctx) : Nat := c.fld 0x56 2
def saveb (c : Ctx) : Nat := c.fld 0x58 8
def savel (c : Ctx) : Nat := c.fld 0x60 8
def sc (c : Ctx) : Nat := c.fld 0x68 8
def grant (c : Ctx) (i : Nat) : Nat := c.fld (0x70 + 16 * i) 16
def pwb (c : Ctx) : Nat := c.fld 0xB0 8
def pwl (c : Ctx) : Nat := c.fld 0xB8 8
/-- The index within its die. -/
def index (c : Ctx) : Nat := c.id % 64
def die (c : Ctx) : Nat := c.id / 64
end Ctx

/-- A handler entry (17 R289). -/
structure HEntry where
  entry : W64 := 0
  args : W64 := 0
  argb : Nat := 0
  quota : Nat := 0
  timer : Nat := 0
  fill : Nat := 0
  res : Bool := true
  deriving DecidableEq, Repr

/-- Entry `n` of the handler table (17 R289). -/
def Ctx.handler (c : Ctx) (n : Nat) : HEntry :=
  let g := fun o k => leNat (c.ht.getList (32 * n + o) k)
  { entry := BitVec.ofNat 64 (g 0 8), args := BitVec.ofNat 64 (g 8 8), argb := g 0x10 2, quota := g 0x12 2,
    timer := g 0x14 2, fill := g 0x16 1, res := g 0x17 9 == 0 }
/-- Nonzero ENTRY and every other field in range (17 R289). -/
def HEntry.valid (h : HEntry) : Bool :=
  h.entry != 0 && 1 ≤ h.argb && h.argb ≤ 256 && 1 ≤ h.quota && h.quota ≤ 4096 && 64 ≤ h.timer && 1 ≤ h.fill &&
    h.fill ≤ 32 && h.res
/-- A launch queue's entry: class, enable, weight, depth (18 R297). -/
def Ctx.queue (c : Ctx) (q : Nat) : Nat × Bool × Nat × Nat :=
  let x := leNat (c.lqt.getList (8 * q) 8)
  (bitsOf x 0 2, bitsOf x 2 1 == 1, bitsOf x 8 8, bitsOf x 16 12)

/-! ### Records of the state -/
namespace State

def slice (s : State) (id : Nat) : Slice := recGet Slice.id { run := .retired } s.slices id
def putSlice (s : State) (x : Slice) : State := { s with slices := recPut Slice.id s.slices x.id x }
def updSlice (s : State) (id : Nat) (f : Slice → Slice) : State := { s with slices := recUpd Slice.id s.slices id f }
def block (s : State) (id : Nat) : Block := recGet Block.id { run := .ended } s.blocks id
def putBlock (s : State) (x : Block) : State := { s with blocks := recPut Block.id s.blocks x.id x }
def updBlock (s : State) (id : Nat) (f : Block → Block) : State := { s with blocks := recUpd Block.id s.blocks id f }
def grid (s : State) (id : Nat) : Grid := recGet Grid.id { finished := true } s.grids id
def putGrid (s : State) (x : Grid) : State := { s with grids := recPut Grid.id s.grids x.id x }
def updGrid (s : State) (id : Nat) (f : Grid → Grid) : State := { s with grids := recUpd Grid.id s.grids id f }
def ctx (s : State) (k : Nat) : Ctx := recGet Ctx.id (Ctx.fresh k) s.ctxs k
def updCtx (s : State) (k : Nat) (f : Ctx → Ctx) : State := { s with ctxs := recPut Ctx.id s.ctxs k (f (s.ctx k)) }
def pdk (s : State) (k : Nat) : Pdk := recGet Pdk.id { id := k } s.pdks k
def updPdk (s : State) (k : Nat) (f : Pdk → Pdk) : State := { s with pdks := recPut Pdk.id s.pdks k (f (s.pdk k)) }
def punit (s : State) (k : Nat) : PUnit := recGet PUnit.id { id := k } s.units k
def updUnit (s : State) (k : Nat) (f : PUnit → PUnit) : State := { s with units := recPut PUnit.id s.units k (f (s.punit k)) }
def die (s : State) (k : Nat) : Die := recGet Die.id { id := k } s.dies k
def updDie (s : State) (k : Nat) (f : Die → Die) : State := { s with dies := recPut Die.id s.dies k (f (s.die k)) }
def cmd (s : State) (id : Nat) : Option Command := s.cmds.find? fun c => c.id == id
def updCmd (s : State) (id : Nat) (f : Command → Command) : State := { s with cmds := recUpd Command.id s.cmds id f }
def bar (s : State) (id : Nat) : Bar := recGet Bar.id {} s.bars id
def updBar (s : State) (id : Nat) (f : Bar → Bar) : State := { s with bars := recUpd Bar.id s.bars id f }
/-- Byte barriers are keyed by block and number. -/
def bbKey (b : ByteBar) : Nat := b.block * 16 + b.num
def bb (s : State) (k : Nat) : ByteBar := recGet bbKey {} s.bbs k
def updBb (s : State) (k : Nat) (f : ByteBar → ByteBar) : State := { s with bbs := recUpd bbKey s.bbs k f }
def stall (s : State) (k : Nat) : Stall := recGet Stall.id { id := k } s.stalls k
def updStall (s : State) (k : Nat) (f : Stall → Stall) : State := { s with stalls := recPut Stall.id s.stalls k (f (s.stall k)) }
def vdev (s : State) (k : Nat) : VDev := recGet VDev.id { id := k } s.vdevs k
def updVdev (s : State) (k : Nat) (f : VDev → VDev) : State := { s with vdevs := recPut VDev.id s.vdevs k (f (s.vdev k)) }

/-- A new identity of a record. -/
def fresh (s : State) : Nat × State := (s.uid, { s with uid := s.uid + 1 })
/-- A free choice of one bit (log 5). -/
def freeBit (s : State) : Bool × State := (Config.freeBit s.free, { s with free := s.free + 1 })
/-- The context of a slice. -/
def ctxOf (s : State) (x : Slice) : Ctx := s.ctx x.ck
/-- Slices of a gang. -/
def gang (s : State) (x : Slice) : List Slice :=
  s.slices.filter fun y => y.block == x.block && y.gid == x.gid && y.handler == x.handler &&
    (!x.handler || y.id == x.id)
/-- Slices of a block, handler slices apart. -/
def blockSlices (s : State) (b : Nat) : List Slice := s.slices.filter fun y => y.block == b && !y.handler
/-- The cycle counter of a die (00 R3): every time of a unit is counted in the cycles of its own die. -/
def clk (s : State) (d : Nat) : Nat := (s.die d).cc
/-- `%cc` of a die (04 R97). -/
def cc (s : State) (d : Nat) : W64 := BitVec.ofNat 64 (s.clk d)
/-- The cycles in which the package's sender of refused messages counts (17 R291; log 8): those of die 0. -/
def hopClk (s : State) : Nat := s.clk 0
/-- The cycle in which a member issues: the issue in hand gives each of its members its own (02 R30). -/
def turn (s : State) (x : Slice) : Nat := max (s.clk x.die) x.nextIssue
/-- `%cc` in a member's issue cycle (04 R97). -/
def ccTurn (s : State) (x : Slice) : W64 := BitVec.ofNat 64 (s.turn x)
/-- Whether an identity is in the issuing group. -/
def inGroup (s : State) (id : Nat) : Bool := s.group.contains id
/-- Applies a function to every slice. -/
def mapSlices (s : State) (f : Slice → Slice) : State := { s with slices := s.slices.map f }
/-- Applies a function to every slice of the issuing group. -/
def mapGroup (s : State) (f : Slice → Slice) : State :=
  s.mapSlices fun x => if s.inGroup x.id then f x else x

/-! ### Memory (10 R172, R179) -/

/-- Reads `n` bytes from a key of the one byte store. -/
def rd (s : State) (key n : Nat) : List Byte := Cells.getList s.mem key n
/-- Clears the tags of the units that `n` bytes from a key touch (10 R179). -/
def clearTags (s : State) (key n : Nat) : State :=
  if n = 0 then s
  else { s with tags := (List.range ((key + n - 1) / 16 - key / 16 + 1)).foldl (fun t i => t.erase (key / 16 + i)) s.tags }
/-- Writes bytes and clears the tags they touch; a poisoned byte that is overwritten is so no longer (21 R339). -/
def wr (s : State) (key : Nat) (bs : List Byte) : State :=
  { s.clearTags key bs.length with
    mem := Cells.setList s.mem key bs, poison := s.poison.filter fun k => decide (k < key) || decide (key + bs.length ≤ k) }
/-- One of `n` bytes from a key carries a poison mark (21 R339). -/
def poisoned (s : State) (key n : Nat) : Bool := s.poison.any fun k => decide (key ≤ k) && decide (k < key + n)
/-- Offsets of the poisoned bytes among `n` from a key. -/
def marks (s : State) (key n : Nat) : List Nat := if s.poison.isEmpty then [] else (List.range n).filter fun i => s.poison.contains (key + i)
/-- Bytes from a key take poison marks at some offsets. -/
def putMarks (s : State) (key : Nat) (os : List Nat) : State := { s with poison := (s.poison ++ os.map (key + ·)).eraseDups }
/-- A block has used a poisoned value, or a shadow has found a mismatch: an uncorrectable error that its crew consumes, with the
unit that is tested for it: none where the error itself, when it was found, began the test (21 R337, R339, R341, R342). -/
def consume (s : State) (b : Nat) (u : Option TestUnit) : State := { s with consumed := s.consumed ++ [(b, u)] }
/-- The shadow of a slice that differs from it (21 R336). -/
def shadow? (s : State) (id : Nat) : Option Slice := s.shadows.find? fun z => z.id == id
/-- The tag byte of a 16-byte unit: tag, keyed, context index (10 R180). -/
def tag (s : State) (key : Nat) : Byte := s.tags.get (key / 16)
def setTag (s : State) (key : Nat) (t : Byte) : State := { s with tags := s.tags.set (key / 16) t }

end State

/-- A tag byte. -/
def tagByte (t keyed : Bool) (ctx : Nat) : Byte :=
  if t then BitVec.ofNat 8 (1 + 2 * b2n keyed + 4 * (ctx % 64)) else 0

/-- Keys of the byte store: physical main memory from 0, then scratchpads, shared memories, spill stacks. -/
def keyScratch (die b : Nat) : Nat := 2 ^ 48 + die * 2 ^ 29 + b
def keyShared (core b : Nat) : Nat := 2 ^ 50 + core * 2 ^ 19 + b
def keySpill (slice b : Nat) : Nat := 2 ^ 52 + slice * 2 ^ 16 + b

/-- GANG, CBAR, BB, TILES, SHM, VREG, NOCHK, CMP16, GEN of a header word (03 R78). -/
def hGang (h : W64) : Nat := bitsOf h.toNat 48 3
def hCbar (h : W64) : Nat := bitsOf h.toNat 44 4
def hBb (h : W64) : Nat := bitsOf h.toNat 40 4
def hTiles (h : W64) : Nat := bitsOf h.toNat 32 8
def hShm (h : W64) : Nat := bitsOf h.toNat 16 16
def hVreg (h : W64) : Nat := bitsOf h.toNat 8 8
def hNochk (h : W64) : Bool := h.getLsbD 1
def hCmp16 (h : W64) : Bool := h.getLsbD 0
def hGen (h : W64) : Nat := bitsOf h.toNat 56 8

/-- The block at a crew position of a block (10 R173). -/
def crewAtPos (s : State) (b : Block) (pos : Nat) : Option Block :=
  if b.crewSize ≤ 1 then (if pos = 0 then some b else none)
  else s.blocks.find? fun y => y.grid == b.grid && y.crewBase == b.crewBase && y.crew.toNat / 2 ^ 16 == pos
/-- Bytes rounded up to whole 256-byte pieces, in which shared memory is given out. -/
def up256 (n : Nat) : Nat := (n + 255) / 256 * 256
/-- The areas of a block in its core's shared memory: the offset in its addresses, where it stands, its length (18 R312). -/
def blockAreas (b : Block) : List (Nat × Nat × Nat) := [(b.sharedBase, b.sharedAt, 256 * hShm b.header), (b.argBase, b.argAt, up256 b.argBytes)]
/-- Where the byte at an offset of a block's addresses stands on its core. -/
def areaOff (b : Block) (o : Nat) : Nat :=
  match (blockAreas b).find? fun a => decide (a.1 ≤ o) && decide (o < a.1 + a.2.2) with
  | some a => o - a.1 + a.2.1
  | none => o
/-- Bytes from an offset that stand one after another. -/
def areaLeft (b : Block) (o : Nat) : Nat :=
  ((blockAreas b).flatMap fun a => [a.1, a.1 + a.2.2]).foldl (fun n e => if o < e then min n (e - o) else n) (2 ^ 19 - o)

/-- The byte key of an on-die address of a space, as the slice reads it; none where nothing stands there (10 R173). -/
def spaceKey (s : State) (slice block space : Nat) (a : Nat) : Option Nat :=
  match space with
  | 1 => if a < 2 ^ 31 ∧ a / 2 ^ 29 < s.part.dies then some (keyScratch (a / 2 ^ 29) (a % 2 ^ 29)) else none
  | 2 => if a < 2 ^ 21 then (crewAtPos s (s.block block) (a / 2 ^ 19)).map fun b => keyShared (b.die * 48 + b.core) (areaOff b (a % 2 ^ 19)) else none
  | 3 => if a < 2 ^ 16 then some (keySpill slice a) else none
  | _ => none

/-- Memory key of a checked access. -/
def keyAt (s : State) (x : Slice) (c : Cap) (a : Int) : Nat := (spaceKey s x.id x.block c.space a.toNat).getD 0
/-- Byte keys of a checked access, one by one: a range may cross from one core's shared memory to the next. -/
def keysAt (s : State) (x : Slice) (c : Cap) (a : Int) (n : Nat) : List Nat :=
  (List.range n).map fun (i : Nat) => keyAt s x c (a + (i : Int))
def rdBytes (s : State) (x : Slice) (c : Cap) (a : Int) (n : Nat) : List Byte := (keysAt s x c a n).map fun k => Cells.get s.mem k
def wrBytes (s : State) (x : Slice) (c : Cap) (a : Int) (bs : List Byte) : State :=
  ((keysAt s x c a bs.length).zip bs).foldl (fun (s : State) p => s.wr p.1 [p.2]) s

/-- Whether an address range stands inside its space, for the spaces with absent parts (10 R173). -/
def spaceOk (s : State) (slice block space : Nat) (a n : Nat) : Bool :=
  decide (a + n ≤ 2 ^ Cap.spaceBits space) &&
    (space == 0 || space == 5 || space == 6 || n == 0 ||
      ((spaceKey s slice block space a).isSome && (spaceKey s slice block space (a + n - 1)).isSome))

/-! ### Capability checks (10 R178, 13 R228) -/

/-- Rank of a capability trap among causes (13 R228). -/
def capRank (c : Byte) : Nat :=
  if c == tCAPTAG then 0 else if c == tCAPPERM then 1 else if c == tCAPBND then 2 else 3

/-- A failed check: cause, operand, lane, INFO. -/
structure CapFail where
  code : Byte
  op : Nat := 0
  lane : Nat := 255
  info : W64 := 0
  deriving DecidableEq, Repr

/-- The checks of one access in order: tag, space and permissions, bounds, alignment (10 R178). -/
def capCheck (s : State) (x : Slice) (c : Cap) (spaces : List Nat) (perms : List Nat) (a : Int) (n align : Nat) :
    Option Byte :=
  if !c.tag then some tCAPTAG
  else if !spaces.contains c.space || perms.any (fun p => !c.has p) then some tCAPPERM
  else if a < c.base || (c.base + c.len : Nat) < a + n || !spaceOk s x.id x.block c.space a.toNat n then some tCAPBND
  else if a % align != 0 then some tALIGN
  else none

/-- The failure that a trap reports: first by cause, then operand, then lane (13 R228). -/
def firstFail (fs : List CapFail) : Option CapFail :=
  fs.foldl (fun b f => match b with
    | none => some f
    | some g =>
      let kf := (capRank f.code * 4 + f.op) * 256 + f.lane
      let kg := (capRank g.code * 4 + g.op) * 256 + g.lane
      if kf < kg then some f else b) none

/-- A trap at the instruction, before any effect (13 R227). -/
def trapAt (s : State) (x : Slice) (code : Byte) (subc : Nat) (info : W64) (lane : Nat := 255) : TrapInfo :=
  { code := code, subc := BitVec.ofNat 8 subc, lane := BitVec.ofNat 8 lane, pc := x.pc, rpc := x.pc, info := info, word := s.word }

/-- The trap of a failed check. -/
def failTrap (s : State) (x : Slice) (f : CapFail) : TrapInfo := trapAt s x f.code f.op f.info f.lane

/-! ### Program counters (04 R89-R91) -/

/-- The check of one level: the level after it, and whether it branches back (04 R91). -/
def Loop.check (l : Loop) : Loop × Bool :=
  if l.count.toNat ≤ 1 then ({}, false) else ({ l with count := l.count - 1 }, true)

/-- The check of level `l` alone at address `a`. -/
def loopOne (x : Slice) (l : Bool) : Slice × Bool :=
  let lv := x.lc l
  if lv.active && lv.stop == x.pc then
    let (n, back) := lv.check
    (x.setLc l n, back)
  else (x, false)

/-- The next program counter after an instruction that did not transfer control (04 R91): the level with the
greater start address is the inner one and is checked first. -/
def advance (x : Slice) : Slice :=
  let inner : Bool := decide (x.lc0.start.toNat < x.lc1.start.toNat)
  let (x1, back1) := loopOne x inner
  if back1 then { x1 with pc := (x.lc inner).start }
  else
    let (x2, back2) := loopOne x1 (!inner)
    if back2 then { x2 with pc := (x.lc (!inner)).start } else { x2 with pc := x.pc + 8 }

/-- An instruction of the slice has completed: one less of the interlocked ones and of the steps asked for, and the
breakpoint at it is behind (02 R51, 22 R356, R357). -/
def completed (pc : Addr) (x : Slice) : Slice :=
  { x with interlock := x.interlock - 1, steps := x.steps.map (· - 1), bpDone := if x.bpDone == some pc then none else x.bpDone }
/-- Advance with the hang counter reset (02 R46). -/
def advanceH (x : Slice) : Slice := { advance x with hang := 0 }

/-- The target of a branch of 26 bits of words (03 R68). -/
def target (x : Slice) (off : BitVec 26) : Addr := x.pc + (off.signExtend 64) <<< 3

/-- Whether an address lies in the context's code capability (04 R89). -/
def inCode (c : Ctx) (a : Addr) : Bool := decide (c.codeb ≤ a.toNat) && decide (a.toNat + 8 ≤ c.codeb + c.codel)

/-! ### Landing (02 R50) -/

/-- One landing-buffer write (02 R50). -/
def landOne (x : Slice) : Landing → Slice
  | .s r v => x.ws r v
  | .c r v => x.wc r v
  | .v r m vs => x.wv r m fun l => vs.getD l 0

/-! ### Header and membership -/

/-- The cases of R79 that hold for a header word, as bits 0 to 6. -/
def hdrErrors (h : W64) : Nat :=
  let v := hVreg h
  b2n (bitsOf h.toNat 51 5 != 0 || bitsOf h.toNat 2 6 != 0) + 2 * b2n (hGen h != 7 && hGen h != 9) +
    4 * b2n (hGang h == 0 || decide (4 < hGang h)) + 8 * b2n (decide (12 < hTiles h)) +
    16 * b2n (decide (2048 < hShm h)) + 32 * b2n (!(v % 4 == 0 && 4 ≤ v && v ≤ 32)) +
    64 * b2n (hCmp16 h && hGen h == 9)

/-- The header word that decoding and range checks read for a slice (03 R78, 13 R230). -/
def headerOf (s : State) (x : Slice) : W64 := (s.block x.block).header
def hdrOf (s : State) (x : Slice) : Hdr :=
  let h := headerOf s x
  { gen7 := hGen h == 7, bb := hBb h, cbar := hCbar h }

/-- Lanes that are member lanes of a slice (02 R33). -/
def memberLanes (x : Slice) : W32 := x.alive ||| x.exited

/-! ### Trap records (13 R231) -/

/-- `%pdk`, the logical paddock index (02 R23, 15 R270). -/
def pdkNo (s : State) (x : Slice) : Nat := x.pdk % 4 ^^^ (s.block x.block).flip

/-- The trap record of a slice; a member of the issuing group traps in its own issue cycle (02 R30). -/
def mkRec (s : State) (x : Slice) (t : TrapInfo) : TrapRec :=
  let b := s.block x.block
  { pc := t.pc, rpc := t.rpc, info := t.info, word := t.word, code := t.code, subc := t.subc, lane := t.lane
    unit := BitVec.ofNat 8 (pdkNo s x + 4 * (x.die % 4) + 16 * (x.idx % 4)), gid := BitVec.ofNat 8 x.gid
    gen := (s.ctxOf x).gen, lfm := x.xv.lfm, bph := b.bph, blk := b.blk
    cc := if s.inGroup x.id then s.ccTurn x else s.cc x.die }

/-- The 64 bytes of a trap record. -/
def TrapRec.bytes (r : TrapRec) : List Byte :=
  leBytes 8 r.pc.toNat ++ leBytes 8 r.rpc.toNat ++ leBytes 8 r.info.toNat ++ leBytes 8 r.word.toNat ++
    [r.code, r.subc, r.lane, r.unit, r.gid, 0] ++ leBytes 2 r.gen.toNat ++ leBytes 4 r.lfm.toNat ++
    leBytes 4 r.bph.toNat ++ leBytes 6 r.blk.toNat ++ [0, 0] ++ leBytes 8 r.cc.toNat

/-! ### Messages (17 R290-R293) -/

/-- Message type codes (17 R292). -/
def mWRITE : Byte := 0x01
def mREAD : Byte := 0x02
def mDATA : Byte := 0x03
def mFATM : Byte := 0x04
def mRED : Byte := 0x05
def mINVOKE : Byte := 0x08
def mANSWER : Byte := 0x09
def mLAUNCH : Byte := 0x10
def mCOMPLETION : Byte := 0x11
def mLOG : Byte := 0x12
def mINVAL : Byte := 0x13
def mINVALDONE : Byte := 0x14
def mPAGERESP : Byte := 0x15
def mFAULTNOTE : Byte := 0x16
def mMARKER : Byte := 0x18
def mMGMT : Byte := 0x19
def mNACK : Byte := 0x1A
def mBARRIER : Byte := 0x1B

/-- Flits of a payload length (17 R290): 44 bytes in the first, 60 in each later one. -/
def flits (len : Nat) : Nat := if len ≤ 44 then 1 else 1 + (len - 44 + 59) / 60
/-- The control byte: class, answer class, target die, flits less one (17 R290). -/
def ctlByte (cls : Nat) (answer : Bool) (die len : Nat) : Byte :=
  BitVec.ofNat 8 (cls % 4 + 4 * b2n answer + 8 * (die % 4) + 32 * ((flits len - 1) % 8))
/-- The 16 header bytes of a message (17 R290). -/
def msgHdr (m : Msg) : List Byte :=
  leBytes 2 m.dst.toNat ++ leBytes 2 m.src.toNat ++ [m.type, m.ctl] ++ leBytes 2 m.grp.toNat ++ leBytes 2 m.tag.toNat ++
    leBytes 2 m.gen.toNat ++ leBytes 2 m.len.toNat ++ leBytes 2 m.arg.toNat
/-- A message of the package. -/
def mkMsg (s : State) (dst : W16) (type : Byte) (cls : Nat) (answer : Bool) (die : Nat) (grp tag gen arg : W16)
    (payload : List Byte) : Msg :=
  { dst := dst, src := s.node, type := type, ctl := ctlByte cls answer die payload.length, grp := grp, tag := tag, gen := gen
    len := BitVec.ofNat 16 payload.length, arg := arg, payload := payload }
/-- A message goes out. -/
def State.emit (s : State) (m : Msg) : State := { s with outbox := s.outbox ++ [m] }
/-- The die a message names, and whether the package has it. -/
def msgDie (m : Msg) : Nat := bitsOf m.ctl.toNat 3 2
/-- Two messages of one pod group from one die to another. -/
def sameWay (a b : Msg) : Bool := a.grp == b.grp && a.die == b.die && a.dst == b.dst && msgDie a == msgDie b
/-- A marker of the same way still waits here for its sending (22 R359). -/
def markerAhead (s : State) (m : Msg) : Bool := s.resend.any fun r => !r.sent && r.msg.type == mMARKER && sameWay r.msg m
/-- Sends a message, or holds it while its die has recorded a cut of its pod group; one behind a marker waits for it (22 R358, R359). -/
def State.send (s : State) (m : Msg) : State :=
  let mine := fun (c : Cut) => c.grp == m.grp && c.die == m.die
  if s.cuts.any mine then { s with cuts := s.cuts.map fun c => if mine c then { c with out := c.out ++ [m] } else c }
  else if markerAhead s m then { s with resend := s.resend ++ [{ msg := m, refusals := 0, due := s.hopClk }] }
  else s.emit m
/-- Sends a message of a die's controller, held while its failover lasts (18 R317). -/
def State.sendCtl (s : State) (d : Nat) (m : Msg) : State :=
  if (s.die d).failover then s.updDie d fun x => { x with held := x.held ++ [m] } else s.send m
def msgCls (m : Msg) : Nat := bitsOf m.ctl.toNat 0 2

/-- Answers the message with a status. -/
def State.reply (s : State) (m : Msg) (type : Byte) (arg : Nat) (payload : List Byte) (bad : List Nat := []) : State :=
  s.send { (mkMsg s m.src type (msgCls m) true 0 m.grp m.tag m.gen (BitVec.ofNat 16 arg) payload).ofDie (msgDie m) with bad := bad }
/-- A message for the host or page-service node of a context, or an entry of its virtual device's interrupt
log while the device is not resident (18 R314); GEN is the context's but in an answer, which returns that of its request
(17 R290, R376). -/
def State.post (s : State) (k : Nat) (dst : W16) (type : Byte) (tag arg : W16) (payload : List Byte) (gen : Option W16 := none) : State :=
  let c := s.ctx k
  let v := s.vdev c.vdev
  let m := mkMsg s dst type 0 true (if type == mFAULTNOTE then c.die else 0) c.grp tag (gen.getD c.gen) arg payload |>.ofDie c.die
  if v.resident then s.sendCtl c.die m
  else if 2 ^ v.logK ≤ (v.tail - v.head).toNat then
    s.updVdev c.vdev fun v => { v with drops := v.drops + 1 }
  else
    let s : State := s.wr (v.logBase + 64 * (v.tail.toNat % 2 ^ v.logK)) (msgHdr m ++ ((payload ++ List.replicate 48 0).take 48))
    s.updVdev c.vdev fun v => { v with tail := v.tail + 1 }

/-- A completion-channel message (17 R293). -/
def State.complete (s : State) (k : Nat) (htag : W64) (status d1 d2 d3 : Nat) : State :=
  s.post k (s.ctx k).host mCOMPLETION 0 0
    (leBytes 8 htag.toNat ++ [BitVec.ofNat 8 status, 0] ++ leBytes 2 d1 ++ leBytes 4 d2 ++ leBytes 8 d3)

/-- An answer to the sender of a task's invoke (16 R275). -/
def State.ackTask (s : State) (a : Ack) (status : Nat) : State :=
  s.send ((mkMsg s a.node mANSWER a.cls true 0 a.grp a.tag a.gen (BitVec.ofNat 16 status) []).ofDie a.die)

/-! ### Rounds of a reduction window (17 R294) -/

/-- The contributions whose sum a merged contribution is. -/
def roundOf (s : State) (m : Msg) : List TreeHeld :=
  s.tree.filter fun h => h.summed && h.off == m.at' 0 8 && h.index.toNat == m.at' 8 4 && h.msgs.all fun x => x.grp == m.grp
/-- Every member of a round is answered, and the round is over. -/
def roundOver (s : State) (m : Msg) (status : Nat) (bad : List Nat := []) : State :=
  let l := roundOf s m
  let s : State := { s with tree := s.tree.filter fun h => !l.contains h }
  (l.flatMap TreeHeld.msgs).foldl (fun (s : State) x => s.reply x mANSWER status [] bad) s

/-- A message of a context's older generation is dropped and counted in its virtual device's counters, also when the context
has ended (18 R315). -/
def State.genDrop (s : State) (k : Nat) : State :=
  let c := s.ctx k
  s.updVdev (if c.valid then c.vdev else c.last) fun v => { v with stale := v.stale + 1 }

/-! ### Event counters (22 R362, R363) -/

/-- Whether a part has an event. -/
def eventKnown (p : Part) (e : Nat) : Bool :=
  [1, 2, 3, 4, 5, 0x10, 0x11, 0x12, 0x13, 0x14, 0x20, 0x21, 0x30, 0x40, 0x50].contains e ||
    (p != .fn9200a && [0x51, 0x52, 0x53].contains e)
/-- A session's counter as it reads: UNAV in bit 63 where the part lacks its event (22 R362). -/
def counterWord (p : Part) (x : Session) (n : Nat) : W64 := if eventKnown p (x.events.getD n 0) then x.counters.get n else (1 : W64) <<< 63
/-- Counts `n` events of a context. -/
def State.count (s : State) (k e n : Nat) : State :=
  let bump := fun (x : Session) =>
    ((List.range 16).filter fun j => x.events.getD j 0 == e && eventKnown s.part e).foldl
      (fun (c : Cells 64) j => c.set j (BitVec.ofNat 64 (((c.get j).toNat + n) % 2 ^ 63))) x.counters
  if n = 0 then s
  else { s with sessions := s.sessions.map fun x => if x.die * 64 + x.ctx == k then { x with counters := bump x } else x }

/-- Counts `n` events of a die in every session there (22 R363; log 95). -/
def State.countDie (s : State) (d e n : Nat) : State := ((s.sessions.filter fun x => x.die == d).map fun x => d * 64 + x.ctx).eraseDups.foldl (fun (s : State) k => s.count k e n) s

/-! ### Barriers (11 R206-R209) -/

/-- Blocks whose slices are members of a barrier (11 R206, R207). -/
def barBlocks (s : State) (b : Bar) : List Block :=
  match b.level with
  | .core => s.blocks.filter fun x => x.id == b.owner
  | .quad => s.blocks.filter fun x => x.crewBase == b.owner
  | .die | .pkg => s.blocks.filter fun x => x.grid == b.owner
  | .pod => s.blocks.filter fun x =>
      let g := s.grid x.grid
      g.lrec.pj != 0 && g.lrec.pj + 65536 * (s.ctx (g.die * 64 + g.ctx)).grp.toNat == b.owner

/-- Wakes the groups that hold in `idle` and have a slice of a kind (04 R103). -/
def wakeIdle (s : State) (p : Slice → Bool) : State :=
  s.mapSlices fun x =>
      match x.run with
      | .waiting (.idle _) =>
        if (s.gang x).any (fun y => y.gm == x.gm && p y) then { x with run := .waiting (.idle 0) } else x
      | _ => x

/-- One more completed phase for the blocks given (04 R97, 11 R208). -/
def bumpBph (s : State) (bs : List Nat) : State :=
  wakeIdle { s with blocks := s.blocks.map fun x => if bs.contains x.id then { x with bph := x.bph + 1 } else x }
    fun x => bs.contains x.block

/-- Payload of a BARRIER message, whose layout the manual does not give (log 12): kind, number, join,
count, phase. -/
def barrierPayload (kind num j count : Nat) (phase : Nat := 0) : List Byte :=
  [BitVec.ofNat 8 kind, BitVec.ofNat 8 num] ++ leBytes 2 j ++ leBytes 4 count ++ leBytes 8 phase

/-- A message of a pod barrier, sent for a context of its group (11 R207, 17 R290). -/
def barrierMsg (s : State) (k : Nat) (dst grp : W16) (payload : List Byte) : Msg :=
  (mkMsg s dst mBARRIER 0 false 0 grp 0 (s.ctx k).gen 0 payload).ofDie (k / 64)
/-- The context of a pod group on the lowest die of the package that holds one (10 R174). -/
def grpCtx (s : State) (g : W16) : Nat := ((s.ctxs.filter fun c => c.valid && c.grp == g).map Ctx.id).foldl min 255
/-- The join whose pod barriers have an owner key (11 R207). -/
def PodJoin.key (j : PodJoin) : Nat := j.j.toNat + 65536 * j.grp.toNat
/-- The home tells the other member nodes of a completed pod phase (11 R207). -/
def podNotify (s : State) (b : Bar) : State :=
  match s.joins.find? fun j => j.key == b.owner && j.home == s.node with
  | some j =>
    if b.level == .pod then
      (j.members.filter (· != s.node)).foldl (fun (s : State) n =>
        s.send (barrierMsg s (grpCtx s j.grp) n j.grp (barrierPayload 3 b.num j.j.toNat 1))) s
    else s
  | none => s

/-- Completes a phase: arrivals return to 0 and the phase count advances (11 R208). -/
def barComplete (s : State) (id : Nat) : State :=
  let bs := (barBlocks s (s.bar id)).map Block.id
  let s : State := podNotify s (s.bar id)
  bumpBph (s.updBar id fun b => { b with arrivals := 0, phase := b.phase + 1, who := [] }) bs

/-- Whether the grids a pod barrier waits for have registered (11 R207). -/
def podReady (s : State) (b : Bar) : Bool :=
  b.level != .pod ||
    s.joins.any fun j => j.key == b.owner && j.home == s.node && decide (j.m ≤ j.registered.length)

/-- Completes the phase when arrivals reach the expected count (11 R208). -/
def barCheck (s : State) (id : Nat) : State :=
  let b := s.bar id
  if b.arrivals != 0 && decide (b.expected ≤ b.arrivals) && podReady s b then barComplete s id else s

/-- Flips a byte barrier whose count is 0 and whose parties have all arrived (11 R209). -/
def bbCheck (s : State) (k : Nat) : State :=
  let b := s.bb k
  if b.count == 0 && b.late.isEmpty && b.parties.all (fun p => b.arrived.contains p) then
    bumpBph (s.updBb k fun b => { b with phase := !b.phase, parties := b.parties.filter (fun p => !b.leaving.contains p), arrived := [], leaving := [] }) [b.block]
  else s

/-- The arrival of a slice in the phase in progress has been counted. -/
def Bar.counted (b : Bar) (slice : Nat) : Bool := b.who.contains slice && !(b.late.any fun p => p.1 == slice)
/-- Lowers the expected count for a retired slice and withdraws its arrival (02 R35), which the home of a join does in the
phase of that arrival (11 R207). -/
def barLower (s : State) (id slice : Nat) : State :=
  let b := s.bar id
  let s : State := s.updBar id fun b =>
    { b with expected := b.expected - 1, arrivals := if b.counted slice then b.arrivals - 1 else b.arrivals
             who := b.who.erase slice, late := b.late.filter fun p => p.1 != slice }
  if b.level == .pod then
    match s.joins.find? fun j => j.key == b.owner with
    | some j =>
      if j.home == s.node then barCheck s id
      else s.send (barrierMsg s (s.slice slice).ck j.home j.grp (barrierPayload 2 b.num j.j.toNat (b2n (b.counted slice)) b.phase))
    | none => s
  else barCheck s id

/-! ### Batons and allocation (14 R248, 02 R38-R42) -/

/-- The home paddock of a shape's set that holds a paddock (15 R251). -/
def shapeHome (sh : Shape) (p : Nat) : Nat :=
  match sh with
  | .single => p
  | .pairH => p / 2 * 2
  | .pairV => p % 2
  | .quad => 0
/-- Paddocks of a core that a shape joins around one of them (15 R251). -/
def shapeSet (sh : Shape) (p : Nat) : List Nat :=
  match sh with
  | .single => [p]
  | .pairH => [p / 2 * 2, p / 2 * 2 + 1]
  | .pairV => [p % 2, p % 2 + 2]
  | .quad => [0, 1, 2, 3]
/-- The key of paddock `p` of the core of unit `u`. -/
def unitOn (u p : Nat) : Nat := u / 256 * 256 + p * 64 + u % 64
/-- The unit of the core of `u` at a logical paddock index: a restored block may stand on others (15 R270). -/
def unitAt (s : State) (u p : Nat) : Nat := unitOn u (p ^^^ (s.punit u).flip)
/-- The logical paddock index of a unit. -/
def logicalPdk (s : State) (u : Nat) : Nat := (u / 64 % 4) ^^^ (s.punit u).flip
/-- The home unit of a unit under its shape. -/
def homeUnit (s : State) (u : Nat) : Nat := unitAt s u (shapeHome (s.punit u).shape (logicalPdk s u))

/-- Grants the baton to the oldest waiter, or frees it (14 R248). -/
def batonGrant (s : State) (u : Nat) : State :=
  s.updUnit u fun p => { p with holder := p.takers.head?.map (·.2), takers := p.takers.tail }
/-- A gang leaves: it gives up a baton it holds or waits for (14 R248). -/
def batonDrop (s : State) (u : Nat) (g : Nat × Nat) : State :=
  let s : State := s.updUnit u fun p => { p with takers := p.takers.filter (·.2 != g) }
  if (s.punit u).holder == some g then batonGrant s u else s

/-- A slice stops waiting for a baton; its gang leaves the line with the last of them (14 R248). -/
def takerGone (s : State) (x : Slice) : State :=
  match x.run with
  | .waiting (.baton _) =>
    if (s.gang x).any fun y => match y.run with | .waiting (.baton _) => y.id != x.id | _ => false then s
    else { s with units := s.units.map fun u => { u with takers := u.takers.filter (·.2 != (x.block, x.gid)) } }
  | _ => s
/-- Register blocks that a slice holds (02 R39). -/
def blocksOf (x : Slice) : Nat := if x.run == .retired then 0 else 1 + x.ext / 32
/-- Whether a slice runs in checked mode (21 R334). -/
def checkedSlice (s : State) (x : Slice) : Bool := x.handler || !hNochk (headerOf s x)
/-- A slice with the register files of a shadow, and with the operands that it has read of instructions which have not retired. -/
def shadowRegs (z x : Slice) : Slice :=
  { x with s := z.s, v := z.v, k := z.k, c := z.c, ct := z.ct, xv := { x.xv with queue := z.xv.queue } }
/-- Limits of the lag window, of the load-value queue and of the store-compare buffer (21 R336). -/
def lagMost : Nat := 64
def effectsMost : Nat := 32
/-- All three have room for one more instruction of the slice. -/
def lagRoom (x : Slice) : Bool :=
  decide (x.lag.length < lagMost) && decide ((x.lag.map Prod.fst).foldl (· + ·) 0 < lagMost) && decide ((x.lag.map Prod.snd).foldl (· + ·) 0 < effectsMost)
/-- Blocks that a slice takes from the pool of its context: a handler slice's base block is reserved beside it (13 R229,
02 R38; log 24). -/
def poolBlocks (x : Slice) : Nat := if x.handler then blocksOf x - 1 else blocksOf x
/-- The slice holds its registers on its paddock. -/
def holdsRegs (s : State) (x : Slice) : Bool := x.handler || (s.block x.block).run != .saved
/-- Register blocks of a context's pool in use on a paddock. -/
def poolUsed (s : State) (pk ctx : Nat) : Nat :=
  ((s.slices.filter fun x => x.pk == pk && x.ctx == ctx && holdsRegs s x).map poolBlocks).foldl (· + ·) 0
/-- Blocks of the check store in use on a paddock: those of checked slices, and one for the handler slice of each resident
context, which residency reserves as it does in the register file (18 R303, 21 R334, R335; log 97). -/
def checkUsed (s : State) (pk : Nat) : Nat :=
  b2n (s.pdk pk).slot0.isSome + b2n (s.pdk pk).slot1.isSome +
    ((s.slices.filter fun x => x.pk == pk && checkedSlice s x && holdsRegs s x).map poolBlocks).foldl (· + ·) 0

/-- The slice holds an extended block of `e` registers: those it gives up are lost, those it gains read zero (02 R40). -/
def setExt (e : Nat) (x : Slice) : Slice := { x with ext := e, v := x.v.filter fun p => decide (p.1 < 32 * (32 + min e x.ext)) }
/-- A member's instruction ends by itself, as its wait does, or in the issue in hand, which counts it then. -/
def finished (s : State) (id : Nat) (x : Slice) : Slice := if s.inGroup id then x else completed (s.slice id).pc x
/-- Grants the head waiter of a context on a paddock while the pool, and for checked slices the check
store, hold its blocks (02 R42, 21 R335). -/
def allocGrant (s : State) (pk ctx : Nat) : Nat → State
  | 0 => s
  | n + 1 =>
    match (s.pdk pk).waiters.find? fun w => w.ctx == ctx with
    | none => s
    | some w =>
      let free := (s.ctx (pk / 192 * 64 + ctx)).pool - poolUsed s pk ctx
      let chk := if w.members.any (fun i => checkedSlice s (s.slice i)) then decide (w.need ≤ 32 - checkUsed s pk) else true
      if w.need ≤ free && chk then
        let s : State := s.updPdk pk fun p => { p with waiters := p.waiters.erase w }
        let s : State := s.mapSlices fun x =>
          if w.members.contains x.id then { finished s x.id (advance (setExt w.e x)) with run := .ready } else x
        allocGrant s pk ctx n
      else s
/-- Every context's waiters of a paddock: the check store is one for all of them (02 R42, 21 R335). -/
def allocGrants (s : State) (pk : Nat) : State :=
  ((s.pdk pk).waiters.map Waiter.ctx).eraseDups.foldl (fun (s : State) c => allocGrant s pk c 64) s

/-! ### Ends of slices, gangs, blocks and grids (02 R34, R35) -/

/-- The grid's completion, its counter and the child launches it recorded (02 R34, 17 R288, R293, 18 R297). -/
def gridEnd (s : State) (id : Nat) : State :=
  let g := s.grid id
  let k := g.die * 64 + g.ctx
  if g.finished || decide (g.ended < g.total) then s
  else
    let s : State := s.updGrid id fun g => { g with finished := true }
    let s : State := { s with bars := s.bars.filter fun b => !((b.level == .die || b.level == .pkg) && b.owner == id) }
    let s : State := if g.wave then s
      else if g.killed = 0 then s.complete k g.htag 0 0 0 0 else s.complete k g.htag 2 0 g.killed g.firstKilled.toNat
    s.updCtx k fun c =>
      { c with
        counters := match g.sig with | some i => c.counters.set i (c.counters.get i + 1) | none => c.counters
        lq := c.lq ++ g.launches.map fun p => (p.2.lq, { lrec := p.2 }) }

/-- The block ends when its gangs have retired and its commands and pushes have completed (02 R34). -/
def blockEnd (s : State) (b : Nat) : State :=
  let x := s.block b
  if x.run == .ended || (s.blockSlices b).any (fun y => y.run != .retired) || s.cmds.any (fun c => c.block == b) ||
      s.retiring.any (fun r => r.block == b) || s.pushbuf.any (fun r => r.block == b) then s
  else
    let s : State := s.updBlock b fun x => { x with run := .ended }
    let s : State := { s with bars := s.bars.filter fun y => !(y.level == .core && y.owner == b), bbs := s.bbs.filter fun y => y.block != b }
    gridEnd (s.updGrid x.grid fun g => { g with ended := g.ended + 1 }) x.grid

/-- A slice retires (02 R34, R35, R41, R42); a handler slice is a member of nothing (13 R229). -/
def retireSlice (s : State) (id : Nat) : State :=
  let x := s.slice id
  if x.run == .retired then s
  else
    let s : State := s.putSlice { x with run := .retired, alive := 0 }
    if x.handler then allocGrants s x.pk
    else
    let s : State := (s.bars.filter fun b => (barBlocks s b).any (fun y => y.id == x.block)).foldl (fun (s : State) b => barLower s b.id id) s
    let s : State := ((s.bbs.filter fun b => b.block == x.block && b.parties.contains id).map State.bbKey).foldl
      (fun (s : State) k => bbCheck (s.updBb k fun b => { b with parties := b.parties.erase id, arrived := b.arrived.erase id, leaving := b.leaving.erase id, late := b.late.filter fun p => p.1 != id }) k) s
    let s : State := if (s.gang x).all (fun y => y.run == .retired) then batonDrop s (homeUnit s x.uk) (x.block, x.gid) else s
    let s : State := allocGrants s x.pk
    blockEnd s x.block

/-- A handler slice's service is over: the blocks it took go back (13 R229, R237). -/
def retireHandler (s : State) (id : Nat) : State := allocGrants (s.updSlice id fun h => { h with run := .retired }) (s.slice id).pk

/-- The exited slices of a gang that belong to a group retire (02 R34). -/
def retireExited (s : State) (x : Slice) (gm : BitVec 4) : State :=
  ((s.gang x).filter fun y => y.alive == 0 && y.run != .retired && gm.getLsbD y.idx).foldl (fun (s : State) y => retireSlice s y.id) s

/-! ### Leaving a group (02 R27, R34) -/

/-- The bits of slices in a gang's mask. -/
def maskBits (l : List Slice) : BitVec 4 := l.foldl (fun m y => m ||| ((1 : BitVec 4) <<< y.idx)) 0
/-- The slice's own bit of a group mask. -/
def ownBit (x : Slice) : BitVec 4 := (1 : BitVec 4) <<< x.idx
/-- A slice leaves its group and becomes one of its own; the group it leaves splits (02 R27, R34). -/
def leaveGroup (s : State) (x : Slice) : State :=
  if x.handler || x.gm &&& ~~~ownBit x == 0 then s.updSlice x.id fun y => { y with gm := ownBit y }
  else
    let s : State := retireExited (s.count x.ck 3 1) x x.gm
    let lives := maskBits ((s.gang x).filter Slice.isAlive)
    s.mapSlices fun y =>
      if y.id == x.id then { y with gm := ownBit y }
      else if y.block == x.block && y.gid == x.gid && !y.handler && y.gm &&& ownBit x != 0 then
        { y with gm := y.gm &&& lives &&& ~~~ownBit x }
      else y
/-! ### The trap queue (13 R229) -/

/-- A trap stands behind another of the same cycle with a lower `%gid`, then a lower `%slice`. -/
def TrapEntry.behind (a b : TrapEntry) : Bool :=
  let key := fun (e : TrapEntry) => e.trec.gid.toNat * 4 + bitsOf e.trec.unit.toNat 4 2
  a.trec.cc == b.trec.cc && decide (key b < key a)
/-- A trap takes its place: in the order in which traps were taken. -/
def insertTrap (e : TrapEntry) : List TrapEntry → List TrapEntry
  | [] => [e]
  | a :: t => if a.behind e then e :: a :: t else a :: insertTrap e t
/-- The queue has 16 entries; what comes later holds for one. -/
def PUnit.setTraps (u : PUnit) (l : List TrapEntry) : PUnit := { u with traps := l.take 16, late := l.drop 16 }
def PUnit.queueTrap (u : PUnit) (e : TrapEntry) : PUnit := u.setTraps (insertTrap e (u.traps ++ u.late))
/-- The traps of some blocks leave, and those that hold for an entry move up. -/
def PUnit.dropTraps (u : PUnit) (p : Nat → Bool) : PUnit := u.setTraps ((u.traps ++ u.late).filter fun t => !p t.block)

/-! ### Pieces of a command (11 R193, 14 R249) -/

/-- Rows of `kvc`: set bits of the accept mask, ascending (14 R249). -/
def bits64 (m : W64) : List Nat := (List.range 64).filter fun i => m.getLsbD i
/-- One piece of a command: its source, none where zeros are written. -/
structure Piece where
  src : Option Nat := none
  dst : Nat := 0
  dspace : Nat := 0
  lane : Nat := 255
  deriving DecidableEq, Repr

/-- Rejected rows that `kvc.z` clears. -/
def kvcZeros (c : Command) : List Nat :=
  if c.z then (List.range (min 64 (c.src.len / c.len))).filter fun i => !c.accept.getLsbD i else []
def Command.pieces (c : Command) : Nat :=
  match c.kind with
  | 1 => 1
  | 2 => c.count
  | 3 => popc c.lanes
  | 4 => popc c.lanes
  | 8 => c.count + (kvcZeros c).length
  | _ => 0
def Command.pieceAt (c : Command) (i : Nat) : Piece :=
  let row := fun (a p : W64) => (a.toInt + i * p.toInt).toNat
  match c.kind with
  | 2 => { src := some (row c.srcA c.ps), dst := row c.dstA c.pd, dspace := c.dst.space }
  | 3 =>
    let l := (lanesOf c.lanes).getD i 0
    { src := some (c.srcA.toNat + (c.idx.get l).toNat), dst := c.dstA.toNat + l * c.len, dspace := c.dst.space, lane := l }
  | 4 =>
    let l := (lanesOf c.lanes).getD i 0
    { src := some (c.srcA.toNat + l * c.len), dst := c.dstA.toNat + (c.idx.get l).toNat, dspace := c.dst.space, lane := l }
  | 8 =>
    if i < c.count then
      { src := some (c.src.base + (bits64 c.accept).getD i 0 * c.len), dst := c.dst.base + (c.pos.toNat + i) * c.len, dspace := c.dst.space }
    else { dst := c.src.base + (kvcZeros c).getD (i - c.count) 0 * c.len, dspace := c.src.space }
  | _ => { src := some c.srcA.toNat, dst := c.dstA.toNat, dspace := c.dst.space }
/-- Bytes performed, in the order of the pieces (11 R194). -/
def Command.progress (c : Command) : Nat := c.piece * c.len + c.off
/-- The command stands inside a 512-byte stretch of its destination: its next byte lies in the stretch of the last one
written (11 R211, 13 R244, 21 R342). -/
def Command.inside (c : Command) : Bool :=
  let at' := fun (i o : Nat) => let p := c.pieceAt i; (p.dspace, (p.dst + o) / 512)
  let next := if c.off < c.len then (c.piece, c.off) else (c.piece + 1, 0)
  c.len != 0 && decide (next.1 < c.pieces) &&
    if 0 < c.off then at' c.piece (c.off - 1) == at' next.1 next.2
    else 0 < c.piece && at' (c.piece - 1) (c.len - 1) == at' next.1 next.2

/-! ### Kills (13 R244) -/

/-- What a kill leaves of a command: one in progress goes on to its next boundary, without completing anything (13 R244,
21 R342); one whose next byte is not inside a stretch is dropped as it is. -/
def dieCmd (c : Command) : Option Command :=
  if c.stage = 2 || (c.stage == 5 && c.inside) then some { c with dying := true, committed := false } else none
/-- Every block of a crew has been killed: the crew is (17 R288). -/
def crewKilled (s : State) (x : Block) : Bool := (s.blocks.filter fun y => y.crewBase == x.crewBase && y.grid == x.grid).all Block.killed
/-- Kills a block (13 R234, R238, R244): its slices stop and retire without signals, its commands that have not
been performed are dropped, its unretired tasks signal nothing and answer FAULT, and the grid counts and reports it. -/
def killBlock (s : State) (b : Nat) (recs : List TrapRec) : State :=
  let x := s.block b
  if x.run == .ended then s
  else
    let s : State := x.wave.foldl (fun (s : State) t => match t.task.ack with
      | some a => if t.done || t.answered then s else s.ackTask a 3
      | none => s) s
    let s : State := s.updBlock b fun x => { x with wave := x.wave.map fun t => { t with answered := true }, killed := true }
    let s : State := { s with
      cmds := s.cmds.filterMap fun c => if c.block != b then some c else dieCmd c
      saved := s.saved.filter fun v => v.block != b
      red := s.red.filter fun r => !(s.cmds.any fun c => c.id == r.cmd && c.block == b)
      pdks := s.pdks.map fun p => { p with waiters := p.waiters.filter fun w => !(w.members.any fun i => (s.slice i).block == b) }
      units := s.units.map fun u =>
        { u.dropTraps (· == b) with
                 mq := u.mq.filter fun m => m.block != b
                 service := match u.service with | some t => if t.block = b then none else some t | none => none } }
    let s : State := (s.units.filter fun u => u.service.isNone && u.hslice != 0).foldl
      (fun (s : State) u => retireHandler s u.hslice) s
    let s : State := s.updGrid x.grid fun g =>
      { g with killed := g.killed + 1, firstKilled := if g.killed = 0 then x.blk else g.firstKilled
               reports := g.reports ++ recs
               launches := if crewKilled s x then g.launches.filter fun p => p.1 != x.crewBase else g.launches }
    let s : State := (s.blockSlices b).foldl (fun (s : State) y => retireSlice s y.id) s
    blockEnd s b

/-! ### Taking a trap and returning from the handler (13 R229-R238) -/

/-- TRAPE is nonzero, a multiple of 8 and inside the code capability (13 R230). -/
def trapeUsable (c : Ctx) : Bool := c.trape != 0 && c.trape % 8 == 0 && inCode c (BitVec.ofNat 64 c.trape)

/-- The first trap of a wave's slice answers FAULT for its unretired tasks (17 R284). -/
def faultTasks (s : State) (b : Nat) : State :=
  let x := s.block b
  let s : State := x.wave.foldl (fun (s : State) t => match t.task.ack with
    | some a => if t.done || t.answered then s else s.ackTask a 3
    | none => s) s
  s.updBlock b fun x => { x with wave := x.wave.map fun t => { t with answered := true } }

/-- A trap of the handler slice itself kills the block being served, with both records (13 R238). -/
def doubleTrap (s : State) (x : Slice) (t : TrapInfo) : State :=
  let u := s.punit x.uk
  match u.service with
  | some e =>
    let s : State := s.updUnit x.uk fun u => { u with service := none, proxy := none }
    killBlock (retireHandler s x.id) e.block [e.trec, mkRec s x t]
  | none => retireHandler s x.id

/-- Taking a trap (13 R227-R231): in a proxy word the code goes to `%hxs`; in the handler it is a double trap;
without a usable entry the block is killed; else the slice is held and the trap queued. Its group splits and its pending
results are written as the move ends (`heldSettle`). -/
def takeTrap (s : State) (id : Nat) (t : TrapInfo) : State :=
  let x := s.slice id
  match s.proxy with
  | some u => s.updUnit u fun p => { p with hxs := t.code }
  | none =>
    if x.handler then doubleTrap s x t
    else
      let s : State := faultTasks s x.block
      let e : TrapEntry := { slice := id, block := x.block, trec := mkRec s x t }
      if !trapeUsable (s.ctxOf x) then killBlock s x.block [e.trec]
      else
        let s : State := (takerGone s x).updSlice id fun x => { x with run := .held, pc := t.rpc, marked := false }
        s.updUnit x.uk fun u => u.queueTrap e

/-- Queued traps of a unit, those waiting for an entry included. -/
def queuedSlices (u : PUnit) : List Nat := (u.traps ++ u.late).map TrapEntry.slice

/-- Return from the handler (13 R237): every marked held slice of the block resumes at its `%hpc` as its own
group, its first eight instructions interlocked, unless its own trap has not been served; the service ends. -/
def trapReturn (s : State) (h : Slice) : State :=
  let u := s.punit h.uk
  let waiting := (s.units.map queuedSlices).flatten
  let blk := match u.service with | some e => e.block | none => 0
  let s : State := s.mapSlices fun x =>
    if x.block == blk && !x.handler && x.run == .held && x.marked && !waiting.contains x.id then
      { x with run := .ready, marked := false, gm := (1 : BitVec 4) <<< x.idx, interlock := 8 }
    else x
  let s : State := retireHandler s h.id
  s.updUnit h.uk fun u => { u with service := none, hregs := some { h with run := .retired } }

/-- The traps found by the checks that precede an instruction's effect are taken, and the other members go on. -/
def State.trapMembers (s : State) (f : Slice → Option TrapInfo) : State :=
  let bad := s.group.filterMap fun id => (f (s.slice id)).map fun t => (id, t)
  let s : State := bad.foldl (fun (s : State) p => takeTrap s p.1 p.2) s
  { s with group := s.group.filter fun id => !(bad.any fun p => p.1 == id) }

end Sys2Proof.Machine
end

