-- ==== Sys2Proof/Machine/Trace.lean ====
section
/-! DEFINITION. Trace rings, samples and event counters of debug sessions (22 R349-R352, R361-R363). -/
namespace Sys2Proof.Machine

/-- The time since the last change counts in a stage of a sampled command, while it performs its first piece (22 R361). -/
def chargeStage (s : State) (c : Command) (stage : Nat) : Command :=
  let n := if c.piece = 0 then s.clk c.die - c.since else 0
  let c := { c with since := s.clk c.die }
  match stage with
  | 0 => { c with wait0 := c.wait0 + n }
  | 1 => { c with wait1 := c.wait1 + n }
  | 4 => { c with wait4 := c.wait4 + n }
  | _ => { c with wait7 := c.wait7 + n }
/-- The key of a session's part on a die. -/
def Session.key (x : Session) : Nat := x.die * 4 + x.id
/-- Parts of the sessions of a context on its die. -/
def sessionsOf (s : State) (k : Nat) : List Session := s.sessions.filter fun x => x.die * 64 + x.ctx == k
def State.session (s : State) (i : Nat) : Session := recGet Session.key {} s.sessions i
def State.updSession (s : State) (i : Nat) (f : Session → Session) : State :=
  { s with sessions := recUpd Session.key s.sessions i f }
/-- An enable bit: TMARK 0, SAMPLE 1, STOP 2, BREAK 3, HBRK 4 (22 R349, 23 R374). -/
def Session.on (x : Session) (b : Nat) : Bool := x.mask.getLsbD b

/-- The block fields of a record's header; all 0 in a record without a block (22 R351). -/
structure TraceSrc where
  unit : Byte := 0
  gid : Nat := 0
  core : Nat := 0
  blk : BitVec 48 := 0
  bph : W32 := 0
  /-- The cycle of the event, where it is not the die's present one. -/
  cc : Option W64 := none
  deriving DecidableEq, Repr

/-- Where a slice's record comes from. -/
def srcOf (s : State) (x : Slice) : TraceSrc :=
  let b := s.block x.block
  { unit := BitVec.ofNat 8 (pdkNo s x + 4 * (x.die % 4) + 16 * (x.idx % 4)), gid := x.gid, core := b.lcore, blk := b.blk, bph := b.bph
    cc := if s.inGroup x.id then some (s.ccTurn x) else none }
/-- Where a block's record comes from. -/
def srcOfBlock (b : Block) : TraceSrc :=
  { unit := BitVec.ofNat 8 (4 * (b.die % 4)), core := b.lcore, blk := b.blk, bph := b.bph }

/-- The 32-byte header of a record (22 R351). -/
def traceHdr (type len ctx : Nat) (src : TraceSrc) (cc : W64) (seq : W32) : List Byte :=
  [BitVec.ofNat 8 type, BitVec.ofNat 8 len, BitVec.ofNat 8 ctx, src.unit, BitVec.ofNat 8 src.gid, BitVec.ofNat 8 src.core, 0, 0] ++
    leBytes 8 cc.toNat ++ leBytes 6 src.blk.toNat ++ [0, 0] ++ leBytes 4 src.bph.toNat ++ leBytes 4 seq.toNat

/-- Units of the ring without an unread record. -/
def Session.room (x : Session) : Nat := 2 ^ x.ringK - (x.tail - x.head).toNat
/-- Units to the end of the ring. -/
def Session.toEnd (x : Session) : Nat := 2 ^ x.ringK - x.tail.toNat % 2 ^ x.ringK

/-- Puts bytes at the tail and advances it. -/
def ringPut (s : State) (i : Nat) (bs : List Byte) : State :=
  let x := s.session i
  let s : State := s.wr (x.ringBase + 16 * (x.tail.toNat % 2 ^ x.ringK)) bs
  s.updSession i fun x => { x with tail := x.tail + BitVec.ofNat 32 (bs.length / 16) }

/-- A PAD record of `n` units, 1 to 7 (22 R350); it takes no SEQ (log 30). -/
def padBytes (s : State) (x : Session) (n : Nat) : List Byte :=
  if n = 1 then [8, 1] ++ List.replicate 14 0
  else traceHdr 8 n x.ctx {} (s.cc x.die) 0 ++ List.replicate (16 * n - 32) 0

/-- Units that a record of `n` units needs at the tail, its PAD included. -/
def Session.need (x : Session) (n : Nat) : Nat := if x.toEnd < n then x.toEnd + n else n

/-- Writes a record for which there is room, after a PAD where it would straddle the end of the ring. -/
def ringRecord (s : State) (i type : Nat) (src : TraceSrc) (payload : List Byte) : State :=
  let n := 2 + (payload.length + 15) / 16
  let x := s.session i
  let s : State := if x.toEnd < n then ringPut s i (padBytes s x x.toEnd) else s
  let s : State := ringPut s i (traceHdr type n x.ctx src (src.cc.getD (s.cc x.die)) x.seq ++ payload ++ List.replicate (16 * (n - 2) - payload.length) 0)
  s.updSession i fun x => { x with seq := x.seq + 1 }

/-- A record of a session (22 R350): a LOST record comes first after drops; without room it is dropped. -/
def traceOne (s : State) (i type : Nat) (src : TraceSrc) (payload : List Byte) : State :=
  let lost := (s.session i).dropped
  let s : State :=
    if lost ≠ 0 && decide ((s.session i).need 3 ≤ (s.session i).room) then
      (ringRecord s i 7 {} (leBytes 4 lost ++ List.replicate 12 0)).updSession i fun x => { x with dropped := 0 }
    else s
  let x := s.session i
  if x.dropped ≠ 0 || decide (x.room < x.need (2 + (payload.length + 15) / 16)) then
    s.updSession i fun x => { x with dropped := x.dropped + 1 }
  else ringRecord s i type src payload

/-- A SAMPLE record in the session parts that chose the request, those of them that have not ended (22 R352, R361). -/
def traceChosen (s : State) (uids : List Nat) (src : TraceSrc) (payload : List Byte) : State :=
  (s.sessions.filter fun x => uids.contains x.uid && x.on 1).foldl (fun (s : State) x => traceOne s x.key 2 src payload) s
/-- A record in every session of a context with an enable bit. -/
def traceAll (s : State) (k bit type : Nat) (src : TraceSrc) (payload : List Byte) : State :=
  ((sessionsOf s k).filter fun x => x.on bit).foldl (fun (s : State) x => traceOne s x.key type src payload) s

/-! ### Samples (22 R361) -/

/-- Key under which a session counts the requests of a queue, and the `atm` accesses of a paddock. -/
def sampleAtmKey (pk : Nat) : Nat := 2 ^ 24 + pk
/-- Counts one request of a source in the sessions of a context, from their start, whether they sample or not; the session parts that
sample it. -/
def sampleTick (s : State) (k src : Nat) : State × List Nat :=
  let get := fun (x : Session) => (((x.counts.find? fun p => p.1 == src).map (·.2)).getD 0) + 1
  let mine := fun (x : Session) => x.die * 64 + x.ctx == k
  ({ s with sessions := s.sessions.map fun x => if mine x then { x with counts := recPut Prod.fst x.counts src (src, get x) } else x },
    (s.sessions.filter fun x => mine x && x.on 1 && get x % 2 ^ x.sample == 0).map Session.uid)
/-- The payload of a SAMPLE record with the eight stage times (log 31). -/
def samplePayload (ipc addr : W64) (kind space flags total : Nat) (stages : List Nat) : List Byte :=
  let c := fun n => leBytes 4 (min n (2 ^ 32 - 1))
  leBytes 8 ipc.toNat ++ leBytes 8 addr.toNat ++ [BitVec.ofNat 8 kind, BitVec.ofNat 8 space, BitVec.ofNat 8 flags, 0] ++
    c total ++ stages.flatMap c ++ List.replicate 8 0
/-- The time of an access is shared out among the stages after the first ones that it passes; how, is free (log 31). -/
def shareOut (free : Nat) (passes : List Bool) (n : Nat) : List Nat × Nat :=
  passes.zipIdx.foldl (fun (r : List Nat × Nat) p =>
    let t := if p.1 then (Config.freeTime (free + p.2)).toNat % (r.2 + 1) else 0
    (r.1 ++ [t], r.2 - t)) ([], n)
/-- Bytes of an access over the die-to-die boundaries: which it crosses the manual does not say, so a session's counters of
them take free values (22 R363; log 95). -/
def countLinks (s : State) (k : Nat) : State :=
  [0x50, 0x51, 0x52, 0x53].foldl (fun (s : State) e =>
    if s.sessions.any fun x => x.die * 64 + x.ctx == k && x.events.contains e then ({ s with free := s.free + 1 }).count k e (Config.freeTime s.free).toNat else s) s
/-- One `atm` access at an address: counted, and recorded where sampled. Its spaces have no translation; how long it spent in
each stage it passes is a free value (log 92). -/
def sampleAtm (s : State) (x : Slice) (space : Nat) (addr : W64) : State :=
  let (s', hit) := sampleTick s x.ck (sampleAtmKey x.pk)
  if hit.isEmpty then s'
  else
    let t := fun n => (Config.freeTime (s.free + n)).toNat
    let stages := [0, 0, t 0, 0, 0, t 1, t 2, t 3]
    traceChosen { s' with free := s'.free + 4 } hit (srcOf s x) (samplePayload x.pc addr 10 space 0 (stages.foldl (· + ·) 0) stages)

end Sys2Proof.Machine
end

