-- ==== Sys2Proof/Machine/Hazards.lean ====
section
/-! DEFINITION. Which registers an instruction reads and writes, its latency (03 R54-R57), and the traps that
precede its effect and depend on them: PRIV, ALLOCX and STALLSHORT (13 R228). -/
namespace Sys2Proof.Machine

/-- A register of a slice by class. -/
inductive Reg where
  | s (n : Nat) | v (n : Nat) | k (n : Nat) | c (n : Nat)
  deriving DecidableEq, Repr

def rS (r : SReg) : Reg := .s r.toNat
def rV (r : VReg) : Reg := .v r.toNat
def rK (r : KReg) : Reg := .k r.toNat
def rC (r : CReg) : Reg := .c r.toNat
def rB : SrcB → List Reg
  | .reg r => [rS r]
  | .imm _ => []
def rX : Idx → List Reg
  | .none => []
  | .scalar r => [rS r]
  | .vector r => [rV r]
def rXk (x : Idx) : List Reg := if x.isVector then [.k 0] else []
def rP (p : Pred) : List Reg := if p.k = 0 then [] else [rK p.k]
def rT (cmp : BitVec 5) : List Reg := if cmp != 0 && decide (cmp.toNat < 16) then [.c cmp.toNat] else []
/-- The register fields of an atomic name vectors with a vector index, else scalars (11 R201). -/
def rSV (x : Idx) (r : VReg) : Reg := if x.isVector then .v r.toNat else .s (r.toNat % 64)
/-- The second register of a two-register type (15 R264). -/
def rTwo (t : Ty) (r : VReg) : List Reg := if t == .f32 || t == .i32 then [.v (r.toNat + 1)] else []

/-- The mask register that a shuffle writes, if it writes one (05 R124). -/
def rKf (k : KReg) : List Reg := if k = 0 then [] else [rK k]
/-- The registers that a branch compares; an unconditional one reads none (04 R88). -/
def rBr (c : Cond) (a b : SReg) : List Reg := if c == .always then [] else [rS a, rS b]

/-- Registers that an instruction reads (03 R54). -/
def srcRegs : Instr → List Reg
  | .br c a b _ => rBr c a b
  | .brS c a b _ => rBr c a b
  | .brKz a _ => [rK a]
  | .brKnz a _ => [rK a]
  | .brKf a _ => [rK a]
  | .ret a => [rS a]
  | .loop _ a _ => [rS a]
  | .rgn sMask vMask => [rS sMask, rS vMask]
  | .exit p => rP p ++ [rK 0]
  | .rdsrV p _ _ => rP p ++ [rK 0]
  | .wrsr _ a => [rS a]
  | .frWrite a => [rS a]
  | .lfmWrite a => [rS a]
  | .lcWrite _ a => [rS a]
  | .sysc _ => [rS 2, rS 3, rS 4, rS 5]
  | .sadd _ a b => [rS a] ++ rB b
  | .ssub _ a b => [rS a] ++ rB b
  | .smul _ a b => [rS a] ++ rB b
  | .smulh _ _ a b => [rS a] ++ rB b
  | .sdiv _ _ a b => [rS a] ++ rB b
  | .srem _ _ a b => [rS a] ++ rB b
  | .sand _ a b => [rS a] ++ rB b
  | .sor _ a b => [rS a] ++ rB b
  | .sxor _ a b => [rS a] ++ rB b
  | .sshl _ a b => [rS a] ++ rB b
  | .sshr _ a b => [rS a] ++ rB b
  | .ssra _ a b => [rS a] ++ rB b
  | .smin _ _ a b => [rS a] ++ rB b
  | .smax _ _ a b => [rS a] ++ rB b
  | .scmp _ _ _ a b => [rS a] ++ rB b
  | .ssel d a b => [rS d, rS a, rS b]
  | .smov _ a => [rS a]
  | .slih d _ => [rS d]
  | .sext _ _ a => [rS a]
  | .sbfe _ _ a _ _ => [rS a]
  | .sbfi d a _ _ => [rS d, rS a]
  | .spopc _ a => [rS a]
  | .sclz _ a => [rS a]
  | .kand _ a b => [rK a, rK b]
  | .kor _ a b => [rK a, rK b]
  | .kxor _ a b => [rK a, rK b]
  | .kandn _ a b => [rK a, rK b]
  | .knot _ a => [rK a]
  | .kmov _ a => [rK a]
  | .kmovFromScalar _ a => [rS a]
  | .kmovToScalar _ a => [rK a]
  | .kpopc _ a => [rK a]
  | .kfirst _ a => [rK a]
  | .cset _ a b => [rC a] ++ rB b
  | .coff _ a b => [rC a] ++ rB b
  | .cperm _ a b => [rC a] ++ rB b
  | .cgetBase _ a => [rC a]
  | .cgetLen _ a => [rC a]
  | .cgetGran _ a => [rC a]
  | .cgetSpace _ a => [rC a]
  | .cgetPerm _ a => [rC a]
  | .ctag _ a => [rC a]
  | .cmov _ a => [rC a]
  | .vadd p _ _ a b => rP p ++ [rV a, rV b, rK 0]
  | .vsub p _ _ a b => rP p ++ [rV a, rV b, rK 0]
  | .vmul p _ _ a b => rP p ++ [rV a, rV b, rK 0]
  | .vmulh p _ _ a b => rP p ++ [rV a, rV b, rK 0]
  | .vmad p _ _ a b c => rP p ++ [rV a, rV b, rV c, rK 0]
  | .vand p _ a b => rP p ++ [rV a, rV b, rK 0]
  | .vor p _ a b => rP p ++ [rV a, rV b, rK 0]
  | .vxor p _ a b => rP p ++ [rV a, rV b, rK 0]
  | .vshl p _ _ a b => rP p ++ [rV a, rV b, rK 0]
  | .vshr p _ _ a b => rP p ++ [rV a, rV b, rK 0]
  | .vsra p _ _ a b => rP p ++ [rV a, rV b, rK 0]
  | .vmin p _ _ a b => rP p ++ [rV a, rV b, rK 0]
  | .vmax p _ _ a b => rP p ++ [rV a, rV b, rK 0]
  | .vabs p _ _ a => rP p ++ [rV a, rK 0]
  | .vneg p _ _ a => rP p ++ [rV a, rK 0]
  | .vcmp p _ _ _ a b => rP p ++ [rV a, rV b, rK 0]
  | .vsel p _ a b k => rP p ++ [rV a, rV b, rK k, rK 0]
  | .vmov p _ a => rP p ++ [rV a, rK 0]
  | .vli p _ _ _ => rP p ++ [rK 0]
  | .vbcast p _ _ a => rP p ++ [rS a, rK 0]
  | .vclz p _ _ a => rP p ++ [rV a, rK 0]
  | .vpopc p _ _ a => rP p ++ [rV a, rK 0]
  | .vbfe p _ _ a b c => rP p ++ [rV a, rV b, rV c, rK 0]
  | .vfadd p _ _ a b => rP p ++ [rV a, rV b, rK 0]
  | .vfsub p _ _ a b => rP p ++ [rV a, rV b, rK 0]
  | .vfmul p _ _ a b => rP p ++ [rV a, rV b, rK 0]
  | .vfma p _ _ a b c => rP p ++ [rV a, rV b, rV c, rK 0]
  | .vfmin p _ _ a b => rP p ++ [rV a, rV b, rK 0]
  | .vfmax p _ _ a b => rP p ++ [rV a, rV b, rK 0]
  | .vfabs p _ _ a => rP p ++ [rV a, rK 0]
  | .vfneg p _ _ a => rP p ++ [rV a, rK 0]
  | .vfcmp p _ _ _ a b => rP p ++ [rV a, rV b, rK 0]
  | .vfcls p _ _ a => rP p ++ [rV a, rK 0]
  | .vrcp p _ _ a => rP p ++ [rV a, rK 0]
  | .vrsq p _ _ a => rP p ++ [rV a, rK 0]
  | .vexp2 p _ _ a => rP p ++ [rV a, rK 0]
  | .vlog2 p _ _ a => rP p ++ [rV a, rK 0]
  | .vcvt p _ _ _ a => rP p ++ [rV a, rK 0]
  | .vpack p _ _ _ a b => rP p ++ [rV a, rV b, rK 0]
  | .vunpack p _ _ _ a _ => rP p ++ [rV a, rK 0]
  | .vqb _ _ a b => [rV a, rV b, rK 0]
  | .vdqb p _ _ a _ => rP p ++ [rV a, rK 0]
  | .shf p _ _ _ a b => rP p ++ [rV a, rV b, rK 0]
  | .shfUp p _ _ _ a b => rP p ++ [rV a, rS b, rK 0]
  | .shfDn p _ _ _ a b => rP p ++ [rV a, rS b, rK 0]
  | .shfX p _ _ _ a b => rP p ++ [rV a, rS b, rK 0]
  | .voteAny p _ _ a => rP p ++ [rK a, rK 0]
  | .voteAll p _ _ a => rP p ++ [rK a, rK 0]
  | .voteBal p _ _ a => rP p ++ [rK a, rK 0]
  | .vred p _ _ _ _ a => rP p ++ [rV a, rK 0]
  | .vscan p _ _ _ _ a => rP p ++ [rV a, rK 0]
  | .vaddImm p _ _ a _ => rP p ++ [rV a, rK 0]
  | .vmulImm p _ _ a _ => rP p ++ [rV a, rK 0]
  | .vandImm p _ a _ => rP p ++ [rV a, rK 0]
  | .vorImm p _ a _ => rP p ++ [rV a, rK 0]
  | .vxorImm p _ a _ => rP p ++ [rV a, rK 0]
  | .vshlImm p _ _ a _ => rP p ++ [rV a, rK 0]
  | .vshrImm p _ _ a _ => rP p ++ [rV a, rK 0]
  | .vsraImm p _ _ a _ => rP p ++ [rV a, rK 0]
  | .vminImm p _ _ a _ => rP p ++ [rV a, rK 0]
  | .vmaxImm p _ _ a _ => rP p ++ [rV a, rK 0]
  | .vcmpImm p _ _ _ a _ => rP p ++ [rV a, rK 0]
  | .vfaddImm p _ _ a _ => rP p ++ [rV a, rK 0]
  | .vfmulImm p _ _ a _ => rP p ++ [rV a, rK 0]
  | .xvStep _ op w km => [rV op, rV w, rK km, rV (w + 1), rV (w + 2), rV (w + 3), rK 0]
  | .xvRun _ base w km n => [rV base, rV w, rK km, rS n, rV (w + 1), rV (w + 2), rV (w + 3), rK 0]
  | .xvLdk a => [rV a, rK 0]
  | .xvClr km => [rK km, rK 0]
  | .xvPush _ a km => [rV a, rK km, rK 0]
  | .xvPop _ _ km => [rK km, rK 0]
  | .xvDep _ => [rK 0]
  | .xvStat _ => [rK 0]
  | .xvSave c x _ => [rC c, rS x]
  | .xvLoad c x _ => [rC c, rS x]
  | .ld _ _ _ _ c x _ => [rC c] ++ rX x
  | .st _ _ _ d c x _ => [rS d, rC c] ++ rX x
  | .ldc _ _ _ c x _ => [rC c] ++ rX x
  | .stc _ _ d c x _ => [rC d, rC c] ++ rX x
  | .ldV p _ _ c x _ => rP p ++ [rC c] ++ rX x ++ [rK 0]
  | .stV p _ d c x _ => rP p ++ [rV d, rC c] ++ rX x ++ [rK 0]
  | .cpy f xs xd => [rS f.len, rC f.cs, rC f.cd] ++ rT f.cmp ++ [rS xs, rS xd]
  | .cpy2d f xs xd => [rS f.len, rC f.cs, rC f.cd] ++ rT f.cmp ++ [rS xs, rS xd, rS (f.len + 1), rS (f.len + 2), rS (f.len + 3)]
  | .cpyG p f xs xd => rP p ++ [rS f.len, rC f.cs, rC f.cd] ++ rT f.cmp ++ [rV xs, rS xd, rK 0]
  | .cpyS p f xs xd => rP p ++ [rS f.len, rC f.cs, rC f.cd] ++ rT f.cmp ++ [rS xs, rV xd, rK 0]
  | .cpyWait n => [rS n]
  | .qfence _ _ cmp set => [rS set] ++ rT cmp
  | .atm p op _ _ _ d c x a => rP p ++ [rC c] ++ rX x ++ [rSV x a] ++ (if op == .cas then [rSV x d] else []) ++ rXk x
  | .atmBinc p _ _ _ _ c x a => rP p ++ [rC c] ++ rX x ++ [rSV x a] ++ rXk x
  | .atmWinc p _ _ _ _ c x a => rP p ++ [rC c] ++ rX x ++ [rSV x a] ++ rXk x
  | .atmCdec p _ _ _ _ c x => rP p ++ [rC c] ++ rX x ++ rXk x
  | .atmFaddl _ _ _ c x a => [rC c] ++ rX x ++ [rS a]
  | .fat _ _ _ _ c x a => [rC c] ++ rX x ++ [rS a]
  | .redF _ _ i c x a => [rS i, rC c] ++ rX x ++ [rS a]
  | .bbExp _ a => [rS a]
  | .bbWait _ p => [rS p]
  | .mperm _ c x => [rC c, rS x]
  | .mlw c x n => [rC c, rS x, rS n]
  | .mst _ _ c x r => [rC c, rS x, rS r]
  | .mrd _ _ _ row col => [rS row, rS col]
  | .mwr ty _ a row col => [rV a, rS row, rS col] ++ rTwo ty a
  | .mout c x _ r => [rC c, rS x, rS r]
  | .mmaskTree _ p pre col0 => [rV p, rS pre, rS col0]
  | .kvc _ cmp _ stage cache pos accept rowBytes => [rC stage, rC cache, rS pos, rS accept, rS rowBytes] ++ rT cmp
  | .spawn p _ h x c _ _ => rP p ++ [rS h, rS x, rC c, rK 0]
  | .spawnRec x c _ => [rS x, rC c]
  | .tdone p => rP p ++ [rK 0]
  | .targ p _ _ => rP p ++ [rK 0]
  | .launch _ x c _ => [rS x, rC c]
  | .rinv _ _ node handler c _ len _ _ => [rS node, rS handler, rC c, rS len]
  | .tmark _ a => [rS a]
  | .hrdWrite a => [rS a]
  | .hcapWrite a => [rS a]
  | .hexeWrite a => [rS a]
  | _ => []

/-- Registers that an instruction's destination fields name, and the `k0` that an exit changes (03 R55, 02 R33). -/
def namedDst : Instr → List Reg
  | .call a _ => [rS a]
  | .exit _ => [rK 0]
  | .rdsr d _ => [rS d]
  | .rdsrV _ d _ => [rV d]
  | .sysc _ => [rS 1]
  | .sadd d _ _ => [rS d]
  | .ssub d _ _ => [rS d]
  | .smul d _ _ => [rS d]
  | .smulh _ d _ _ => [rS d]
  | .sdiv _ d _ _ => [rS d]
  | .srem _ d _ _ => [rS d]
  | .sand d _ _ => [rS d]
  | .sor d _ _ => [rS d]
  | .sxor d _ _ => [rS d]
  | .sshl d _ _ => [rS d]
  | .sshr d _ _ => [rS d]
  | .ssra d _ _ => [rS d]
  | .smin _ d _ _ => [rS d]
  | .smax _ d _ _ => [rS d]
  | .scmp _ _ d _ _ => [rS d]
  | .ssel d _ _ => [rS d]
  | .smov d _ => [rS d]
  | .sli d _ => [rS d]
  | .slih d _ => [rS d]
  | .sext _ d _ => [rS d]
  | .sbfe _ d _ _ _ => [rS d]
  | .sbfi d _ _ _ => [rS d]
  | .spopc d _ => [rS d]
  | .sclz d _ => [rS d]
  | .kand d _ _ => [rK d]
  | .kor d _ _ => [rK d]
  | .kxor d _ _ => [rK d]
  | .kandn d _ _ => [rK d]
  | .knot d _ => [rK d]
  | .kmov d _ => [rK d]
  | .kmovImm d _ => [rK d]
  | .kmovFromScalar d _ => [rK d]
  | .kmovToScalar d _ => [rS d]
  | .kpopc d _ => [rS d]
  | .kfirst d _ => [rS d]
  | .cset d _ _ => [rC d]
  | .coff d _ _ => [rC d]
  | .cperm d _ _ => [rC d]
  | .cgetBase d _ => [rS d]
  | .cgetLen d _ => [rS d]
  | .cgetGran d _ => [rS d]
  | .cgetSpace d _ => [rS d]
  | .cgetPerm d _ => [rS d]
  | .ctag d _ => [rS d]
  | .cmov d _ => [rC d]
  | .vadd _ _ d _ _ => [rV d]
  | .vsub _ _ d _ _ => [rV d]
  | .vmul _ _ d _ _ => [rV d]
  | .vmulh _ _ d _ _ => [rV d]
  | .vmad _ _ d _ _ _ => [rV d]
  | .vand _ d _ _ => [rV d]
  | .vor _ d _ _ => [rV d]
  | .vxor _ d _ _ => [rV d]
  | .vshl _ _ d _ _ => [rV d]
  | .vshr _ _ d _ _ => [rV d]
  | .vsra _ _ d _ _ => [rV d]
  | .vmin _ _ d _ _ => [rV d]
  | .vmax _ _ d _ _ => [rV d]
  | .vabs _ _ d _ => [rV d]
  | .vneg _ _ d _ => [rV d]
  | .vcmp _ _ _ k _ _ => [rK k]
  | .vsel _ d _ _ _ => [rV d]
  | .vmov _ d _ => [rV d]
  | .vli _ _ d _ => [rV d]
  | .vbcast _ _ d _ => [rV d]
  | .vclz _ _ d _ => [rV d]
  | .vpopc _ _ d _ => [rV d]
  | .vbfe _ _ d _ _ _ => [rV d]
  | .vfadd _ _ d _ _ => [rV d]
  | .vfsub _ _ d _ _ => [rV d]
  | .vfmul _ _ d _ _ => [rV d]
  | .vfma _ _ d _ _ _ => [rV d]
  | .vfmin _ _ d _ _ => [rV d]
  | .vfmax _ _ d _ _ => [rV d]
  | .vfabs _ _ d _ => [rV d]
  | .vfneg _ _ d _ => [rV d]
  | .vfcmp _ _ _ k _ _ => [rK k]
  | .vfcls _ _ d _ => [rV d]
  | .vrcp _ _ d _ => [rV d]
  | .vrsq _ _ d _ => [rV d]
  | .vexp2 _ _ d _ => [rV d]
  | .vlog2 _ _ d _ => [rV d]
  | .vcvt _ _ _ d _ => [rV d]
  | .vpack _ _ _ d _ _ => [rV d]
  | .vunpack _ _ _ d _ _ => [rV d]
  | .vqb _ d _ _ => [rV d]
  | .vdqb _ _ d _ _ => [rV d]
  | .shf _ _ d kf _ _ => rV d :: rKf kf
  | .shfUp _ _ d kf _ _ => rV d :: rKf kf
  | .shfDn _ _ d kf _ _ => rV d :: rKf kf
  | .shfX _ _ d kf _ _ => rV d :: rKf kf
  | .voteAny _ _ d _ => [rS d]
  | .voteAll _ _ d _ => [rS d]
  | .voteBal _ _ d _ => [rS d]
  | .vred _ _ _ _ d _ => [rV d]
  | .vscan _ _ _ _ d _ => [rV d]
  | .vaddImm _ _ d _ _ => [rV d]
  | .vmulImm _ _ d _ _ => [rV d]
  | .vandImm _ d _ _ => [rV d]
  | .vorImm _ d _ _ => [rV d]
  | .vxorImm _ d _ _ => [rV d]
  | .vshlImm _ _ d _ _ => [rV d]
  | .vshrImm _ _ d _ _ => [rV d]
  | .vsraImm _ _ d _ _ => [rV d]
  | .vminImm _ _ d _ _ => [rV d]
  | .vmaxImm _ _ d _ _ => [rV d]
  | .vcmpImm _ _ _ k _ _ => [rK k]
  | .vfaddImm _ _ d _ _ => [rV d]
  | .vfmulImm _ _ d _ _ => [rV d]
  | .xvStep _ _ w _ => [rV w, rV (w + 1), rV (w + 2), rV (w + 3)]
  | .xvRun _ _ w _ _ => [rV w, rV (w + 1), rV (w + 2), rV (w + 3)]
  | .xvPop _ d _ => [rV d]
  | .xvDep d => [rV d]
  | .xvStat d => [rV d]
  | .ld _ _ _ d _ _ _ => [rS d]
  | .ldc _ _ d _ _ _ => [rC d]
  | .ldV _ _ d _ _ _ => [rV d]
  | .cpyCommit d => [rS d]
  | .atm _ _ _ _ _ d _ x _ => [rSV x d]
  | .atmBinc _ _ _ _ d _ x _ => [rSV x d]
  | .atmWinc _ _ _ _ d _ x _ => [rSV x d]
  | .atmCdec _ _ _ _ d _ x => [rSV x d]
  | .atmFaddl _ _ d _ _ _ => [rS d]
  | .fat _ _ _ d _ _ _ => [rS d]
  | .bbArr d _ => [rS d]
  | .bbArrDecl d _ => [rS d]
  | .bbArrLeave d _ => [rS d]
  | .mrd ty d _ _ _ => [rV d] ++ rTwo ty d
  | .batTest d => [rS d]
  | .kvc _ _ count _ _ _ _ _ => [rS count]
  | .spawn _ d _ _ _ _ _ => [rS d]
  | .targ _ d _ => [.v d.toNat]
  | .launch d _ _ _ => [rS d]
  | .rinv _ _ _ _ _ _ _ status _ => [rS status]
  | .rdpc d => [rS d]
  | _ => []
/-- Registers that an instruction writes: a write to `s0` or `c0` is discarded (03 R55, 04 R80, R85). -/
def dstRegs (i : Instr) : List Reg := (namedDst i).filter fun r => r != .s 0 && r != .c 0

/-- The predicate of an instruction that has one (03 R59). -/
def predOf : Instr → Pred
  | .exit p => p
  | .rdsrV p _ _ => p
  | .vadd p _ _ _ _ => p
  | .vsub p _ _ _ _ => p
  | .vmul p _ _ _ _ => p
  | .vmulh p _ _ _ _ => p
  | .vmad p _ _ _ _ _ => p
  | .vand p _ _ _ => p
  | .vor p _ _ _ => p
  | .vxor p _ _ _ => p
  | .vshl p _ _ _ _ => p
  | .vshr p _ _ _ _ => p
  | .vsra p _ _ _ _ => p
  | .vmin p _ _ _ _ => p
  | .vmax p _ _ _ _ => p
  | .vabs p _ _ _ => p
  | .vneg p _ _ _ => p
  | .vcmp p _ _ _ _ _ => p
  | .vsel p _ _ _ _ => p
  | .vmov p _ _ => p
  | .vli p _ _ _ => p
  | .vbcast p _ _ _ => p
  | .vclz p _ _ _ => p
  | .vpopc p _ _ _ => p
  | .vbfe p _ _ _ _ _ => p
  | .vfadd p _ _ _ _ => p
  | .vfsub p _ _ _ _ => p
  | .vfmul p _ _ _ _ => p
  | .vfma p _ _ _ _ _ => p
  | .vfmin p _ _ _ _ => p
  | .vfmax p _ _ _ _ => p
  | .vfabs p _ _ _ => p
  | .vfneg p _ _ _ => p
  | .vfcmp p _ _ _ _ _ => p
  | .vfcls p _ _ _ => p
  | .vrcp p _ _ _ => p
  | .vrsq p _ _ _ => p
  | .vexp2 p _ _ _ => p
  | .vlog2 p _ _ _ => p
  | .vcvt p _ _ _ _ => p
  | .vpack p _ _ _ _ _ => p
  | .vunpack p _ _ _ _ _ => p
  | .vdqb p _ _ _ _ => p
  | .shf p _ _ _ _ _ => p
  | .shfUp p _ _ _ _ _ => p
  | .shfDn p _ _ _ _ _ => p
  | .shfX p _ _ _ _ _ => p
  | .voteAny p _ _ _ => p
  | .voteAll p _ _ _ => p
  | .voteBal p _ _ _ => p
  | .vred p _ _ _ _ _ => p
  | .vscan p _ _ _ _ _ => p
  | .vaddImm p _ _ _ _ => p
  | .vmulImm p _ _ _ _ => p
  | .vandImm p _ _ _ => p
  | .vorImm p _ _ _ => p
  | .vxorImm p _ _ _ => p
  | .vshlImm p _ _ _ _ => p
  | .vshrImm p _ _ _ _ => p
  | .vsraImm p _ _ _ _ => p
  | .vminImm p _ _ _ _ => p
  | .vmaxImm p _ _ _ _ => p
  | .vcmpImm p _ _ _ _ _ => p
  | .vfaddImm p _ _ _ _ => p
  | .vfmulImm p _ _ _ _ => p
  | .ldV p _ _ _ _ _ => p
  | .stV p _ _ _ _ _ => p
  | .cpyG p _ _ _ => p
  | .cpyS p _ _ _ => p
  | .atm p _ _ _ _ _ _ _ _ => p
  | .atmBinc p _ _ _ _ _ _ _ => p
  | .atmWinc p _ _ _ _ _ _ _ => p
  | .atmCdec p _ _ _ _ _ _ => p
  | .spawn p _ _ _ _ _ _ => p
  | .tdone p => p
  | .targ p _ _ => p
  | _ => {}
/-- The lanes of a vector destination that an instruction writes at its issue: those selected, or all of them for a matrix
row's quantisation (05 R121, R129). -/
def dstLanes (x : Slice) : Instr → W32
  | .vqb _ _ _ _ => -1
  | i => x.sel (predOf i)

/-- Per-lane instructions, which a member with an empty `k0` skips (02 R30). -/
def perLane : Instr → Bool
  | .rdsrV _ _ _ => true
  | .vadd _ _ _ _ _ => true
  | .vsub _ _ _ _ _ => true
  | .vmul _ _ _ _ _ => true
  | .vmulh _ _ _ _ _ => true
  | .vmad _ _ _ _ _ _ => true
  | .vand _ _ _ _ => true
  | .vor _ _ _ _ => true
  | .vxor _ _ _ _ => true
  | .vshl _ _ _ _ _ => true
  | .vshr _ _ _ _ _ => true
  | .vsra _ _ _ _ _ => true
  | .vmin _ _ _ _ _ => true
  | .vmax _ _ _ _ _ => true
  | .vabs _ _ _ _ => true
  | .vneg _ _ _ _ => true
  | .vcmp _ _ _ _ _ _ => true
  | .vsel _ _ _ _ _ => true
  | .vmov _ _ _ => true
  | .vli _ _ _ _ => true
  | .vbcast _ _ _ _ => true
  | .vclz _ _ _ _ => true
  | .vpopc _ _ _ _ => true
  | .vbfe _ _ _ _ _ _ => true
  | .vfadd _ _ _ _ _ => true
  | .vfsub _ _ _ _ _ => true
  | .vfmul _ _ _ _ _ => true
  | .vfma _ _ _ _ _ _ => true
  | .vfmin _ _ _ _ _ => true
  | .vfmax _ _ _ _ _ => true
  | .vfabs _ _ _ _ => true
  | .vfneg _ _ _ _ => true
  | .vfcmp _ _ _ _ _ _ => true
  | .vfcls _ _ _ _ => true
  | .vrcp _ _ _ _ => true
  | .vrsq _ _ _ _ => true
  | .vexp2 _ _ _ _ => true
  | .vlog2 _ _ _ _ => true
  | .vcvt _ _ _ _ _ => true
  | .vpack _ _ _ _ _ _ => true
  | .vunpack _ _ _ _ _ _ => true
  | .vqb _ _ _ _ => true
  | .vdqb _ _ _ _ _ => true
  | .shf _ _ _ _ _ _ => true
  | .shfUp _ _ _ _ _ _ => true
  | .shfDn _ _ _ _ _ _ => true
  | .shfX _ _ _ _ _ _ => true
  | .voteAny _ _ _ _ => true
  | .voteAll _ _ _ _ => true
  | .voteBal _ _ _ _ => true
  | .vred _ _ _ _ _ _ => true
  | .vscan _ _ _ _ _ _ => true
  | .vaddImm _ _ _ _ _ => true
  | .vmulImm _ _ _ _ _ => true
  | .vandImm _ _ _ _ => true
  | .vorImm _ _ _ _ => true
  | .vxorImm _ _ _ _ => true
  | .vshlImm _ _ _ _ _ => true
  | .vshrImm _ _ _ _ _ => true
  | .vsraImm _ _ _ _ _ => true
  | .vminImm _ _ _ _ _ => true
  | .vmaxImm _ _ _ _ _ => true
  | .vcmpImm _ _ _ _ _ _ => true
  | .vfaddImm _ _ _ _ _ => true
  | .vfmulImm _ _ _ _ _ => true
  | .xvStep _ _ _ _ => true
  | .xvRun _ _ _ _ _ => true
  | .xvLdk _ => true
  | .xvClr _ => true
  | .xvPush _ _ _ => true
  | .xvPop _ _ _ => true
  | .xvDep _ => true
  | .xvStat _ => true
  | .ldV _ _ _ _ _ _ => true
  | .stV _ _ _ _ _ _ => true
  | .cpyG _ _ _ _ => true
  | .cpyS _ _ _ _ => true
  | .targ _ _ _ => true
  | .atm _ _ _ _ _ _ _ x _ => x.isVector
  | .atmBinc _ _ _ _ _ _ x _ => x.isVector
  | .atmWinc _ _ _ _ _ _ x _ => x.isVector
  | .atmCdec _ _ _ _ _ _ x => x.isVector
  | _ => false

/-- Fixed latency in cycles; none for a variable-latency result (03 R57). -/
def latency : Instr → Option Nat
  | .rdsrV _ _ _ => some 2
  | .targ _ _ _ => some 2
  | .smul _ _ _ => some 4
  | .smulh _ _ _ _ => some 4
  | .sdiv _ _ _ _ => some 12
  | .srem _ _ _ _ => some 12
  | .vmul _ _ _ _ _ => some 6
  | .vmulImm _ _ _ _ _ => some 6
  | .vmulh _ _ _ _ _ => some 6
  | .vmad _ _ _ _ _ _ => some 6
  | .vfadd _ _ _ _ _ => some 6
  | .vfsub _ _ _ _ _ => some 6
  | .vfmul _ _ _ _ _ => some 6
  | .vfaddImm _ _ _ _ _ => some 6
  | .vfmulImm _ _ _ _ _ => some 6
  | .vfma _ _ _ _ _ _ => some 6
  | .vfmin _ _ _ _ _ => some 6
  | .vfmax _ _ _ _ _ => some 6
  | .vfcmp _ _ _ _ _ _ => some 6
  | .vfcls _ _ _ _ => some 6
  | .vcvt _ _ _ _ _ => some 6
  | .vpack _ _ _ _ _ _ => some 6
  | .vunpack _ _ _ _ _ _ => some 6
  | .shf _ _ _ _ _ _ => some 8
  | .shfUp _ _ _ _ _ _ => some 8
  | .shfDn _ _ _ _ _ _ => some 8
  | .shfX _ _ _ _ _ _ => some 8
  | .voteAny _ _ _ _ => some 8
  | .voteAll _ _ _ _ => some 8
  | .voteBal _ _ _ _ => some 8
  | .vrcp _ _ _ _ => some 12
  | .vrsq _ _ _ _ => some 12
  | .vexp2 _ _ _ _ => some 12
  | .vlog2 _ _ _ _ => some 12
  | .vqb _ _ _ _ => some 12
  | .vdqb _ _ _ _ _ => some 12
  | .vred _ _ _ _ _ _ => some 16
  | .vscan _ _ _ _ _ _ => some 16
  | .ld _ _ _ _ _ _ _ => none
  | .ldc _ _ _ _ _ _ => none
  | .ldV _ _ _ _ _ _ => none
  | .atm _ _ _ _ _ _ _ _ _ => none
  | .atmBinc _ _ _ _ _ _ _ _ => none
  | .atmWinc _ _ _ _ _ _ _ _ => none
  | .atmCdec _ _ _ _ _ _ _ => none
  | .atmFaddl _ _ _ _ _ _ => none
  | .fat _ _ _ _ _ _ _ => none
  | .xvStep _ _ _ _ => none
  | .xvRun _ _ _ _ _ => none
  | .xvPop _ _ _ => none
  | .xvDep _ => none
  | .xvStat _ => none
  | .mrd _ _ _ _ _ => none
  | .rinv _ _ _ _ _ _ _ _ _ => none
  | .spawn _ _ _ _ _ _ _ => none
  | .launch _ _ _ _ => none
  | .sysc _ => none
  | i => if perLane i then some 4 else some 2

/-- Vector registers that an instruction names, the opcode registers of a run among them (08 R157). -/
def vregsOf (x : Slice) (i : Instr) : List Nat :=
  let f := fun r => match r with | Reg.v n => some n | _ => none
  let base := (srcRegs i ++ dstRegs i).filterMap f
  match i with
  | .xvRun _ b w _ n =>
    [w.toNat, w.toNat + 1, w.toNat + 2, w.toNat + 3] ++
      (if (x.rs n).toNat = 0 then [] else if x.allot < b.toNat + (x.rs n).toNat then [max x.allot b.toNat] else [b.toNat])
  | _ => base

/-- The lowest register at or above the allotment (02 R39). -/
def unallotted (x : Slice) (i : Instr) : Option Nat :=
  ((vregsOf x i).filter fun n => decide (x.allot ≤ n)).foldl (fun b n => match b with
    | none => some n
    | some m => some (min m n)) none

/-- Registers with an outstanding variable-latency write (03 R54, R55). -/
def pendingRegs (s : State) (x : Slice) : List Reg :=
  x.land.flatMap (fun l => match l with
    | .s r _ => [rS r]
    | .c r _ => [rC r]
    | .v r _ _ => [rV r]) ++
  x.xv.queue.flatMap (fun o => match o.kind with
    | .step => [rV o.w, rV (o.w + 1), rV (o.w + 2), rV (o.w + 3)]
    | .run => [rV o.w, rV (o.w + 1), rV (o.w + 2), rV (o.w + 3)]
    | .pop => [rV o.w]
    | _ => []) ++
  s.cmds.filterMap (fun c => if c.kind == 6 && c.slice == x.id && c.dreg != 0 then some (rS c.dreg) else none) ++
  s.awaits.filterMap (fun a => if decide (a.kind < 2) && a.slice == x.id && a.reg != 0 then some (rS a.reg) else none) ++
  (s.units.flatMap PUnit.mq).flatMap (fun m => match m.i with
    | .mrd ty d _ _ _ => if m.slice == x.id then rV d :: rTwo ty d else []
    | _ => [])

/-- Class and number of a register, as `recent` records it. -/
def Reg.key : Reg → Nat × Nat
  | .s n => (0, n)
  | .v n => (1, n)
  | .k n => (2, n)
  | .c n => (3, n)

/-- A fixed-latency write of a register is still on its way at the slice's turn (03 R56, R57). -/
def onWay (s : State) (x : Slice) (r : Reg) : Bool := x.recent.any fun e => (e.cls, e.num) == r.key && decide (s.turn x < e.due)
/-- A per-lane word has no effect in a member whose `k0` is empty (02 R30). -/
def skips (x : Slice) (i : Instr) : Bool := perLane i && x.rk 0 == 0
/-- The source that a member supplies to others also where its `k0` is empty (05 R123). -/
def suppliedSrc : Instr → List Reg
  | .shf _ _ _ _ a _ => [rV a]
  | .shfUp _ _ _ _ a _ => [rV a]
  | .shfDn _ _ _ _ a _ => [rV a]
  | .shfX _ _ _ _ a _ => [rV a]
  | _ => []
/-- Matrix instructions that are performed once for a gang, on operands of its slice 0 alone (15 R254). -/
def onceOnly : Instr → Bool
  | .mlw _ _ _ => true
  | .mst _ _ _ _ _ => true
  | .mout _ _ _ _ => true
  | .mperm _ _ _ => true
  | .mmaskTree _ _ _ _ => true
  | _ => false
/-- Registers that an instruction reads in a member, the opcode registers of a run among them (03 R54, 08 R157). In a member
that it skips it reads the `k0` that says so, and what other members read there (log 111). -/
def srcsOf (x : Slice) (i : Instr) : List Reg :=
  if skips x i then rK 0 :: suppliedSrc i
  else if onceOnly i && x.idx != 0 then []
  else match i with
  | .xvRun _ b _ _ n => srcRegs i ++ (List.range (min (x.rs n).toNat 256)).map fun j => .v (b.toNat + j)
  | i => srcRegs i

/-- Fixed-latency sources whose value is not yet available (03 R56). -/
def shortFixed (s : State) (x : Slice) (i : Instr) : List Nat :=
  (srcsOf x i).filterMap fun r => if onWay s x r then some r.key.2 else none
/-- Sources with an outstanding variable-latency write. -/
def shortVar (s : State) (x : Slice) (i : Instr) : List Nat :=
  (srcsOf x i).filterMap fun r => if (pendingRegs s x).contains r then some r.key.2 else none

/-- STALLSHORT of a native word under the checking scoreboard (03 R56). -/
def stallShort (s : State) (x : Slice) (i : Instr) : Option TrapInfo :=
  if s.word.toNat % 4 = 1 && (s.ctxOf x).csb && x.interlock == 0 then
    match shortFixed s x i with
    | n :: _ => some (trapAt s x tSTALLSHORT 1 (BitVec.ofNat 64 n))
    | [] =>
      if s.word.getLsbD 7 then none
      else match shortVar s x i with
        | n :: _ => some (trapAt s x tSTALLSHORT 2 (BitVec.ofNat 64 n))
        | [] => none
  else none

/-- Handler register numbers, with their access: read, write (13 R232). -/
def handlerReg (n : Nat) : Bool × Bool :=
  if 0x100 ≤ n && n ≤ 0x107 then (true, false)
  else match n with
    | 0x110 => (true, true)
    | 0x111 => (true, false)
    | 0x112 => (true, true)
    | 0x113 => (true, true)
    | 0x114 => (true, true)
    | 0x115 => (true, true)
    | 0x116 => (true, true)
    | 0x117 => (true, true)
    | 0x118 => (true, false)
    | 0x119 => (true, false)
    | _ => (false, false)

/-- PRIV of a handler register number outside the handler, ILLOP of an undefined use inside it (04 R96, 13 R232). -/
def handlerTrap (s : State) (x : Slice) (n : Nat) (write : Bool) : Option TrapInfo :=
  if !x.handler then some (trapAt s x tPRIV 2 (BitVec.ofNat 64 n))
  else if (if write then (handlerReg n).2 else (handlerReg n).1) then none
  else some (trapAt s x tILLOP 5 0)

/-- PRIV of a die copy queue that the context is not granted (11 R193). -/
def queueTrap (s : State) (x : Slice) (q : BitVec 6) : Option TrapInfo :=
  if 32 ≤ q.toNat && !(BitVec.ofNat 32 (s.ctxOf x).dqg).getLsbD (q.toNat - 32) then
    some (trapAt s x tPRIV 3 (BitVec.ofNat 64 (q.toNat - 32)))
  else none

/-- The privilege checks of an instruction (13 R227, R228). -/
def privTrap (s : State) (x : Slice) (i : Instr) : Option TrapInfo :=
  match i with
  | .tret => if x.handler then none else some (trapAt s x tPRIV 1 0)
  | .rdsr _ n => if inHandlerRange n.toNat then handlerTrap s x n.toNat false else none
  | .rdsrV _ _ n => if inHandlerRange n.toNat then handlerTrap s x n.toNat false else none
  | .wrsr n _ => handlerTrap s x n.toNat true
  | .hrdWrite _ => handlerTrap s x 0x115 true
  | .hcapWrite _ => handlerTrap s x 0x116 true
  | .hexeWrite _ => handlerTrap s x 0x117 true
  | .hctlHold => handlerTrap s x 0x113 true
  | .hctlMark => handlerTrap s x 0x113 true
  | .hctlUnmark => handlerTrap s x 0x113 true
  | .hctlKill => handlerTrap s x 0x113 true
  | .cpy f _ _ => queueTrap s x f.q
  | .cpy2d f _ _ => queueTrap s x f.q
  | .cpyG _ f _ _ => queueTrap s x f.q
  | .cpyS _ f _ _ => queueTrap s x f.q
  | .qfence q _ _ _ => queueTrap s x q
  | _ => none

/-- ILLOP of a handler register number that is not defined, in a word that acts lane by lane (04 R96). -/
def illNumber (s : State) (x : Slice) (i : Instr) : Option TrapInfo :=
  match i with
  | .rdsrV _ _ n => if x.handler && inHandlerRange n.toNat then handlerTrap s x n.toNat false else none
  | _ => none

/-- An instruction that holds was checked when it first issued; a slice that yielded goes on to its next one. -/
def reissued (x : Slice) : Bool :=
  match x.run with
  | .waiting (.yield _) => false
  | .waiting _ => true
  | _ => false

/-- The traps of a member that precede the instruction's own checks: PRIV, ALLOCX, STALLSHORT (13 R228). Where a per-lane word
has no effect, it traps by an illegal register number and by a source read too early alone (02 R30, 03 R77; logs 88, 111). -/
def issueTrap (i : Instr) (s : State) (x : Slice) : Option TrapInfo :=
  if reissued x then none
  else if skips x i then (illNumber s x i).or (stallShort s x i)
  else match privTrap s x i with
    | some t => some t
    | none =>
      match unallotted x i with
      | some n => some (trapAt s x tALLOCX 2 (BitVec.ofNat 64 n))
      | none => stallShort s x i

/-- Issues an instruction: members with a trap take it, then the others run (13 R228, R242). -/
def issue (i : Instr) (s : State) (run : State → State) : State := run (s.trapMembers (issueTrap i s))

/-- An instruction that acts on each member's own registers and goes on to the next word (04, 05). -/
def regOp (i : Instr) (f : Slice → Slice) (s : State) : Result :=
  .next (issue i s fun s => s.mapGroup fun x => advance (f x))

/-- As `regOp`, for an instruction that also reads what the issue shows of the whole state. -/
def regOpS (i : Instr) (f : State → Slice → Slice) (s : State) : Result :=
  .next (issue i s fun s => s.mapGroup fun x => advance (f s x))

/-- An instruction whose member may trap on its own checks, before any effect in it. -/
def trapOp (i : Instr) (g : State → Slice → Option TrapInfo) (run : State → State) (s : State) : Result :=
  .next (issue i s fun s => run (s.trapMembers (g s)))

/-- An instruction performed member by member in ascending slice order (02 R30): each member sees the state the
members before it left. -/
def seqOp (s : State) (f : State → Slice → State) : State :=
  s.group.foldl (fun (s : State) id => f s (s.slice id)) s

/-! ### Sources read too early (03 R56) -/

/-- A word's registers are interlocked: portable and FN7 words, and the first eight after a resumption (02 R51). -/
def interlocked (w : W64) (x : Slice) : Bool := w.toNat % 4 != 1 || x.interlock != 0

/-- The whole value of a register. -/
def regVals (x : Slice) : Reg → List W64
  | .s n => [x.rs (BitVec.ofNat 6 n)]
  | .v n => (x.rvAll (BitVec.ofNat 8 n)).map fun v => v.setWidth 64
  | .k n => [(x.rk (BitVec.ofNat 3 n)).setWidth 64]
  | .c n => let c := x.rc (BitVec.ofNat 4 n); [c.bits.setWidth 64, (c.bits >>> 64).setWidth 64, b2w c.tag]
def putReg (x : Slice) (vs : List W64) : Reg → Slice
  | .s n => x.ws (BitVec.ofNat 6 n) (vs.getD 0 0)
  | .v n => x.wv (BitVec.ofNat 8 n) (-1) fun l => (vs.getD l 0).setWidth 32
  | .k n => { x with k := x.k.set n ((vs.getD 0 0).setWidth 32) }
  | .c n => x.wc (BitVec.ofNat 4 n) { bits := vs.getD 1 0 ++ vs.getD 0 0, tag := vs.getD 2 0 != 0 }
/-- A source read at its earlier value: member, register, that value and the new one. -/
structure Stale where
  id : Nat := 0
  reg : Reg := .s 0
  old : List W64 := []
  new : List W64 := []
  deriving DecidableEq, Repr
/-- The landing results of a register. -/
def landsOn (r : Reg) : Landing → Bool
  | .s a _ => rS a == r
  | .c a _ => rC a == r
  | .v a _ _ => rV a == r
/-- Lands what a slice awaits in a register. -/
def landReg (x : Slice) (r : Reg) : Slice :=
  (x.land.filter (landsOn r)).foldl landOne { x with land := x.land.filter fun l => !landsOn r l }
/-- Chooses, for each source that is not available, whether it reads its value before or after the earlier write. -/
def staleOne (w : W64) (id : Nat) (p : State × List Stale) (r : Reg) : State × List Stale :=
  let (s, l) := p
  let x := s.slice id
  match x.recent.find? fun e => (e.cls, e.num) == r.key && decide (s.turn x < e.due) with
  | some e =>
    let (b, s) := s.freeBit
    if b then (s.updSlice id fun y => putReg y e.old r, l ++ [{ id := id, reg := r, old := e.old, new := regVals x r }]) else (s, l)
  | none =>
    if !w.getLsbD 7 && x.land.any (landsOn r) then
      let (b, s) := s.freeBit
      if b then (s.updSlice id fun y => landReg y r, l) else (s, l)
    else (s, l)
/-- The choices for the sources of a word that satisfy `f`, in every member whose word neither waits nor traps for them. -/
def staleReads (f : Reg → Bool) (ids : List Nat) (i : Instr) (w : W64) (p : State × List Stale) : State × List Stale :=
  ids.foldl (fun p id =>
    let x := p.1.slice id
    if reissued x || interlocked w x || (p.1.ctxOf x).csb then p else ((srcsOf x i).eraseDups.filter f).foldl (staleOne w id) p) p
/-- The sources read too early stand at their later value again. -/
def refreshed (s : State) (l : List Stale) : State := l.foldl (fun (s : State) z => s.updSlice z.id fun y => putReg y z.new z.reg) s
/-- The instruction has written its destination register in a member: its latency is fixed and it neither trapped nor holds. -/
def wrote (i : Instr) (y : Slice) (r : Reg) : Bool :=
  (dstRegs i).contains r && (latency i).isSome && match y.run with
    | .ready => true
    | _ => false
/-- The later value of a register stands again, except where the instruction has written it; `s` is the state it issued in. -/
def unstale (i : Instr) (s t : State) (l : List Stale) : State :=
  l.foldl (fun (t : State) z => t.updSlice z.id fun y =>
    if !wrote i y z.reg then putReg y z.new z.reg
    else match z.reg with
    | .v _ =>
      let cur := regVals y z.reg
      let m := dstLanes (s.slice z.id) i
      putReg y ((List.range 32).map fun n => if m.getLsbD n then cur.getD n 0 else z.new.getD n 0) z.reg
    | _ => y) t

end Sys2Proof.Machine
end

