-- ==== Sys2Proof/Machine/TaskOps.lean ====
section
/-! DEFINITION. Task records, pushes into stalls and the retirement of tasks (17 R278-R284). -/
namespace Sys2Proof.Machine

/-- Fields of a task record's header (17 R278). -/
def recLen (r : List Byte) : Nat := leNat r % 256
def recNsucc (r : List Byte) : Nat := bitsOf (leNat r) 8 3
def recCls (r : List Byte) : Nat := bitsOf (leNat r) 11 2
def recNote (r : List Byte) : Bool := bitsOf (leNat r) 13 1 == 1
def recDep (r : List Byte) : Nat := bitsOf (leNat r) 32 32
def recHnd (r : List Byte) : Nat := bitsOf (leNat (r.take 16)) 64 8
/-- The header of a record (17 R278). -/
def recHeader (len nsucc cls : Nat) (note : Bool) (dep hnd : Nat) : List Byte :=
  leBytes 16 (len + 2 ^ 8 * nsucc + 2 ^ 11 * cls + 2 ^ 13 * b2n note + 2 ^ 32 * dep + 2 ^ 64 * hnd)
/-- Payload and successor handles of a record. -/
def recPayload (r : List Byte) : List Byte := (r.drop 16).take (16 * recLen r - 16 - 8 * recNsucc r)
def recSuccs (r : List Byte) : List Nat :=
  (List.range (recNsucc r)).map fun i => leNat ((r.drop (16 * recLen r - 8 * recNsucc r + 8 * i)).take 8)
/-- A record that may be pushed (17 R280). -/
def recValid (c : Ctx) (r : List Byte) : Bool :=
  let h := leNat (r.take 16)
  bitsOf h 14 18 == 0 && bitsOf h 72 56 == 0 && decide (2 ≤ recLen r) && decide (recLen r ≤ 16) &&
    decide (16 + 8 * recNsucc r ≤ 16 * recLen r) && (c.handler (recHnd r)).valid

/-- Paddocks of a core that a virtual device owns (18 R313). -/
def ownedPdks (s : State) (core vd : Nat) : Nat := (s.pdks.filter fun p => p.id / 4 == core && p.vdev == some vd).length
/-- Stalls of a core that contexts of a virtual device use. -/
def stallsUsed (s : State) (core vd : Nat) : Nat :=
  (s.stalls.filter fun y => y.id / 16 == core && y.state != 0 && (s.ctx (core / 48 * 64 + y.ctx)).vdev == vd).length

/-- The stall of a core that a push of a key could take: the Filling stall of the key, else the lowest Free stall
that the device's share allows (17 R283, 18 R313). `k` is the context's key on its die. -/
def stallFree (s : State) (core k hnd cls : Nat) : Option Nat :=
  let e := ((s.ctx k).handler hnd).entry
  match s.stalls.find? fun y => y.id / 16 == core && y.state == 1 && y.ctx == k % 64 && y.entry == e && y.cls == cls with
  | some y => some y.id
  | none =>
    if stallsUsed s core (s.ctx k).vdev < 4 * ownedPdks s core (s.ctx k).vdev then
      ((List.range 16).map fun n => core * 16 + n).find? fun i => (s.stall i).state == 0
    else none
/-- A record of the push buffer has a key. -/
def bufferedKey (s : State) (core k hnd cls : Nat) (r : PushRec) : Bool :=
  r.core == core && r.ctx == k && ((s.ctx k).handler (recHnd r.bytes)).entry == ((s.ctx k).handler hnd).entry && recCls r.bytes == cls
/-- The stall that takes a push of a key now: none before the buffered pushes of that key, which came earlier (17 R283). -/
def stallFor (s : State) (core k hnd cls : Nat) : Option Nat :=
  if s.pushbuf.any (bufferedKey s core k hnd cls) then none else stallFree s core k hnd cls

/-- The context has something for its die's controller (18 R317). -/
def State.kick (s : State) (k source : Nat) : State :=
  s.updDie (k / 64) fun d => if d.kicks.contains (k, source) then d else { d with kicks := d.kicks ++ [(k, source)] }
/-- A task enters a stall (17 R282). -/
def enterStall (s : State) (core k hnd cls : Nat) (t : Task) (id : Nat) : State :=
  let h := (s.ctx k).handler hnd
  let s : State := s.updStall id fun y =>
    if y.state = 0 then
      { id := id, state := if h.fill ≤ 1 then 2 else 1, ctx := k % 64, hnd := hnd, cls := cls, entry := h.entry
        fill := h.fill, timer := h.timer, started := s.clk (core / 48), readyAt := s.clk (core / 48), tasks := [t] }
    else
      { y with tasks := y.tasks ++ [t]
               state := if y.fill ≤ y.tasks.length + 1 then 2 else 1
               readyAt := if y.fill ≤ y.tasks.length + 1 then s.clk (core / 48) else y.readyAt }
  let s : State := if (s.stall id).state = 2 then s.kick k 2 else s
  wakeIdle s fun x => x.die * 48 + x.core == core
/-- One task pushed to a core, if a stall takes it (17 R282, R283). -/
def pushTask (s : State) (core k hnd cls : Nat) (t : Task) : Option State := (stallFor s core k hnd cls).map (enterStall s core k hnd cls t)

/-- A task error on the completion channel (17 R293). -/
def taskError (s : State) (k kind blk : Nat) : State := s.complete k 0 6 kind 0 blk

/-- A record delivered to a core: dropped and reported when invalid; none when it must wait (17 R280, R283). -/
def pushRec (s : State) (core k : Nat) (r : List Byte) (blk : Nat) : Option State :=
  if recValid (s.ctx k) r then pushTask s core k (recHnd r) (recCls r) { bytes := r }
  else some (taskError (s.updCtx k fun c => { c with invalid := c.invalid + 1 }) k 1 blk)

/-- Commands of a slice that have not completed. -/
def openCmds (s : State) (slice : Nat) : List Nat :=
  (s.cmds.filter fun c => c.slice == slice && c.stage != 3).map Command.id

/-- Retirement of the tasks of a slice's lanes: each waits in its own record for the accesses before it (17 R284); a handler
slice's lanes are of no wave. -/
def laneRetire (s : State) (x : Slice) (m : W32) : State :=
  let b := s.block x.block
  let open' := openCmds s x.id
  if x.handler then s
  else (b.wave.filter fun t => m.getLsbD t.lane && !t.done).foldl (fun (s : State) t =>
    let (i, s) := s.fresh
    let s : State := s.updBlock x.block fun b =>
      { b with wave := b.wave.map fun u => if u.lane == t.lane then { u with done := true } else u }
    { s with retiring := s.retiring ++ [{ id := i, slice := x.id, block := x.block, ctx := x.ck, core := x.die * 48 + x.core
                                          cmds := open', task := t.task, lane := t.lane, ackOk := !t.answered }] }) s

end Sys2Proof.Machine
end

