-- ==== Sys2Proof/Machine/Ready.lean ====
section
/-! DEFINITION. When a slice may issue, and the issue groups that the gang scheduler forms (02 R25-R37). -/
namespace Sys2Proof.Machine

/-- A batch number not above another, modulo 2^16 (11 R197). -/
def batchLe (b n : W16) : Bool := decide ((n - b).toNat < 2 ^ 15)

/-- The unfinished commands that a wait waits for (11 R197, R200, R204). -/
def blockers (s : State) (x : Slice) : Wait → List Command
  | .copy n => s.cmds.filter fun c => c.slice == x.id && c.stage != 3 && c.committed && batchLe c.batch n
  | .cmds ids => s.cmds.filter fun c => c.stage != 3 && ids.contains c.id
  | _ => []

/-- Unfinished batches of a slice (11 R196). -/
def openBatches (s : State) (x : Slice) : Nat :=
  ((s.cmds.filter fun c => c.slice == x.id && c.stage != 3 && c.committed).map Command.batch).eraseDups.length

/-- The oldest unfinished batch of a slice, counting back from its batch counter modulo 2^16 (11 R196). -/
def oldestBatch (s : State) (x : Slice) : Option W16 :=
  ((s.cmds.filter fun c => c.slice == x.id && c.stage != 3 && c.committed).map Command.batch).foldl (fun (b : Option W16) n => match b with
    | none => some n
    | some m => if (x.batch - m).toNat < (x.batch - n).toNat then some n else b) none
/-- A batch of a slice has an unfinished command. -/
def batchOpen (s : State) (slice : Nat) (b : W16) : Bool := s.cmds.any fun c => c.slice == slice && c.stage != 3 && c.committed && c.batch == b

/-- Invokes of a slice that await an answer (16 R275). -/
def openInvokes (s : State) (x : Slice) : Nat := (s.awaits.filter fun a => decide (a.kind < 2) && a.slice == x.id).length

/-- The paddock's issuing slot is the slice's context (18 R304). -/
def slotIssues (s : State) (x : Slice) : Bool :=
  let p := s.pdk x.pk
  (if p.issuing = 0 then p.slot0 else p.slot1) == some x.ctx

/-- A service of the block is in progress. -/
def blockService (s : State) (b : Nat) : Bool := s.units.any fun u => match u.service with | some t => t.block == b | none => false
/-- The gang has reached its save point (18 R306). -/
def gangFrozen (b : Block) (gid : Nat) : Bool := b.frozen.any fun p => p.1 == gid
/-- The slice's block runs and its gang is not being saved, or its handler is serving a trap and waits for no proxy
word (13 R236, 18 R306, 22 R354). -/
def blockIssues (s : State) (x : Slice) : Bool :=
  let b := s.block x.block
  if x.handler then (s.punit x.uk).service.isSome && (s.punit x.uk).proxy.isNone
  else b.run == .running && !b.hold && !gangFrozen b x.gid && (b.stop.isNone || !x.pushes.isEmpty)

/-- Every condition but its own wait under which a slice is ready to issue (02 R25); STALL and the scoreboard hold the whole
group (03 R54, R55). -/
def mayIssue (s : State) (x : Slice) : Bool :=
  x.alive != 0 && x.steps != some 0 && slotIssues s x && blockIssues s x && (s.ctxOf x).killing == 0

/-- Every alive slice of the gang holds at the `gjoin` at which this slice holds (02 R29). -/
def joined (s : State) (x : Slice) : Bool :=
  (s.gang x).all fun y => !y.isAlive || (y.run == .waiting .gjoin && y.pc == x.pc)

/-- Instructions in a matrix queue, which holds 16 (15 R250, R255). -/
def mqLen (u : PUnit) : Nat := (u.mq.filter fun m => !m.part).length
def matrixDepth : Nat := 16

/-- The condition of a wait; a wait that an event ends by itself is never met here (02 R36). -/
def waitMet (s : State) (x : Slice) : Wait → Bool
  | .copy n => (blockers s x (.copy n)).isEmpty
  | .cmds ids => (blockers s x (.cmds ids)).isEmpty
  | .bar b p => (s.bar b).phase != p
  | .barAgain b p => (s.bar b).phase != p
  | .bb k p => (s.bb k).phase != p
  | .bbAgain k p => (s.bb k).phase != p
  | .baton u => (s.punit u).holder == some (x.block, x.gid)
  | .answer tag => !(s.awaits.any fun a => decide (a.kind < 2) && a.tag == tag)
  | .gjoin => joined s x
  | .idle due => due == 0
  | .room =>
    match x.pushes with
    | (h, c, _) :: _ => (stallFor s (x.die * 48 + x.core) x.ck h c).isSome
    | [] => decide (openInvokes s x < 16)
  | .mroom u => decide (mqLen (s.punit u) < matrixDepth)
  | .xv => x.xv.queue.isEmpty
  | .xvDone => x.xv.queue.isEmpty
  | .batches b => b.all fun b => !batchOpen s x.id b
  | .sysc _ => false
  | .answered => true
  | .alloc _ => false
  | .yield _ => false

/-- Ready to issue, but for a `yield` (02 R25, 21 R336). -/
def readyBase (s : State) (x : Slice) : Bool :=
  x.pagex.isEmpty && mayIssue s x && lagRoom x &&
    match x.run with
    | .ready => true
    | .waiting (.yield _) => true
    | .waiting w => waitMet s x w
    | _ => false

/-- Ready to issue: a slice that yielded waits for the slices that were ready then (04 R95). -/
def readyNow (s : State) (x : Slice) : Bool :=
  readyBase s x &&
    match x.run with
    | .waiting (.yield o) => o.all fun i => !readyBase s (s.slice i)
    | _ => true

/-- Equal loop levels (02 R26). -/
def loopEq (a b : Loop) : Bool := if a.active then a == b else !b.active
/-- Equal region markers (02 R26). -/
def regionEq (a b : Option Region) : Bool :=
  match a, b with
  | none, none => true
  | some p, some q => p.entry == q.entry && p.sMask == q.sMask && p.vMask == q.vMask
  | _, _ => false
/-- Equal in everything but the program counter that R25 compares. -/
def sameState (x y : Slice) : Bool := x.fr == y.fr && loopEq x.lc0 y.lc0 && loopEq x.lc1 y.lc1 && regionEq x.region y.region

/-- Holding in a wait that the slice issues again. -/
def holdsWait (x : Slice) : Bool :=
  match x.run with
  | .waiting (.yield _) => false
  | .waiting _ => true
  | _ => false

/-- Identities of slices in ascending slice order. -/
def ascending (l : List Slice) : List Nat := ((List.range 4).flatMap fun i => l.filter fun y => y.idx == i).map Slice.id

/-- The issue group of a slice (02 R25, R36): the ready slices of its gang in equal states at its program
counter; for a holding slice, the members of its waiting group, once all of them are ready. -/
def formGroup (s : State) (x : Slice) : List Nat :=
  if x.handler then (if readyNow s x then [x.id] else [])
  else if holdsWait x then
    let g := (s.gang x).filter fun y => holdsWait y && y.gm == x.gm && y.pc == x.pc
    if g.all (readyNow s) then ascending g else []
  else if readyNow s x then
    ascending ((s.gang x).filter fun y => readyNow s y && !holdsWait y && y.pc == x.pc && sameState x y)
  else []

/-- Recomputes membership at an issue (02 R27, R32-R34): a merge is a membership event of the slices that gain
members, a split retires the exited slices of the group that split. -/
def regroup (s : State) (ids : List Nat) : State :=
  match ids with
  | [] => s
  | i :: _ =>
    let x := s.slice i
    let mem := ids.map s.slice
    let mask := maskBits mem
    let olds := mem.foldl (fun m y => m ||| y.gm) 0
    let lives := maskBits ((s.gang x).filter Slice.isAlive)
    let gains : Bool := mem.any fun y => mask &&& ~~~y.gm != 0
    let loses : Bool := olds &&& lives &&& ~~~mask != 0
    if x.handler || (!gains && !loses) then s
    else
      let s : State := retireExited ((s.count x.ck 3 (b2n loses)).count x.ck 4 (b2n gains)) x olds
      s.mapSlices fun y =>
        if ids.contains y.id then { y with gm := mask, exited := if mask &&& ~~~y.gm != 0 then 0 else y.exited }
        else if y.block == x.block && y.gid == x.gid && !y.handler && y.gm &&& mask != 0 then
          { y with gm := y.gm &&& lives &&& ~~~mask }
        else y

/-! ### Parking (02 R36, 13 R240) -/

/-- A command that the wait needs is parked; one that is being tried again still is (09 R171). -/
def parkedBlocker (s : State) (x : Slice) (w : Wait) : Bool := (blockers s x w).any Command.parked
/-- Parks the slices whose wait needs a parked command, each leaving its group, and ends the parking of those
whose commands have completed (02 R36, 09 R171). -/
def settle (s : State) : State :=
  s.slices.foldl (fun (s : State) y =>
    let x := s.slice y.id
    match x.run with
    | .waiting w => if parkedBlocker s x w then (leaveGroup s x).updSlice x.id fun z => { z with run := .parked w } else s
    | .parked w => if parkedBlocker s x w then s else s.updSlice x.id fun z => { z with run := .waiting w }
    | _ => s) s

end Sys2Proof.Machine
end

