-- ==== Sys2Proof/Machine/Control.lean ====
section
/-! DEFINITION. Control, loops, regions, exit, format, allotment and system instructions (04 R88-R103). -/
namespace Sys2Proof.Machine

/-! ### Branches (04 R88, R89) -/

/-- The trap of a taken transfer to `t` (04 R89). -/
def targetTrap (s : State) (x : Slice) (t : Addr) : Option TrapInfo :=
  if !inCode (s.ctxOf x) t then some (trapAt s x tCAPBND 3 t)
  else if t.toNat % 8 != 0 then some (trapAt s x tALIGN 3 t)
  else none

/-- Each member resolves the branch from its own registers (04 R88). -/
def branchOp (i : Instr) (taken : Slice → Bool) (tgt : Slice → Addr) (link : Slice → Slice) (s : State) : Result :=
  trapOp i (fun s x => if taken x then targetTrap s x (tgt x) else none)
    (fun s => s.mapGroup fun x => if taken x then { link x with pc := tgt x } else advance x) s

def execBr (c : Cond) (a b : SReg) (off : BitVec 26) (s : State) : Result :=
  branchOp (.br c a b off) (fun x => condS c false (x.rs a) (x.rs b)) (target · off) id s
def execBrS (c : Cond) (a b : SReg) (off : BitVec 26) (s : State) : Result :=
  branchOp (.brS c a b off) (fun x => condS c true (x.rs a) (x.rs b)) (target · off) id s
def execBrKz (a : KReg) (off : BitVec 26) (s : State) : Result :=
  branchOp (.brKz a off) (fun x => x.rk a &&& x.alive == 0) (target · off) id s
def execBrKnz (a : KReg) (off : BitVec 26) (s : State) : Result :=
  branchOp (.brKnz a off) (fun x => x.rk a &&& x.alive != 0) (target · off) id s
def execBrKf (a : KReg) (off : BitVec 26) (s : State) : Result :=
  branchOp (.brKf a off) (fun x => x.rk a &&& x.alive == x.alive) (target · off) id s
/-- The link register receives the address after the call. -/
def execCall (a : SReg) (off : BitVec 26) (s : State) : Result :=
  branchOp (.call a off) (fun _ => true) (target · off) (fun x => x.ws a (x.pc + 8)) s
def execRet (a : SReg) (s : State) : Result := branchOp (.ret a) (fun _ => true) (·.rs a) id s

/-! ### Loops and regions (04 R90-R93) -/

/-- Sets up a level; a count of 0 skips the body (04 R90). -/
def setLoop (l : Bool) (count : W32) (off : BitVec 26) (x : Slice) : Slice :=
  if count = 0 then { x.setLc l {} with pc := target x off + 8 }
  else advance (x.setLc l { active := true, count := count, start := x.pc + 8, stop := target x off })

def execLoop (l : Bool) (a : SReg) (off : BitVec 26) (s : State) : Result :=
  .next (issue (.loop l a off) s fun s => s.mapGroup fun x => setLoop l ((x.rs a).setWidth 32) off x)
def execLoopi (l : Bool) (count : BitVec 12) (off : BitVec 26) (s : State) : Result :=
  .next (issue (.loopi l count off) s fun s => s.mapGroup fun x => setLoop l (count.setWidth 32) off x)

/-- What `rgn` records of a slice (04 R93). -/
def snapshot (x : Slice) : Snapshot := { k := x.k, c := x.c, ct := x.ct, fr := x.fr, lc0 := x.lc0, lc1 := x.lc1 }
def execRgn (sm vm : SReg) (s : State) : Result :=
  regOp (.rgn sm vm) (fun x =>
    { x with region := some { entry := x.pc + 8, sMask := x.rs sm, vMask := x.rs vm, snap := snapshot x } }) s
def execRgnEnd (s : State) : Result := regOp .rgnEnd (fun x => { x with region := none }) s

/-! ### Joining, leaving, yielding (02 R29, R33, R34, 04 R95) -/

def execNop (s : State) : Result := regOp .nop id s

/-- Ends a wait and goes on at the next instruction; the hang counter starts again (02 R46). -/
def endWait (x : Slice) : Slice := { advanceH x with run := .ready }

/-- The first difference that ILLJOIN reports (02 R29). -/
def joinDiff (l : List Slice) : Nat :=
  match l with
  | [] => 0
  | a :: t =>
    if t.any (fun y => y.fr != a.fr) then 1
    else if t.any (fun y => !(loopEq a.lc0 y.lc0 && loopEq a.lc1 y.lc1)) then 2
    else if t.any (fun y => !regionEq a.region y.region) then 3
    else 0

/-- The join of the alive slices that hold at one `gjoin`: a trap in each, or one group and a membership event. -/
def joinGang (s : State) (x : Slice) : State :=
  let w := (s.gang x).filter Slice.isAlive
  let d := joinDiff w
  if d ≠ 0 then
    (ascending w).foldl (fun (s : State) i => takeTrap s i (trapAt s (s.slice i) tILLJOIN d 0)) s
  else
    let s : State := retireExited (s.count x.ck 5 1) x 15
    let ids := w.map Slice.id
    s.mapSlices fun y => if ids.contains y.id then { finished s y.id (endWait y) with gm := maskBits w, exited := 0 } else y

/-- Every member holds; the last alive slice's arrival joins the gang (02 R29). -/
def execGjoin (s : State) : Result :=
  .next (issue .gjoin s fun s =>
    let s : State := s.mapGroup fun x => { x with run := .waiting .gjoin }
    s.group.foldl (fun (s : State) i =>
      let x := s.slice i
      if x.run == .waiting .gjoin && joined s x then joinGang s x else s) s)

/-- The lanes of a mask leave (02 R33, R34): the slice exits with its last lane, and an exited slice retires
with the last slice of its group. -/
def exitLanes (s : State) (id : Nat) (m : W32) : State :=
  let x := s.slice id
  let s : State := laneRetire s x (m &&& x.alive)
  let s : State := s.updSlice id fun x =>
    { x with k := x.k.set 0 (x.rk 0 &&& ~~~m), alive := x.alive &&& ~~~m, exited := x.exited ||| (x.alive &&& m), hang := 0 }
  let y := s.slice id
  if y.alive == 0 && (s.gang y).all (fun z => !y.gm.getLsbD z.idx || !z.isAlive) then retireExited s y y.gm else s

/-- With an empty lane set the instruction has no effect (04 R95). -/
def execExit (p : Pred) (s : State) : Result :=
  .next (issue (.exit p) s fun s => seqOp s fun (s : State) (x : Slice) =>
    if x.sel p = 0 then s.updSlice x.id advance
    else if x.alive &&& ~~~x.sel p = 0 then exitLanes s x.id (x.sel p)
    else (exitLanes s x.id (x.sel p)).updSlice x.id advance)
def execSexit (s : State) : Result :=
  .next (issue .sexit s fun s => seqOp s fun (s : State) (x : Slice) => exitLanes s x.id (-1))

/-- The slices that a yielding slice lets go first (04 R95). -/
def yieldsTo (s : State) (x : Slice) : List Nat :=
  (s.slices.filter fun y => y.pk == x.pk && !s.inGroup y.id && readyBase s y).map Slice.id
def execYield (s : State) : Result :=
  regOpS .yield (fun s x => if (yieldsTo s x).isEmpty then x else { x with run := .waiting (.yield (yieldsTo s x)) }) s

/-! ### Format and allotment (02 R40-R42, 04 R99, R100) -/

def execFmt (imm : BitVec 24) (s : State) : Result := regOp (.fmt imm) (fun x => { x with fr := imm.setWidth 64 }) s

/-- ALLOCX of an invalid request (02 R40). -/
def allocTrap (e : Nat) (s : State) (x : Slice) : Option TrapInfo :=
  if e = 0 || e % 32 != 0 || decide (224 < e) || decide (8 * hVreg (headerOf s x) < 32 + e) then
    some (trapAt s x tALLOCX 1 (BitVec.ofNat 64 e))
  else none

/-- Requests of a group: those that need no block complete at once, the others become one waiter (02 R40-R42). -/
def allocRun (e : Nat) (s : State) : State :=
  match s.group with
  | [] => s
  | i :: _ =>
    let x := s.slice i
    let grow := (s.group.map s.slice).filter fun y => decide (y.ext < e)
    let s : State := s.mapGroup fun x => if x.ext < e then { x with run := .waiting (.alloc e) } else advance (setExt e x)
    let s : State :=
      if grow.isEmpty then s
      else s.updPdk x.pk fun p =>
        { p with waiters := p.waiters ++ [{ ctx := x.ctx, members := grow.map Slice.id
                                            need := (grow.map fun y => (e - y.ext) / 32).foldl (· + ·) 0, e := e }] }
    allocGrants s x.pk
def execAlloc (e : Byte) (s : State) : Result := trapOp (.alloc e) (allocTrap e.toNat) (allocRun e.toNat) s

def execFree (s : State) : Result :=
  .next (issue .free s fun s =>
    let s : State := s.mapGroup fun x => advance (setExt 0 x)
    match s.group with
    | [] => s
    | i :: _ => allocGrants s (s.slice i).pk)

/-! ### System (04 R101-R103) -/

/-- Every member traps at the instruction, which resumes at the next one (04 R101). -/
def trapAll (code : Byte) (info : W64) (s : State) : State :=
  s.group.foldl (fun (s : State) i =>
    let x := s.slice i
    takeTrap s i { trapAt s x code 0 info with rpc := x.pc + 8 }) s
def execTrap (n : Byte) (s : State) : Result := .next (issue (.trap n) s (trapAll tSWTRAP (n.setWidth 64)))

/-- The end of the handler (13 R237); outside it PRIV. -/
def execTret (s : State) : Result := .next (issue .tret s fun s => seqOp s trapReturn)

/-- Each member makes its own request and holds until every answer has arrived (04 R102). -/
def execSysc (n : W16) (s : State) : Result :=
  .next (issue (.sysc n) s fun s => s.mapGroup fun x =>
    match x.run with
    | .waiting .answered => endWait x
    | _ => { x with run := .waiting (.sysc n) })

/-- Room in a context's completion channel: its virtual device is resident or its interrupt log has space (18 R314). -/
def channelRoom (s : State) (k : Nat) : Bool :=
  let v := s.vdev (s.ctx k).vdev
  v.resident || decide ((v.tail - v.head).toNat < 2 ^ v.logK)

/-- The service (04 R102): the answer and the state it leaves. -/
def service (s : State) (x : Slice) (n : W16) : W64 × State :=
  match n.toNat with
  | 0 => (x.rs 2, s)
  | 1 => ((s.ctxOf x).gen.setWidth 64, s)
  | 2 =>
    if channelRoom s x.ck then
      (0, s.post x.ck (s.ctxOf x).host mLOG 0 0 ([2, 3, 4, 5].flatMap fun r => leBytes 8 (x.rs r).toNat))
    else (-2, s)
  | _ => (-1, s)

/-- The controller answers a waiting slice, unless its failover is under way (18 R317). -/
def execSyscAnswer (id : Nat) (s : State) : Result :=
  let x := s.slice id
  match x.run with
  | .waiting (.sysc n) =>
    if (s.die x.die).failover then .next s
    else
      let (a, s) := service s x n
      .next (s.updSlice id fun x => { x.ws 1 a with run := .waiting .answered })
  | _ => .next s

/-- Holds the group until an event or 2^16 cycles; it does not reset the hang counter (04 R103). -/
def execIdle (s : State) : Result :=
  .next (issue .idle s fun s => s.mapGroup fun x =>
    match x.run with
    | .waiting (.idle 0) => { advance x with run := .ready }
    | _ => { x with run := .waiting (.idle (s.clk x.die + 2 ^ 16)) })

/-- 2^16 cycles have passed: the slice's group resumes (04 R103). -/
def execIdleTimeout (id : Nat) (s : State) : Result :=
  match (s.slice id).run with
  | .waiting (.idle due) => if due ≤ s.clk (s.slice id).die then .next (wakeIdle s fun y => y.id == id) else .next s
  | _ => .next s

end Sys2Proof.Machine
end

