-- ==== Sys2Proof/Machine/Transcend.lean ====
section
/-! DEFINITION. Functions rounded once from their exact value (05 R118, 08 R153): each is bracketed by two
fixed-point bounds, and both bounds are rounded; where they differ the value is `Config.hardCase` (log 9). -/
namespace Sys2Proof.Machine

/-- A fixed-point product and quotient with `p` fraction bits. -/
def fxMul (p : Nat) (a b : Int) : Int := a * b / 2 ^ p

/-- ln 2 with `p` fraction bits, from the sum of 1/(k 2^k). -/
def fxLn2 (p : Nat) : Int :=
  ((List.range (p + 8)).foldl (fun acc k => acc + 2 ^ (p + 16) / ((k + 1) * 2 ^ (k + 1))) 0 : Nat) / 2 ^ 16

/-- The sum of `n` terms, each the last times `t` over its index, from `term` at index `k`. -/
def fxExpSum (p : Nat) (t : Int) : Nat → Nat → Int → Int
  | 0, _, _ => 0
  | n + 1, k, term => term + fxExpSum p t n (k + 1) (fxMul p term t / (k + 1 : Nat))

/-- e^t for 0 ≤ t < 1, with `p` fraction bits. -/
def fxExp (p : Nat) (t : Int) : Int := fxExpSum p t (p / 3 + 20) 0 (2 ^ p)

/-- Odd powers of `s` over their exponents: atanh (sign false) or atan (sign true). -/
def fxAtanSum (p : Nat) (alt : Bool) (s2 : Int) : Nat → Nat → Int → Int
  | 0, _, _ => 0
  | n + 1, k, pw =>
    let t := pw / (2 * k + 1 : Nat)
    (if alt && k % 2 == 1 then -t else t) + fxAtanSum p alt s2 n (k + 1) (fxMul p pw s2)

def fxAtanh (p : Nat) (s : Int) : Int := fxAtanSum p false (fxMul p s s) (p / 3 + 8) 0 s
def fxAtan (p : Nat) (s : Int) : Int := fxAtanSum p true (fxMul p s s) (p / 2 + 8) 0 s

/-- Pi by Machin's formula. -/
def fxPi (p : Nat) : Int := 16 * fxAtan p (2 ^ p / 5) - 4 * fxAtan p (2 ^ p / 239)

/-- Integer part and fraction of a finite value times `2^p`. -/
def fxOf (p : Nat) (m : Nat) (e : Int) : Int :=
  if 0 ≤ e + p then m * 2 ^ (e + p).toNat else (m : Int) / 2 ^ (-(e + p)).toNat

/-- e^t for any t of modest size: power of two and fraction. -/
def fxExpAny (p : Nat) (t : Int) : Int × Int :=
  let l := fxLn2 p
  let k := t / l
  (k, fxExp p (t - k * l))

/-- Rounds a bracketed value `lo..hi` times `2^(e)`; the fallback where the bracket does not decide. -/
def bracket (f : FFmt) (m : FrMode) (neg : Bool) (lo hi : Int) (e : Int) (id : Nat) (x : Nat) : Nat :=
  let a := fround f m.rm m.ftz false neg lo.toNat e true
  let b := fround f m.rm m.ftz false neg hi.toNat e true
  if a = b then a else (Config.hardCase id (BitVec.ofNat 32 x)).toNat % (2 * f.signBit)

/-- Bound on the error of every series above, in units of the last place. -/
def fxErr : Int := 2 ^ 20

/-- Fraction bits for an argument of exponent `x`: more for a small argument. -/
def fxPrec (f : FFmt) (m : Nat) (e : Int) : Nat :=
  let x : Int := (Nat.log2 m : Nat) + e
  220 + f.fb + 4 * (max 0 (-x)).toNat

/-- 2^a (05 R118). -/
def fexp2 (f : FFmt) (fm : FrMode) (a : Nat) : Nat :=
  match fin' f fm.ftz a with
  | .nan => f.nanBits
  | .inf s => if s then 0 else f.infBits
  | .fin s m e =>
    if m = 0 then f.bias * 2 ^ f.fb
    else if 0 ≤ e ∨ m % 2 ^ (-e).toNat = 0 then
      let v : Int := if 0 ≤ e then m * 2 ^ (min e 20).toNat else m / 2 ^ (-e).toNat
      let v := min v 2000
      fround f fm.rm fm.ftz false false 1 (if s then -v else v)
    else
      let p := fxPrec f m e
      let t := fxOf p m e
      let t := if s then -t else t
      let n := t / 2 ^ p
      let y := fxExp p (fxMul p (t - n * 2 ^ p) (fxLn2 p))
      bracket f fm false (y - fxErr) (y + fxErr) (max (-3000) (min n 3000) - p) 0 a

/-- log2 a (05 R118). -/
def flog2 (f : FFmt) (fm : FrMode) (a : Nat) : Nat :=
  match fin' f fm.ftz a with
  | .nan => f.nanBits
  | .inf s => if s then f.nanBits else f.infBits
  | .fin s m e =>
    if m = 0 then f.signBit + f.infBits
    else if s then f.nanBits
    else
      let k := Nat.log2 m
      let n := (k : Int) + e
      if m = 2 ^ k then fenc f fm.rm fm.ftz false (.fin (decide (n < 0)) n.natAbs 0)
      else
        let p := 260
        let z : Int := m * 2 ^ (p - k)
        let s := (z - 2 ^ p) * 2 ^ p / (z + 2 ^ p)
        let l := 2 * fxAtanh p s * 2 ^ p / fxLn2 p
        let y := n * 2 ^ p + l
        if 0 ≤ y then bracket f fm false (y - fxErr) (y + fxErr) (-p) 1 a
        else bracket f fm true (-y - fxErr) (-y + fxErr) (-p) 1 a

/-- tanh a (08 R153). -/
def ftanh (fm : FrMode) (a : Nat) : Nat :=
  match fin' fp32 fm.ftz a with
  | .nan => fp32.nanBits
  | .inf s => (if s then fp32.signBit else 0) + 127 * 2 ^ 23
  | .fin s m e =>
    if m = 0 then (if s then fp32.signBit else 0)
    else if 5 < (Nat.log2 m : Nat) + e then fround fp32 fm.rm fm.ftz false s (2 ^ 60 - 1) (-60) true
    else
      let p := fxPrec fp32 m e
      let (k, y) := fxExpAny p (2 * fxOf p m e)
      let w := y * 2 ^ k.toNat
      let r := (w - 2 ^ p) * 2 ^ p / (w + 2 ^ p)
      bracket fp32 fm s (r - fxErr) (r + fxErr) (-p) 2 a

/-- 1/(1 + e^-a) (08 R153). -/
def fsigm (fm : FrMode) (a : Nat) : Nat :=
  match fin' fp32 fm.ftz a with
  | .nan => fp32.nanBits
  | .inf s => if s then 0 else 127 * 2 ^ 23
  | .fin s m e =>
    if m = 0 then 126 * 2 ^ 23
    else if 7 < (Nat.log2 m : Nat) + e then
      (if s then fround fp32 fm.rm fm.ftz false false 1 (-400) true
       else fround fp32 fm.rm fm.ftz false false (2 ^ 60 - 1) (-60) true)
    else
      let p := 400 + fxPrec fp32 m e
      let (k, y) := fxExpAny p (fxOf p m e)
      let w := y * 2 ^ k.toNat
      let r := if s then 2 ^ p * 2 ^ p / (w + 2 ^ p) else w * 2 ^ p / (w + 2 ^ p)
      bracket fp32 fm false (r - fxErr) (r + fxErr) (-p) 3 a

/-- Terms of the error function's series: power over k!, alternating, over 2k + 1. -/
def fxErfSum (p : Nat) (x2 : Int) : Nat → Nat → Int → Int
  | 0, _, _ => 0
  | n + 1, k, pw => pw / (2 * k + 1 : Nat) + fxErfSum p x2 n (k + 1) (-(fxMul p pw x2) / (k + 1 : Nat))

/-- erf a (08 R153). -/
def ferf (fm : FrMode) (a : Nat) : Nat :=
  match fin' fp32 fm.ftz a with
  | .nan => fp32.nanBits
  | .inf s => (if s then fp32.signBit else 0) + 127 * 2 ^ 23
  | .fin s m e =>
    if m = 0 then (if s then fp32.signBit else 0)
    else if 2 ≤ (Nat.log2 m : Nat) + e then fround fp32 fm.rm fm.ftz false s (2 ^ 60 - 1) (-60) true
    else
      let p := fxPrec fp32 m e
      let x := fxOf p m e
      let sum := fxErfSum p (fxMul p x x) (p / 2 + 100) 0 x
      let root : Int := isqrt (fxPi p * 2 ^ p).toNat
      let y := 2 * sum * 2 ^ p / root
      bracket fp32 fm s (y - fxErr) (y + fxErr) (-p) 4 a

end Sys2Proof.Machine
end

