-- ==== Sys2Proof/Machine/Vector.lean ====
section
/-! DEFINITION. Vector integer, move, floating-point and conversion instructions (05 R106-R122). -/
namespace Sys2Proof.Machine

/-- Writes D in the selected lanes from a function of the lane (05 R107). -/
def laneOp (p : Pred) (d : VReg) (f : Slice → Nat → W32) (x : Slice) : Slice := x.wv d (x.sel p) (f x)
/-- Writes a mask whole from a condition on the selected lanes; a slice with an empty `k0` keeps it (02 R30, 05 R107). -/
def maskOp (p : Pred) (k : KReg) (f : Slice → Nat → Bool) (x : Slice) : Slice :=
  if x.rk 0 = 0 then x else x.wk k (maskOf fun l => (x.sel p).getLsbD l && f x l)

/-- Element-wise instructions of one, two and three sources (05 R106). -/
def ew1 (p : Pred) (t : Ty) (d a : VReg) (f : Slice → Nat → Nat) : Slice → Slice :=
  laneOp p d fun x l => mapElems t.width (f x) (x.rv a l)
def ew2 (p : Pred) (t : Ty) (d a b : VReg) (f : Slice → Nat → Nat → Nat) : Slice → Slice :=
  laneOp p d fun x l => mapElems2 t.width (f x) (x.rv a l) (x.rv b l)
def ew3 (p : Pred) (t : Ty) (d a b c : VReg) (f : Slice → Nat → Nat → Nat → Nat) : Slice → Slice :=
  laneOp p d fun x l => mapElems3 t.width (f x) (x.rv a l) (x.rv b l) (x.rv c l)

/-- The immediate of R66 as an element of a type; a 16-bit float is rounded under RM alone (log 17). -/
def immElem (t : Ty) (fr : W64) (imm : BitVec 20) : Nat :=
  match t with
  | .f32 => imm.toNat * 2 ^ 12
  | .f16 | .bf16 => cvt { rm := (frMode fr).rm } t .f32 (imm.toNat * 2 ^ 12)
  | _ => intElem t.width imm.toInt
/-- Element-wise with the immediate as operand B (05 R108). -/
def ewImm (p : Pred) (t : Ty) (d a : VReg) (imm : BitVec 20) (f : Slice → Nat → Nat → Nat) : Slice → Slice :=
  laneOp p d fun x l => mapElems t.width (fun e => f x e (immElem t x.fr imm)) (x.rv a l)

/-! ### Element functions (05 R109, R110) -/

/-- The value of an element as its type reads it. -/
def ev (t : Ty) (a : Nat) : Int := elemInt t.signed t.width a
def eMulh (t : Ty) (a b : Nat) : Nat := intElem t.width (ev t a * ev t b / 2 ^ t.width)
def eShl (t : Ty) (a b : Nat) : Nat := if b < t.width then a * 2 ^ b else 0
def eShr (t : Ty) (a b : Nat) : Nat := if b < t.width then a / 2 ^ b else 0
def eSra (t : Ty) (a b : Nat) : Nat := intElem t.width (elemInt true t.width a / 2 ^ min b t.width)
def eMin (t : Ty) (a b : Nat) : Nat := if ev t b < ev t a then b else a
def eMax (t : Ty) (a b : Nat) : Nat := if ev t a < ev t b then b else a
def eAbs (t : Ty) (a : Nat) : Nat := intElem t.width (ev t a).natAbs
def eNeg (t : Ty) (a : Nat) : Nat := intElem t.width (-(ev t a))
def eClz (t : Ty) (a : Nat) : Nat := if a = 0 then t.width else t.width - 1 - Nat.log2 a
def ePopc (t : Ty) (a : Nat) : Nat := ((List.range t.width).filter fun i => a.testBit i).length
/-- The bit field of `vbfe` (05 R110). -/
def bfeV (t : Ty) (a b c : W32) : W32 :=
  let pos := b.toNat % 32
  let w := min (c.toNat % 64) (32 - pos)
  if w = 0 then 0 else BitVec.ofInt 32 (elemInt t.signed w (bitsOf a.toNat pos w))

def execVadd (p : Pred) (t : Ty) (d a b : VReg) (s : State) : Result :=
  regOp (.vadd p t d a b) (ew2 p t d a b fun _ => (· + ·)) s
def execVsub (p : Pred) (t : Ty) (d a b : VReg) (s : State) : Result :=
  regOp (.vsub p t d a b) (ew2 p t d a b fun _ a b => intElem t.width ((a : Int) - b)) s
def execVmul (p : Pred) (t : Ty) (d a b : VReg) (s : State) : Result :=
  regOp (.vmul p t d a b) (ew2 p t d a b fun _ => (· * ·)) s
def execVmulh (p : Pred) (t : Ty) (d a b : VReg) (s : State) : Result :=
  regOp (.vmulh p t d a b) (ew2 p t d a b fun _ => eMulh t) s
def execVmad (p : Pred) (t : Ty) (d a b c : VReg) (s : State) : Result :=
  regOp (.vmad p t d a b c) (ew3 p t d a b c fun _ a b c => a * b + c) s
def execVand (p : Pred) (d a b : VReg) (s : State) : Result :=
  regOp (.vand p d a b) (laneOp p d fun x l => x.rv a l &&& x.rv b l) s
def execVor (p : Pred) (d a b : VReg) (s : State) : Result :=
  regOp (.vor p d a b) (laneOp p d fun x l => x.rv a l ||| x.rv b l) s
def execVxor (p : Pred) (d a b : VReg) (s : State) : Result :=
  regOp (.vxor p d a b) (laneOp p d fun x l => x.rv a l ^^^ x.rv b l) s
def execVshl (p : Pred) (t : Ty) (d a b : VReg) (s : State) : Result :=
  regOp (.vshl p t d a b) (ew2 p t d a b fun _ => eShl t) s
def execVshr (p : Pred) (t : Ty) (d a b : VReg) (s : State) : Result :=
  regOp (.vshr p t d a b) (ew2 p t d a b fun _ => eShr t) s
def execVsra (p : Pred) (t : Ty) (d a b : VReg) (s : State) : Result :=
  regOp (.vsra p t d a b) (ew2 p t d a b fun _ => eSra t) s
def execVmin (p : Pred) (t : Ty) (d a b : VReg) (s : State) : Result :=
  regOp (.vmin p t d a b) (ew2 p t d a b fun _ => eMin t) s
def execVmax (p : Pred) (t : Ty) (d a b : VReg) (s : State) : Result :=
  regOp (.vmax p t d a b) (ew2 p t d a b fun _ => eMax t) s
def execVabs (p : Pred) (t : Ty) (d a : VReg) (s : State) : Result :=
  regOp (.vabs p t d a) (ew1 p t d a fun _ => eAbs t) s
def execVneg (p : Pred) (t : Ty) (d a : VReg) (s : State) : Result :=
  regOp (.vneg p t d a) (ew1 p t d a fun _ => eNeg t) s
/-- Compares element 0 of A and B (05 R111). -/
def execVcmp (p : Pred) (c : Cond) (t : Ty) (k : KReg) (a b : VReg) (s : State) : Result :=
  regOp (.vcmp p c t k a b) (maskOp p k fun x l => condV c t.signed (x.rv a l) (x.rv b l)) s
def execVsel (p : Pred) (d a b : VReg) (k : KReg) (s : State) : Result :=
  regOp (.vsel p d a b k) (laneOp p d fun x l => if (x.rk k).getLsbD l then x.rv a l else x.rv b l) s
def execVmov (p : Pred) (d a : VReg) (s : State) : Result := regOp (.vmov p d a) (laneOp p d fun x l => x.rv a l) s
/-- The immediate placed in every element (05 R112). -/
def execVli (p : Pred) (t : Ty) (d : VReg) (imm : BitVec 20) (s : State) : Result :=
  regOp (.vli p t d imm) (laneOp p d fun x _ => mapElems t.width (fun _ => immElem t x.fr imm) 0) s
/-- The low bits of a scalar in every element (05 R112). -/
def execVbcast (p : Pred) (t : Ty) (d : VReg) (a : SReg) (s : State) : Result :=
  regOp (.vbcast p t d a) (laneOp p d fun x _ => mapElems t.width (fun _ => (x.rs a).toNat) 0) s
def execVclz (p : Pred) (t : Ty) (d a : VReg) (s : State) : Result :=
  regOp (.vclz p t d a) (ew1 p t d a fun _ => eClz t) s
def execVpopc (p : Pred) (t : Ty) (d a : VReg) (s : State) : Result :=
  regOp (.vpopc p t d a) (ew1 p t d a fun _ => ePopc t) s
def execVbfe (p : Pred) (t : Ty) (d a b c : VReg) (s : State) : Result :=
  regOp (.vbfe p t d a b c) (laneOp p d fun x l => bfeV t (x.rv a l) (x.rv b l) (x.rv c l)) s

/-! ### Floating point (05 R113-R118) -/

def execVfadd (p : Pred) (t : Ty) (d a b : VReg) (s : State) : Result :=
  regOp (.vfadd p t d a b) (ew2 p t d a b fun x => fadd t.ffmt (frMode x.fr)) s
def execVfsub (p : Pred) (t : Ty) (d a b : VReg) (s : State) : Result :=
  regOp (.vfsub p t d a b) (ew2 p t d a b fun x => fsub t.ffmt (frMode x.fr)) s
def execVfmul (p : Pred) (t : Ty) (d a b : VReg) (s : State) : Result :=
  regOp (.vfmul p t d a b) (ew2 p t d a b fun x => fmul t.ffmt (frMode x.fr)) s
def execVfma (p : Pred) (t : Ty) (d a b c : VReg) (s : State) : Result :=
  regOp (.vfma p t d a b c) (ew3 p t d a b c fun x => ffma t.ffmt (frMode x.fr)) s
def execVfmin (p : Pred) (t : Ty) (d a b : VReg) (s : State) : Result :=
  regOp (.vfmin p t d a b) (ew2 p t d a b fun x => fminmax t.ffmt false (frMode x.fr)) s
def execVfmax (p : Pred) (t : Ty) (d a b : VReg) (s : State) : Result :=
  regOp (.vfmax p t d a b) (ew2 p t d a b fun x => fminmax t.ffmt true (frMode x.fr)) s
def execVfabs (p : Pred) (t : Ty) (d a : VReg) (s : State) : Result :=
  regOp (.vfabs p t d a) (ew1 p t d a fun _ => fabs t.ffmt) s
def execVfneg (p : Pred) (t : Ty) (d a : VReg) (s : State) : Result :=
  regOp (.vfneg p t d a) (ew1 p t d a fun _ => fneg t.ffmt) s
def execVfcmp (p : Pred) (c : Cond) (t : Ty) (k : KReg) (a b : VReg) (s : State) : Result :=
  regOp (.vfcmp p c t k a b) (maskOp p k fun x l =>
    fcmp t.ffmt (frMode x.fr).ftz c (elem (x.rv a l) t.width 0) (elem (x.rv b l) t.width 0)) s
def execVfcls (p : Pred) (t : Ty) (d a : VReg) (s : State) : Result :=
  regOp (.vfcls p t d a) (ew1 p t d a fun _ => fclass t.ffmt) s
def execVrcp (p : Pred) (t : Ty) (d a : VReg) (s : State) : Result :=
  regOp (.vrcp p t d a) (ew1 p t d a fun x => frcp t.ffmt (frMode x.fr)) s
def execVrsq (p : Pred) (t : Ty) (d a : VReg) (s : State) : Result :=
  regOp (.vrsq p t d a) (ew1 p t d a fun x => frsq t.ffmt (frMode x.fr)) s
def execVexp2 (p : Pred) (t : Ty) (d a : VReg) (s : State) : Result :=
  regOp (.vexp2 p t d a) (ew1 p t d a fun x => fexp2 t.ffmt (frMode x.fr)) s
def execVlog2 (p : Pred) (t : Ty) (d a : VReg) (s : State) : Result :=
  regOp (.vlog2 p t d a) (ew1 p t d a fun x => flog2 t.ffmt (frMode x.fr)) s

/-! ### Conversions (05 R119-R122) -/

/-- Element 0 converted, the rest of the lane cleared (05 R119). -/
def execVcvt (p : Pred) (t1 t2 : Ty) (d a : VReg) (s : State) : Result :=
  regOp (.vcvt p t1 t2 d a) (laneOp p d fun x l =>
    BitVec.ofNat 32 (cvt (frMode x.fr) t1 t2 (elem (x.rv a l) t2.width 0))) s

/-- A packed lane: halves of two lanes, or quarters of two lanes of halves (05 R120). -/
def packV (m : FrMode) (t1 t2 : Ty) (a b : W32) : W32 :=
  let c := fun x e => cvt m t1 t2 (elem x t2.width e)
  BitVec.ofNat 32 (if t1.width = 16 then packElems 16 [c a 0, c b 0] else packElems 8 [c a 0, c a 1, c b 0, c b 1])
def execVpack (p : Pred) (t1 t2 : Ty) (d a b : VReg) (s : State) : Result :=
  regOp (.vpack p t1 t2 d a b) (laneOp p d fun x l => packV (frMode x.fr) t1 t2 (x.rv a l) (x.rv b l)) s

/-- A widened part of a lane (05 R120). -/
def unpackV (m : FrMode) (t1 t2 : Ty) (h : Bool) (a : W32) : W32 :=
  let c := fun e => cvt m t1 t2 (elem a t2.width e)
  BitVec.ofNat 32 (if t1.width = 32 then c (b2n h) else packElems 16 [c (2 * b2n h), c (2 * b2n h + 1)])
def execVunpack (p : Pred) (t1 t2 : Ty) (d a : VReg) (h : Bool) (s : State) : Result :=
  regOp (.vunpack p t1 t2 d a h) (laneOp p d fun x l => unpackV (frMode x.fr) t1 t2 h (x.rv a l)) s

/-- Entry `p` of permutation table `t` (07 R142); an empty store is the identity. -/
def permEntry (u : PUnit) (t p : Nat) : Nat := (u.perm.get (64 * t + p)).toNat ^^^ p
/-- Row element for each position through the table that `fr[23:16]` names (07 R143). -/
def permRow (u : PUnit) (fr : W64) : List Nat := (List.range 64).map (permEntry u (bitsOf fr.toNat 16 8))

/-- The image of a quantised row in every lane (05 R121). -/
def vqbLanes (u : PUnit) (t : Ty) (x : Slice) (a b : VReg) : Nat → W32 :=
  let row := (x.rvAll a ++ x.rvAll b).map BitVec.toNat
  let ps := (permRow u x.fr).map fun i => row.getD i 0
  let img := quantise t (frMode x.fr) (ps.take 32) ++ quantise t (frMode x.fr) (ps.drop 32)
  fun l => BitVec.ofNat 32 (leNat ((img.drop (4 * l)).take 4))
/-- Reads and writes every lane; a slice with an empty `k0` skips it (05 R121). -/
def execVqb (t : Ty) (d a b : VReg) (s : State) : Result :=
  regOpS (.vqb t d a b) (fun s x => if x.rk 0 = 0 then x else x.wv d (-1) (vqbLanes (s.punit x.uk) t x a b)) s

/-- FP32 value of an image position (05 R122). -/
def vdqbLane (t : Ty) (x : Slice) (a : VReg) (h : Bool) (l : Nat) : W32 :=
  let img := (x.rvAll a).flatMap fun w => leBytes 4 w.toNat
  let blk := leNat ((img.drop (b2n h * fbBytes t)).take (fbBytes t))
  BitVec.ofNat 32 (fenc fp32 0 (frMode x.fr).ftz false (fbValue (fbM t) blk l))
def execVdqb (p : Pred) (t2 : Ty) (d a : VReg) (h : Bool) (s : State) : Result :=
  regOp (.vdqb p t2 d a h) (laneOp p d fun x l => vdqbLane t2 x a h l) s

/-! ### Immediate forms (05 R108) -/

def execVaddImm (p : Pred) (t : Ty) (d a : VReg) (imm : BitVec 20) (s : State) : Result :=
  regOp (.vaddImm p t d a imm) (ewImm p t d a imm fun _ => (· + ·)) s
def execVmulImm (p : Pred) (t : Ty) (d a : VReg) (imm : BitVec 20) (s : State) : Result :=
  regOp (.vmulImm p t d a imm) (ewImm p t d a imm fun _ => (· * ·)) s
def execVandImm (p : Pred) (d a : VReg) (imm : BitVec 20) (s : State) : Result :=
  regOp (.vandImm p d a imm) (laneOp p d fun x l => x.rv a l &&& imm.signExtend 32) s
def execVorImm (p : Pred) (d a : VReg) (imm : BitVec 20) (s : State) : Result :=
  regOp (.vorImm p d a imm) (laneOp p d fun x l => x.rv a l ||| imm.signExtend 32) s
def execVxorImm (p : Pred) (d a : VReg) (imm : BitVec 20) (s : State) : Result :=
  regOp (.vxorImm p d a imm) (laneOp p d fun x l => x.rv a l ^^^ imm.signExtend 32) s
def execVshlImm (p : Pred) (t : Ty) (d a : VReg) (imm : BitVec 20) (s : State) : Result :=
  regOp (.vshlImm p t d a imm) (ewImm p t d a imm fun _ => eShl t) s
def execVshrImm (p : Pred) (t : Ty) (d a : VReg) (imm : BitVec 20) (s : State) : Result :=
  regOp (.vshrImm p t d a imm) (ewImm p t d a imm fun _ => eShr t) s
def execVsraImm (p : Pred) (t : Ty) (d a : VReg) (imm : BitVec 20) (s : State) : Result :=
  regOp (.vsraImm p t d a imm) (ewImm p t d a imm fun _ => eSra t) s
def execVminImm (p : Pred) (t : Ty) (d a : VReg) (imm : BitVec 20) (s : State) : Result :=
  regOp (.vminImm p t d a imm) (ewImm p t d a imm fun _ => eMin t) s
def execVmaxImm (p : Pred) (t : Ty) (d a : VReg) (imm : BitVec 20) (s : State) : Result :=
  regOp (.vmaxImm p t d a imm) (ewImm p t d a imm fun _ => eMax t) s
def execVcmpImm (p : Pred) (c : Cond) (t : Ty) (k : KReg) (a : VReg) (imm : BitVec 20) (s : State) : Result :=
  regOp (.vcmpImm p c t k a imm) (maskOp p k fun x l => condV c t.signed (x.rv a l) (imm.signExtend 32)) s
def execVfaddImm (p : Pred) (t : Ty) (d a : VReg) (imm : BitVec 20) (s : State) : Result :=
  regOp (.vfaddImm p t d a imm) (ewImm p t d a imm fun x => fadd t.ffmt (frMode x.fr)) s
def execVfmulImm (p : Pred) (t : Ty) (d a : VReg) (imm : BitVec 20) (s : State) : Result :=
  regOp (.vfmulImm p t d a imm) (ewImm p t d a imm fun x => fmul t.ffmt (frMode x.fr)) s

end Sys2Proof.Machine
end

