-- ==== Sys2Proof/Machine/CrossLane.lean ====
section
/-! DEFINITION. Cross-lane instructions (05 R123-R128; under CMP16, 19 R320, 20 R329, R330). Every source of
every member is read before any destination is written (05 R124). -/
namespace Sys2Proof.Machine

/-- The slice's kernel runs in compatibility mode (19 R318). -/
def cmp16 (s : State) (x : Slice) : Bool := hCmp16 (headerOf s x)
/-- Lanes of one unit of the lane space under `.sl`. -/
def unitW (s : State) (x : Slice) : Nat := if cmp16 s x then 16 else 32
/-- The slice of a gang with an index, if it is a member of the reader's group (05 R123). -/
def member (s : State) (x : Slice) (j : Nat) : Option Slice :=
  if x.gm.getLsbD j then (s.gang x).find? fun y => y.idx == j && y.run != .retired else none
/-- Member slices in ascending order. -/
def members (s : State) (x : Slice) : List Slice := (List.range 4).filterMap (member s x)

/-- The value of a group lane in a register; none when it is not a valid source (05 R123). A register
beyond the allotment of its slice, and one of a member that traps STALLSHORT at the word, supplies what the store holds, the model's
choice (log 112). -/
def laneAt (s : State) (x : Slice) (a : VReg) (g : Int) : Option W32 :=
  if 0 ≤ g ∧ g < 32 * hGang (headerOf s x) then
    match member s x (g.toNat / 32) with
    | some y => if (memberLanes y).getLsbD (g.toNat % 32) then some (y.rv a (g.toNat % 32)) else none
    | none => none
  else none

/-- A shuffle with the source index of each lane, none where it leaves the space (05 R125). -/
def shuffle (d : VReg) (kf : KReg) (a : VReg) (p : Pred) (src : State → Slice → Nat → Option Int) (s : State)
    (x : Slice) : Slice :=
  if x.rk 0 = 0 then x
  else
    let v := fun l => (src s x l).bind (laneAt s x a)
    let y := x.wv d (x.sel p) fun l => (v l).getD (x.rv a l)
    if kf = 0 then y else y.wk kf (maskOf fun l => (x.sel p).getLsbD l && (v l).isNone)

/-- Group index of lane `l`, and the first group lane of its unit (05 R123, 19 R320). -/
def gLane (x : Slice) (l : Nat) : Nat := 32 * x.idx + l
def unitLo (s : State) (x : Slice) (l : Nat) : Nat := 32 * x.idx + l / unitW s x * unitW s x
/-- A source that must stay within the lane's unit under `.sl`. -/
def within (sl : Bool) (s : State) (x : Slice) (l : Nat) (g : Int) : Option Int :=
  if !sl || ((unitLo s x l : Int) ≤ g && g < (unitLo s x l : Int) + unitW s x) then some g else none

/-- Source indices of the four shuffles (05 R125, 19 R320). -/
def srcIdx (sl : Bool) (b : VReg) (s : State) (x : Slice) (l : Nat) : Option Int :=
  some (if sl then unitLo s x l + (x.rv b l).toNat % unitW s x else (x.rv b l).toNat % 128 : Nat)
def srcUp (sl : Bool) (b : SReg) (s : State) (x : Slice) (l : Nat) : Option Int :=
  within sl s x l ((gLane x l : Int) - (x.rs b).toNat)
def srcDn (sl : Bool) (b : SReg) (s : State) (x : Slice) (l : Nat) : Option Int :=
  within sl s x l ((gLane x l : Int) + (x.rs b).toNat)
def srcX (sl : Bool) (b : SReg) (s : State) (x : Slice) (l : Nat) : Option Int :=
  some (if sl then unitLo s x l + (l % unitW s x ^^^ (x.rs b).toNat % unitW s x)
        else gLane x l ^^^ (x.rs b).toNat % 128 : Nat)

def execShf (p : Pred) (sl : Bool) (d : VReg) (kf : KReg) (a b : VReg) (s : State) : Result :=
  regOpS (.shf p sl d kf a b) (shuffle d kf a p (srcIdx sl b)) s
def execShfUp (p : Pred) (sl : Bool) (d : VReg) (kf : KReg) (a : VReg) (b : SReg) (s : State) : Result :=
  regOpS (.shfUp p sl d kf a b) (shuffle d kf a p (srcUp sl b)) s
def execShfDn (p : Pred) (sl : Bool) (d : VReg) (kf : KReg) (a : VReg) (b : SReg) (s : State) : Result :=
  regOpS (.shfDn p sl d kf a b) (shuffle d kf a p (srcDn sl b)) s
def execShfX (p : Pred) (sl : Bool) (d : VReg) (kf : KReg) (a : VReg) (b : SReg) (s : State) : Result :=
  regOpS (.shfX p sl d kf a b) (shuffle d kf a p (srcX sl b)) s

/-! ### Votes (05 R126, 20 R329) -/

/-- Active lanes, those with the bit set, and member lanes, of the slices and lanes given. -/
def tally (p : Pred) (a : KReg) (m : W32) (ys : List Slice) : Nat × Nat × Nat :=
  let sum := fun (f : Slice → W32) => (ys.map fun y => popc (f y &&& m)).foldl (· + ·) 0
  (sum fun y => y.sel p, sum fun y => y.sel p &&& y.rk a, sum memberLanes)
/-- Results of the three votes; `sh` is where the member count of `vote.bal` stands. -/
def anyOf (_sh : Nat) (c : Nat × Nat × Nat) : Nat := b2n (c.2.1 != 0)
def allOf (_sh : Nat) (c : Nat × Nat × Nat) : Nat := b2n (c.2.1 == c.1)
def balOf (sh : Nat) (c : Nat × Nat × Nat) : Nat := c.2.1 + 2 ^ sh * c.2.2
/-- A vote: over all members, the own slice, or each half of it; `.sl` counts the member lanes of the own slice (log 110). -/
def vote (p : Pred) (sl : Bool) (d : SReg) (a : KReg) (res : Nat → Nat × Nat × Nat → Nat) (s : State) (x : Slice) :
    Slice :=
  if x.rk 0 = 0 then x
  else x.ws d (BitVec.ofNat 64
    (if sl && cmp16 s x then
      res 16 (tally p a 0xFFFF [x]) + 2 ^ 32 * res 16 (tally p a 0xFFFF0000 [x])
    else res 32 (tally p a (-1) (if sl then [x] else members s x))))

def execVoteAny (p : Pred) (sl : Bool) (d : SReg) (a : KReg) (s : State) : Result :=
  regOpS (.voteAny p sl d a) (vote p sl d a anyOf) s
def execVoteAll (p : Pred) (sl : Bool) (d : SReg) (a : KReg) (s : State) : Result :=
  regOpS (.voteAll p sl d a) (vote p sl d a allOf) s
def execVoteBal (p : Pred) (sl : Bool) (d : SReg) (a : KReg) (s : State) : Result :=
  regOpS (.voteBal p sl d a) (vote p sl d a balOf) s

/-! ### Reductions and scans (05 R127, R128, 20 R330) -/

/-- A lane as the operation reads it: subnormals under `fr[14]`, and a NaN as the canonical one (05 R113, R114). -/
def redRead (t : Ty) (fr : W64) (a : W32) : W32 :=
  if t == .f32 then
    let v := flush fp32 (frMode fr).ftz a.toNat
    BitVec.ofNat 32 (if isNan fp32 v then fp32.nanBits else v)
  else a
/-- The operation. -/
def redFn (op : RedOp) (t : Ty) (fr : W64) (a b : W32) : W32 :=
  let n := fun (f : Nat → Nat → Nat) => BitVec.ofNat 32 (f a.toNat b.toNat)
  if t == .f32 then
    match op with
    | .min => n (fminmax fp32 false (frMode fr))
    | .max => n (fminmax fp32 true (frMode fr))
    | _ => n (fadd fp32 (frMode fr))
  else
    match op with
    | .add => a + b
    | .min => n (eMin t)
    | .max => n (eMax t)
    | .and => a &&& b
    | .or => a ||| b
    | .xor => a ^^^ b
/-- A fold in list order from its first value; none of an empty list. -/
def fold1 (f : W32 → W32 → W32) : List W32 → Option W32
  | [] => none
  | a :: t => some (t.foldl f a)

/-- Active lanes of a slice from lane `lo`, at most `n`. -/
def activeLanes (p : Pred) (y : Slice) (lo n : Nat) : List Nat := (lanesOf (y.sel p)).filter fun l => decide (lo ≤ l) && decide (l < lo + n)
/-- The units of the members with their folds: slice index, first lane, value. -/
def redUnits (p : Pred) (op : RedOp) (t : Ty) (a : VReg) (w : Nat) (fr : W64) (ys : List Slice) : List (Nat × W32) :=
  ys.flatMap fun y => (List.range (32 / w)).filterMap fun h =>
    (fold1 (redFn op t fr) ((activeLanes p y (w * h) w).map fun l => redRead t fr (y.rv a l))).map fun v => (32 * y.idx + w * h, v)

/-- `vred`: the fold of all units, or of the lane's own (05 R128). -/
def reduce (p : Pred) (sl : Bool) (op : RedOp) (t : Ty) (d a : VReg) (s : State) (x : Slice) : Slice :=
  let us := redUnits p op t a (unitW s x) x.fr (if sl then [x] else members s x)
  x.wv d (x.sel p) fun l =>
    ((if sl then (us.find? fun u => u.1 == unitLo s x l).map Prod.snd else fold1 (redFn op t x.fr) (us.map Prod.snd))).getD 0
/-- `vscan`: units before the lane's own, then its own lanes up to it. -/
def scan (p : Pred) (sl : Bool) (op : RedOp) (t : Ty) (d a : VReg) (s : State) (x : Slice) : Slice :=
  let us := redUnits p op t a (unitW s x) x.fr (members s x)
  x.wv d (x.sel p) fun l =>
    let lo := l / unitW s x * unitW s x
    let q := (fold1 (redFn op t x.fr) ((activeLanes p x lo (l - lo + 1)).map fun i => redRead t x.fr (x.rv a i))).getD 0
    if sl then q
    else (fold1 (redFn op t x.fr) ((us.filter fun u => decide (u.1 < unitLo s x l)).map Prod.snd ++ [q])).getD 0

def execVred (p : Pred) (sl : Bool) (op : RedOp) (t : Ty) (d a : VReg) (s : State) : Result :=
  regOpS (.vred p sl op t d a) (reduce p sl op t d a) s
def execVscan (p : Pred) (sl : Bool) (op : RedOp) (t : Ty) (d a : VReg) (s : State) : Result :=
  regOpS (.vscan p sl op t d a) (scan p sl op t d a) s

end Sys2Proof.Machine
end

