-- ==== Sys2Proof/Machine/ExecVec.lean ====
section
/-! DEFINITION. Execute-vector: lane-op words, the operand stacks, and the instructions of 08 R154, which
retire in issue order (R155). -/
namespace Sys2Proof.Machine

/-! ### The stacks (08 R151) -/

/-- Depth of a lane, and its stack with the top first. -/
def Xv.dep (v : Xv) (l : Nat) : Nat := (v.depth.get l).toNat
def Xv.stk (v : Xv) (l : Nat) : List W32 := (List.range (v.dep l)).map fun e => v.stack.get (8 * l + (v.dep l - 1 - e))
/-- A lane's stack replaced; entries at or above the depth count as zero. -/
def Xv.setStk (v : Xv) (l : Nat) (st : List W32) : Xv :=
  { v with stack := v.stack.setList (8 * l) ((st.reverse ++ List.replicate 8 0).take 8)
           depth := v.depth.set l (BitVec.ofNat 4 (min st.length 8)) }
/-- A write of `%lfm`: the lanes it leaves clear lose their fault codes (06 R132). -/
def Xv.setLfm (v : Xv) (m : W32) : Xv := { v with lfm := m, code := v.code.filter fun p => m.getLsbD p.1 }
/-- The faults of one step (06 R132). -/
def Xv.fault (v : Xv) (l : Nat) (c : Nat) : Xv :=
  { v with lfm := v.lfm ||| ((1 : W32) <<< l), code := v.code.set l (BitVec.ofNat 4 c) }

/-! ### One lane-op word (06 R131, 08 R148-R153) -/

/-- What a lane's word reads besides its stack. -/
structure LaneEnv where
  fr : W64 := 0
  cc : W64 := 0
  wu : W64 := 0
  handler : Bool := false
  consts : Cells 32 := []
  deriving DecidableEq, Repr

/-- A result or a fault code. -/
abbrev LRes (α : Type) := Except Nat α

/-- An operand: the value and the stack after its read (08 R149). -/
def readSel (k : W32) (win : List W32) (sel : Nat) (st : List W32) : LRes (W32 × List W32) :=
  match sel, st with
  | 0, a :: t => .ok (a, t)
  | 1, a :: t => .ok (a, a :: t)
  | 2, a :: b :: t => .ok (b, a :: b :: t)
  | 0, _ => .error lfLUND
  | 1, _ => .error lfLUND
  | 2, _ => .error lfLUND
  | 7, st => .ok (k, st)
  | n, st => .ok (win.getD (n - 3) 0, st)

/-- Delivers a result (08 R150): the stack, and a slot write. -/
def deliver (dst slot : Nat) (r : W32) (st : List W32) : LRes (List W32 × Option (Nat × W32)) :=
  match dst with
  | 0 => if 8 ≤ st.length then .error lfLOVF else .ok (r :: st, none)
  | 1 =>
    match st with
    | _ :: t => .ok (r :: t, none)
    | [] => .error lfLUND
  | 2 => .ok (st, some (slot, r))
  | _ => .ok (st, none)

/-- Lane operations of one operand (08 R153). -/
def lop1 (m : FrMode) (op : Nat) : Option (W32 → W32) :=
  let f := fun (g : Nat → Nat) => some fun (a : W32) => BitVec.ofNat 32 (g a.toNat)
  match op with
  | 0x01 => some id
  | 0x1B => f (cvt m .f32 .i32)
  | 0x1C => f (cvt m .i32 .f32)
  | 0x26 => f (fabs fp32)
  | 0x27 => f (fneg fp32)
  | 0x28 => f (frnd m)
  | 0x2D => f fun a => cvt m .f32 .f16 (a % 2 ^ 16)
  | 0x2E => f (cvt m .f16 .f32)
  | 0x38 => f (ftanh m)
  | 0x39 => f (fsigm m)
  | 0x3A => f (fexp2 fp32 m)
  | 0x3B => f (flog2 fp32 m)
  | 0x3C => f (ferf m)
  | 0x3D => f (frcp fp32 m)
  | 0x3E => f (frsq fp32 m)
  | _ => none

/-- Lane operations of two operands; `k` is the word's constant (08 R153). -/
def lop2 (m : FrMode) (k : W32) (op : Nat) : Option (W32 → W32 → W32) :=
  let f := fun (g : Nat → Nat → Nat) => some fun (a b : W32) => BitVec.ofNat 32 (g a.toNat b.toNat)
  let h := fun (g : Nat → Nat → Nat) => some (mapElems2 16 g)
  let c := fun (g : W32 → W32 → Bool) => some fun (a b : W32) => (b2w (g a b) : W32)
  match op with
  | 0x10 => some (· + ·)
  | 0x11 => some (· - ·)
  | 0x12 => some (· * ·)
  | 0x13 => some (· &&& ·)
  | 0x14 => some (· ||| ·)
  | 0x15 => some (· ^^^ ·)
  | 0x16 => f (eShl .n32)
  | 0x17 => f (eShr .n32)
  | 0x18 => f (eSra .i32)
  | 0x19 => f (eMin .i32)
  | 0x1A => f (eMax .i32)
  | 0x20 => f (fadd fp32 m)
  | 0x21 => f (fsub fp32 m)
  | 0x22 => f (fmul fp32 m)
  | 0x23 => f fun a b => ffma fp32 m a b k.toNat
  | 0x24 => f (fminmax fp32 false m)
  | 0x25 => f (fminmax fp32 true m)
  | 0x2A => h (fadd fp16 m)
  | 0x2B => h (fsub fp16 m)
  | 0x2C => h (fmul fp16 m)
  | 0x30 => c fun a b => fcmp fp32 m.ftz .eq a.toNat b.toNat
  | 0x31 => c fun a b => fcmp fp32 m.ftz .lt a.toNat b.toNat
  | 0x32 => c fun a b => fcmp fp32 m.ftz .le a.toNat b.toNat
  | 0x33 => c fun a b => a == b
  | 0x34 => c fun a b => condV .lt true a b
  | _ => none

/-- Runs one lane's word: the stack and the slot write it leaves, or its fault code (06 R131). -/
def runWord (e : LaneEnv) (win : List W32) (w : W32) (st : List W32) : LRes (List W32 × Option (Nat × W32)) :=
  let op := w.toNat % 256
  let asel := bitsOf w.toNat 8 3
  let bsel := bitsOf w.toNat 11 3
  let k := e.consts.get (bitsOf w.toNat 18 5)
  let out := deliver (bitsOf w.toNat 14 2) (bitsOf w.toNat 16 2)
  let m := frMode e.fr
  let priv := fun (r : W32) => if e.handler then out r st else .error lfLPRIV
  if bitsOf w.toNat 23 9 ≠ 0 then .error lfLRSV
  else match op with
    | 0x00 => .ok (st, none)
    | 0x02 =>
      match st with
      | a :: b :: t => .ok (b :: a :: t, none)
      | _ => .error lfLUND
    | 0x03 =>
      match st with
      | _ :: t => .ok (t, none)
      | [] => .error lfLUND
    | 0x04 => out (BitVec.ofNat 32 st.length) st
    | 0xE0 => priv (e.cc.setWidth 32)
    | 0xE1 => priv ((e.cc >>> 32).setWidth 32)
    | 0xE2 => priv (e.wu.setWidth 32)
    | 0x35 => do
      let (a, st) ← readSel k win asel st
      let (b, st) ← readSel k win bsel st
      match st with
      | c :: t => out (if c ≠ 0 then a else b) t
      | [] => .error lfLUND
    | op =>
      match lop1 m op, lop2 m k op with
      | some f, _ => do
        let (a, st) ← readSel k win asel st
        out (f a) st
      | none, some f => do
        let (a, st) ← readSel k win asel st
        let (b, st) ← readSel k win bsel st
        out (f a b) st
      | none, none => .error lfLILL

/-! ### Performing an issued instruction (08 R156-R160) -/

def XvOp.env (o : XvOp) (x : Slice) : LaneEnv :=
  { fr := o.fr, cc := o.cc, wu := o.wu, handler := o.handler, consts := x.xv.consts }

/-- What steps have written of the window: slot n of lane l under 32 n + l. -/
abbrev Slots := List (Nat × W32)
/-- The window of a lane as the steps find it: as it stood when the instruction issued, but for what steps have written since. -/
def XvOp.window (o : XvOp) (wr : Slots) (l : Nat) : List W32 :=
  (List.range 4).map fun n => ((wr.find? fun p => p.1 == 32 * n + l).map (·.2)).getD ((o.win.getD n []).getD l 0)
/-- The slots that were written reach their registers. -/
def XvOp.writeBack (o : XvOp) (r : Slice × Slots) : Slice :=
  r.2.foldl (fun (y : Slice) p => y.wv (o.w + BitVec.ofNat 8 (p.1 / 32)) ((1 : W32) <<< (p.1 % 32)) fun _ => p.2) r.1

/-- One step over the lanes of a mask: the slice and the slots after it, and the lanes that faulted (08 R156). -/
def xvStep1 (o : XvOp) (words : List W32) (live : W32) (x : Slice × Slots) : (Slice × Slots) × W32 :=
  (lanesOf live).foldl (fun (r : (Slice × Slots) × W32) l =>
    let ((y, wr), fl) := r
    match runWord (o.env y) (o.window wr l) (words.getD l 0) (y.xv.stk l) with
    | .error c => (({ y with xv := y.xv.fault l c }, wr), fl ||| ((1 : W32) <<< l))
    | .ok (st, w) =>
      (({ y with xv := y.xv.setStk l st }, match w with
        | some (n, v) => recPut Prod.fst wr (32 * n + l) (32 * n + l, v)
        | none => wr), fl)) (x, 0)

/-- The steps of a run from step `j` on (08 R157): the slice and the slots, and the faulted lanes that stopped it. -/
def xvRunFrom (o : XvOp) : List (List W32) → Nat → W32 → Slice × Slots → (Slice × Slots) × W32
  | [], _, _, x => (x, 0)
  | ws :: t, j, live, x =>
    let ((y, wr), fl) := xvStep1 o ws live x
    if fl = 0 then xvRunFrom o t (j + 1) live (y, wr)
    else if o.nt then
      xvRunFrom o t (j + 1) (live &&& ~~~fl) (y, wr)
    else (({ y with xv := { y.xv with resume := some (o.pc, j + 1) } }, wr), fl)

/-- Push or pop in the selected lanes (08 R160). -/
def xvPush1 (o : XvOp) (x : Slice) : Slice × W32 :=
  (lanesOf o.sel).foldl (fun (r : Slice × W32) l =>
    let (y, fl) := r
    if 8 ≤ y.xv.dep l then ({ y with xv := y.xv.fault l lfLOVF }, fl ||| ((1 : W32) <<< l))
    else ({ y with xv := y.xv.setStk l ((o.ops.headD []).getD l 0 :: y.xv.stk l) }, fl)) (x, 0)
def xvPop1 (o : XvOp) (x : Slice) : Slice × W32 :=
  (lanesOf o.sel).foldl (fun (r : Slice × W32) l =>
    let (y, fl) := r
    match y.xv.stk l with
    | [] => ({ y with xv := y.xv.fault l lfLUND }, fl ||| ((1 : W32) <<< l))
    | a :: t => (({ y with xv := y.xv.setStk l t }).wv o.w ((1 : W32) <<< l) fun _ => a, fl)) (x, 0)

/-- The effect of an instruction at its retirement: the slice, the window slots that steps have written, and the lanes for which
it takes LANEF. `xv.run` empties the resume point also with N = 0, as the pseudocode has it (08 R157; log 127). -/
def xvSlots (o : XvOp) (x : Slice) : (Slice × Slots) × W32 :=
  let trap := fun (r : Slice × W32) => ((r.1, ([] : Slots)), if o.nt then 0 else r.2)
  match o.kind with
  | .step => let r := xvStep1 o (o.ops.headD []) o.sel (x, []); (r.1, if o.nt then 0 else r.2)
  | .run =>
    let j0 := match x.xv.resume with | some (a, k) => if a = o.pc then k else 0 | none => 0
    let x := { x with xv := { x.xv with resume := none } }
    xvRunFrom o (o.ops.drop j0) j0 o.sel (x, [])
  | .ldk => (({ x with xv := { x.xv with consts := Cells.setList [] 0 (o.ops.headD []) } }, []), 0)
  | .clr =>
    let v := (lanesOf o.sel).foldl (fun (v : Xv) l => { v.setStk l [] with code := v.code.set l 0 }) x.xv
    (({ x with xv := { v with lfm := v.lfm &&& ~~~o.sel, resume := none } }, []), 0)
  | .push => trap (xvPush1 o x)
  | .pop => trap (xvPop1 o x)
/-- The same with the slots written to their registers. -/
def xvPerform (o : XvOp) (x : Slice) : Slice × W32 := let r := xvSlots o x; (o.writeBack r.1, r.2)

/-- The record of LANEF: a run resumes at itself, the others at the next instruction (08 R163). -/
def lanefTrap (fl : W32) (o : XvOp) : TrapInfo :=
  { code := tLANEF, pc := o.pc, rpc := if o.kind == .run then o.pc else o.pc + 8, word := o.word
    lane := match (lanesOf fl).head? with | some l => BitVec.ofNat 8 l | none => 0xFF }

/-- What an instruction leaves at its retirement, and the lanes for which it takes LANEF. -/
def xvResult (o : XvOp) (rest : List XvOp) (x : Slice) : Slice × W32 := xvPerform o { x with xv := { x.xv with queue := rest } }
/-- Two results are the same: stacks, fault codes, `%lfm`, resume point, table and what was written of the registers (21 R337). -/
def xvSame (o p : XvOp) (x z : Slice) : Bool :=
  let a := xvSlots o x
  let b := xvSlots p z
  a.2 == b.2 && a.1.2 == b.1.2 && { a.1.1.xv with queue := [] } == { b.1.1.xv with queue := [] }
/-- The oldest issued instruction of a slice retires (08 R155); LANEF is taken then (08 R163). A shadow that differs executes its
own, and a result that is another is a mismatch, of which nothing is released (21 R337). -/
def xvRetireOne (s : State) (id : Nat) : State :=
  let x := s.slice id
  match x.xv.queue with
  | [] => s
  | o :: t =>
    if (s.shadow? id).any fun z => !xvSame o (z.xv.queue.headD o) x (shadowRegs z x) then (s.updSlice id fun x => { x with xv := { x.xv with queue := t } }).consume x.block (some (.paddock x.pk))
    else
    let (y, bad) := xvResult o t x
    let s : State := (s.putSlice y).count x.ck 0x21 (popc (y.xv.lfm &&& ~~~x.xv.lfm))
    let s : State := { s with shadows := recUpd Slice.id s.shadows id fun z => (xvResult (z.xv.queue.headD o) z.xv.queue.tail (shadowRegs z x)).1 }
    if bad ≠ 0 then takeTrap s id (lanefTrap bad o) else s

def execXvRetire (id : Nat) (s : State) : Result := .next (xvRetireOne s id)

/-! ### Issue (08 R154, R155) -/

/-- Selection of an execute-vector instruction: kM & `k0` (08 R156). -/
def xvSel (x : Slice) (km : KReg) : W32 := x.rk km &&& x.rk 0
/-- What every issued instruction records. -/
def xvOp (s : State) (x : Slice) (kind : XvKind) (nt : Bool) (w : VReg) (sel : W32) (ops : List (List W32)) : XvOp :=
  let steps : Bool := kind == .step || kind == .run
  { kind := kind, pc := x.pc, nt := nt, sel := sel, w := w, ops := ops
    win := if steps then (List.range 4).map fun n => x.rvAll (w + BitVec.ofNat 8 n) else []
    fr := x.fr, cc := s.ccTurn x
    wu := (s.ctxOf x).wu, handler := x.handler, word := s.word }
/-- Issues an instruction into the slice's unit; a form that may trap holds the slice until it has retired. A member in
which it does nothing goes on with the members that hold, so that the group does not split (02 R27, 08 R165). -/
def xvIssue (i : Instr) (hold : Bool) (op : State → Slice → XvOp) (s : State) : Result :=
  .next (issue i s fun s =>
    let none : Bool := s.group.all fun j => (s.slice j).rk 0 == 0
    s.mapGroup fun x =>
    if x.run == .waiting .xvDone then { advance x with run := .ready }
    else if x.rk 0 = 0 then (if hold && !none then { x with run := .waiting .xvDone } else advance x)
    else
      let y := { x with xv := { x.xv with queue := x.xv.queue ++ [op s x] } }
      if hold then { y with run := .waiting .xvDone } else advance y)
/-- An instruction that begins only when every earlier execute-vector instruction has retired: until then the
group holds. -/
def xvAfter (s : State) (run : State → State) : State :=
  if s.group.any fun i => !(s.slice i).xv.queue.isEmpty then s.mapGroup fun x => { x with run := .waiting .xv }
  else run (s.mapGroup fun x => if x.run == .waiting .xv then { x with run := .ready } else x)

def execXvStep (nt : Bool) (op w : VReg) (km : KReg) (s : State) : Result :=
  xvIssue (.xvStep nt op w km) (!nt) (fun s x => xvOp s x .step nt w (xvSel x km) [x.rvAll op]) s
/-- Every opcode register is read at issue (08 R157). -/
def execXvRun (nt : Bool) (base w : VReg) (km : KReg) (n : SReg) (s : State) : Result :=
  xvIssue (.xvRun nt base w km n) (!nt) (fun s x =>
    xvOp s x .run nt w (xvSel x km) ((List.range (min (x.rs n).toNat 256)).map fun j => x.rvAll (base + BitVec.ofNat 8 j))) s
def execXvLdk (a : VReg) (s : State) : Result :=
  xvIssue (.xvLdk a) false (fun s x => xvOp s x .ldk true 0 0 [x.rvAll a]) s
def execXvClr (km : KReg) (s : State) : Result :=
  xvIssue (.xvClr km) false (fun s x => xvOp s x .clr true 0 (xvSel x km) []) s
def execXvPush (nt : Bool) (a : VReg) (km : KReg) (s : State) : Result :=
  xvIssue (.xvPush nt a km) (!nt) (fun s x => xvOp s x .push nt 0 (xvSel x km) [x.rvAll a]) s
def execXvPop (nt : Bool) (d : VReg) (km : KReg) (s : State) : Result :=
  xvIssue (.xvPop nt d km) (!nt) (fun s x => xvOp s x .pop nt d (xvSel x km) []) s

/-- A per-lane value read from the state, written through the landing buffer (08 R155, R161, 06 R132). -/
def xvRead (i : Instr) (d : VReg) (f : Xv → Nat → W32) (s : State) : Result :=
  .next (issue i s fun s => xvAfter s fun s => s.mapGroup fun x =>
    if x.rk 0 = 0 then advance x
    else advance { x with land := x.land ++ [.v d (x.rk 0) ((List.range 32).map (f x.xv))] })
def execXvDep (d : VReg) (s : State) : Result := xvRead (.xvDep d) d (fun v l => BitVec.ofNat 32 (v.dep l)) s
def execXvStat (d : VReg) (s : State) : Result := xvRead (.xvStat d) d (fun v l => (v.code.get l).setWidth 32) s

/-! ### Images (08 R162) -/

/-- The 1280-byte image of the execute-vector state. -/
def Xv.image (v : Xv) : List Byte :=
  ((List.range 32).flatMap fun l => (List.range 8).flatMap fun e => leBytes 4 (if e < v.dep l then (v.stack.get (8 * l + e)).toNat else 0)) ++
  ((List.range 32).flatMap fun i => leBytes 4 (v.consts.get i).toNat) ++
  ((List.range 32).map fun l => BitVec.ofNat 8 (v.dep l + 16 * (v.code.get l).toNat)) ++
  leBytes 4 v.lfm.toNat ++
  (match v.resume with
   | some (a, j) => leBytes 4 (j + 2 ^ 31) ++ leBytes 8 a.toNat
   | none => leBytes 12 0) ++ List.replicate 80 0

/-- The state an image holds, or none where R162 finds a fault in it. -/
def Xv.ofImage (b : List Byte) : Option Xv :=
  let w := fun off n => leNat ((b.drop off).take n)
  let dep := fun l => w (0x480 + l) 1 % 16
  let code := fun l => w (0x480 + l) 1 / 16
  let lfm := w 0x4A0 4
  let rp := w 0x4A4 4
  let j := rp % 512
  let valid := rp / 2 ^ 31 == 1
  let lanes := List.range 32
  if lanes.any (fun l => decide (8 < dep l) || decide (5 < code l) || (code l != 0 && !lfm.testBit l)) ||
      (valid && (j == 0 || decide (256 < j))) || bitsOf rp 9 22 != 0 || w 0x4B0 80 != 0 || (!valid && w 0x4A8 8 != 0) then none
  else
    let stack := lanes.foldl (fun (m : Cells 32) l => (List.range (dep l)).foldl (fun (m : Cells 32) e =>
      m.set (8 * l + e) (BitVec.ofNat 32 (w (32 * l + 4 * e) 4))) m) []
    some { stack := stack
           depth := Cells.setList [] 0 (lanes.map fun l => BitVec.ofNat 4 (dep l))
           consts := Cells.setList [] 0 (lanes.map fun i => BitVec.ofNat 32 (w (0x400 + 4 * i) 4))
           code := Cells.setList [] 0 (lanes.map fun l => BitVec.ofNat 4 (code l))
           lfm := BitVec.ofNat 32 lfm
           resume := if valid then some (BitVec.ofNat 64 (w 0x4A8 8), j) else none }

/-- Address of an image and its checks: `p` is the permission needed (08 R162). -/
def xvAddr (x : Slice) (c : CReg) (r : SReg) (imm : BitVec 14) : Int := (x.rc c).base + (x.rs r).toInt + imm.toInt
def xvFail (p : Nat) (c : CReg) (r : SReg) (imm : BitVec 14) (s : State) (x : Slice) : Option TrapInfo :=
  (capCheck s x (x.rc c) [1, 2, 3] [p] (xvAddr x c r imm) 1280 16).map fun code =>
    trapAt s x code 0 (toW64 (xvAddr x c r imm))
def execXvSave (c : CReg) (r : SReg) (imm : BitVec 14) (s : State) : Result :=
  trapOp (.xvSave c r imm) (xvFail pS c r imm) (fun s => xvAfter s fun s => seqOp s fun (s : State) (x : Slice) =>
    (wrBytes s x (x.rc c) (xvAddr x c r imm) x.xv.image).updSlice x.id advanceH) s
/-- ILLCFG where the image is faulty (08 R162). -/
def xvLoadTrap (c : CReg) (r : SReg) (imm : BitVec 14) (s : State) (x : Slice) : Option TrapInfo :=
  match xvFail pL c r imm s x with
  | some t => some t
  | none =>
    if (Xv.ofImage (rdBytes s x (x.rc c) (xvAddr x c r imm) 1280)).isNone then some (trapAt s x tILLCFG 2 0) else none
def execXvLoad (c : CReg) (r : SReg) (imm : BitVec 14) (s : State) : Result :=
  trapOp (.xvLoad c r imm) (xvLoadTrap c r imm) (fun s => xvAfter s fun s => s.mapGroup fun x =>
    match Xv.ofImage (rdBytes s x (x.rc c) (xvAddr x c r imm) 1280) with
    | some v => advance { x with xv := { v with queue := x.xv.queue } }
    | none => x) s

end Sys2Proof.Machine
end

