-- ==== Sys2Proof/Machine/Mem.lean ====
section
/-! DEFINITION. Loads, stores, fences and atomics on the on-die spaces (11 R189-R203). Every access is performed
at its issue; a loaded value lands later (02 R50). -/
namespace Sys2Proof.Machine

/-- Bytes of an element of a type. -/
def tyBytes (t : Ty) : Nat := t.width / 8
/-- A loaded value extended as its type says, to `w` bits (11 R190). -/
def extLoad (w : Nat) (t : Ty) (v : Nat) : BitVec w := BitVec.ofInt w (elemInt t.signed t.width v)

/-- The failed check of a slice-level access (10 R178). -/
def memFail (spaces perms : List Nat) (n align : Nat) (c : CReg) (i : Idx) (off : Int) (s : State) (x : Slice) :
    Option TrapInfo :=
  let a := addrS x (x.rc c) i off
  (capCheck s x (x.rc c) spaces perms a n align).map fun code => trapAt s x code 0 (toW64 a)
/-- The failure that a per-lane access reports (10 R178, 13 R228). -/
def laneFail (spaces perms : List Nat) (n : Nat) (p : Pred) (c : CReg) (i : Idx) (off : Int) (s : State) (x : Slice) :
    Option TrapInfo :=
  (firstFail ((lanesOf (x.sel p)).filterMap fun l =>
    let a := addrV x (x.rc c) i off l n
    (capCheck s x (x.rc c) spaces perms a n n).map fun code => { code := code, lane := l, info := toW64 a })).map (failTrap s x)

/-- A result on its way to the landing buffer; a write to `s0` or `c0` is discarded. -/
def landS (d : SReg) (v : W64) (x : Slice) : Slice := if d = 0 then x else { x with land := x.land ++ [.s d v] }
def landC (d : CReg) (v : Cap) (x : Slice) : Slice := if d = 0 then x else { x with land := x.land ++ [.c d v] }
def landV (d : VReg) (m : W32) (v : Nat → W32) (x : Slice) : Slice :=
  if m = 0 then x else { x with land := x.land ++ [.v d m ((List.range 32).map v)] }

/-- The oldest pending result of a slice is written whole (02 R50). -/
def execLoadDataReturn (id : Nat) (s : State) : Result :=
  .next (s.updSlice id fun x =>
    match x.land with
    | [] => x
    | l :: t => landOne { x with land := t } l)

/-! ### Slice-level accesses (11 R190) -/

/-- Value of `n` bytes at a checked address. -/
def loadNat (s : State) (x : Slice) (c : Cap) (a : Int) (n : Nat) : Nat := leNat (rdBytes s x c a n)

def execLd (o : Ord) (sc : Scope) (t : Ty) (d : SReg) (c : CReg) (i : Idx) (off : BitVec 13) (s : State) : Result :=
  trapOp (.ld o sc t d c i off) (memFail [1, 2, 3] [pL] (tyBytes t) (tyBytes t) c i off.toInt)
    (fun s => s.mapGroup fun x =>
      advance (landS d (extLoad 64 t (loadNat s x (x.rc c) (addrS x (x.rc c) i off.toInt) (tyBytes t))) x)) s

def execSt (o : Ord) (sc : Scope) (t : Ty) (d : SReg) (c : CReg) (i : Idx) (off : BitVec 13) (s : State) : Result :=
  trapOp (.st o sc t d c i off) (memFail [1, 2, 3] [pS] (tyBytes t) (tyBytes t) c i off.toInt)
    (fun s => seqOp s fun (s : State) (x : Slice) =>
      (wrBytes s x (x.rc c) (addrS x (x.rc c) i off.toInt) (leBytes (tyBytes t) (x.rs d).toNat)).updSlice x.id advanceH) s

/-- Tag of a unit as a context reads it (10 R180). -/
def tagFor (s : State) (key ctx : Nat) : Bool :=
  let t := (s.tag key).toNat
  t % 2 == 1 && (t / 2 % 2 == 0 || t / 4 == ctx)
/-- The capability at a checked address (11 R190, 10 R177, R179). -/
def loadCap (s : State) (x : Slice) (c : Cap) (a : Int) : Cap :=
  let bits := BitVec.ofNat 128 (loadNat s x c a 16)
  { bits := bits, tag := tagFor s (keyAt s x c a) x.ctx && c.has pC && Cap.tagOk bits }
/-- The tag stored with a capability in a space (10 R179, R180). -/
def tagStored (space ctx : Nat) (v : Cap) : Byte :=
  tagByte (v.tag && (space == 2 || space == 3 || (space != 5 && v.has pG))) (v.has pK) ctx

def execLdc (o : Ord) (sc : Scope) (d c : CReg) (i : Idx) (off : BitVec 13) (s : State) : Result :=
  trapOp (.ldc o sc d c i off) (memFail [1, 2, 3] [pL] 16 16 c i off.toInt)
    (fun s => s.mapGroup fun x => advance (landC d (loadCap s x (x.rc c) (addrS x (x.rc c) i off.toInt)) x)) s

def execStc (o : Ord) (sc : Scope) (d c : CReg) (i : Idx) (off : BitVec 13) (s : State) : Result :=
  trapOp (.stc o sc d c i off) (memFail [1, 2, 3] [pW] 16 16 c i off.toInt)
    (fun s => seqOp s fun (s : State) (x : Slice) =>
      let a := addrS x (x.rc c) i off.toInt
      let s : State := wrBytes s x (x.rc c) a (leBytes 16 (x.rc d).bits.toNat)
      (s.setTag (keyAt s x (x.rc c) a) (tagStored (x.rc c).space x.ctx (x.rc d))).updSlice x.id advanceH) s

/-! ### Per-lane accesses (11 R191) -/

def execLdV (p : Pred) (t : Ty) (d : VReg) (c : CReg) (i : Idx) (off : BitVec 13) (s : State) : Result :=
  trapOp (.ldV p t d c i off) (laneFail [1, 2, 3] [pL] (tyBytes t) p c i off.toInt)
    (fun s => s.mapGroup fun x =>
      advance (landV d (x.sel p) (fun l =>
        extLoad 32 t (loadNat s x (x.rc c) (addrV x (x.rc c) i off.toInt l (tyBytes t)) (tyBytes t))) x)) s

/-- The store of one lane. -/
def stLane (t : Ty) (d : VReg) (c : CReg) (i : Idx) (off : Int) (x : Slice) (s : State) (l : Nat) : State :=
  wrBytes s x (x.rc c) (addrV x (x.rc c) i off l (tyBytes t)) (leBytes (tyBytes t) (x.rv d l).toNat)
/-- Lanes ascending: the higher lane decides a byte that two write (11 R191). -/
def execStV (p : Pred) (t : Ty) (d : VReg) (c : CReg) (i : Idx) (off : BitVec 13) (s : State) : Result :=
  trapOp (.stV p t d c i off) (laneFail [1, 2, 3] [pS] (tyBytes t) p c i off.toInt)
    (fun s => seqOp s fun (s : State) (x : Slice) =>
      ((lanesOf (x.sel p)).foldl (stLane t d c i off.toInt x) s).updSlice x.id
        (if x.sel p = 0 then advance else advanceH)) s

/-! ### Fences (11 R200) -/

/-- The commands that a fence of an order waits for: the slice's far atomics, and its reductions too for a release. -/
def fenceWaits (o : Ord) (s : State) (x : Slice) : List Nat :=
  (s.cmds.filter fun c => c.slice == x.id && c.stage != 3 && (c.kind == 6 || (o == .rel && c.kind == 7))).map Command.id
/-- The group holds while a member must wait; the end of a fence does not reset the hang counter (02 R36). -/
def execFence (o : Ord) (sc : Scope) (s : State) : Result :=
  .next (issue (.fence o sc) s fun s =>
    if s.group.all fun i => let x := s.slice i; reissued x || (fenceWaits o s x).isEmpty then
      s.mapGroup fun x => { advance x with run := .ready }
    else settle (s.mapGroup fun x => { x with run := .waiting (.cmds (fenceWaits o s x)) }))

/-! ### Atomics (11 R201-R203) -/

/-- The memory value that a read-modify-write leaves, from the old value `m`, A and D. -/
abbrev Rmw := Nat → Nat → Nat → Nat

/-- The operations of `atm` (11 R202) on a type. -/
def atmFn (op : AtmOp) (t : Ty) : Rmw := fun m a d =>
  match op with
  | .add => (m + a) % 2 ^ t.width
  | .and => m &&& a
  | .or => m ||| a
  | .xor => m ^^^ a
  | .min => eMin t m a
  | .max => eMax t m a
  | .xchg => a
  | .cas => if m = d then a else m
/-- The queue-oriented forms (11 R203). -/
def bincFn : Rmw := fun m a _ => if m < a then m + 1 else m
def wincFn : Rmw := fun m a _ => if m < a then m + 1 else 0
def cdecFn (t : Ty) : Rmw := fun m _ _ => if 0 < ev t m then m - 1 else m

/-- Permissions of an atomic (11 R201): A, and L where a value returns. -/
def atmPerms (d : VReg) (i : Idx) : List Nat := if i.isVector || lowS d != 0 then [pA, pL] else [pA]
/-- The checks of an atomic. -/
def atmFail (p : Pred) (t : Ty) (d : VReg) (c : CReg) (i : Idx) (s : State) (x : Slice) : Option TrapInfo :=
  if i.isVector then laneFail [1, 2] (atmPerms d i) (tyBytes t) p c i 0 s x
  else memFail [1, 2] (atmPerms d i) (tyBytes t) (tyBytes t) c i 0 s x

/-- One read-modify-write at a checked address: the state after it, the old value, whether memory changed. -/
def rmwAt (s : State) (x : Slice) (c : Cap) (a : Int) (t : Ty) (f : Rmw) (va vd : Nat) : State × Nat × Bool :=
  let m := loadNat s x c a (tyBytes t)
  let m' := f m va vd
  (wrBytes s x c a (leBytes (tyBytes t) m'), m, m' != m)

/-- An atomic of one slice: a scalar access, or the selected lanes in ascending order (11 R201). -/
def atmSlice (p : Pred) (t : Ty) (f : Rmw) (d : VReg) (c : CReg) (i : Idx) (a : VReg) (s : State) (x : Slice) : State :=
  if i.isVector then
    let (s, olds, ch) := (lanesOf (x.sel p)).foldl (fun (r : State × Cells 32 × Bool) l =>
      let (s, olds, ch) := r
      let ad := addrV x (x.rc c) i 0 l (tyBytes t)
      let (s, m, b) := rmwAt (sampleAtm s x (x.rc c).space (toW64 ad)) x (x.rc c) ad t f (x.rv a l).toNat (x.rv d l).toNat
      (s, olds.set l (BitVec.ofNat 32 m), ch || b)) (s, [], false)
    s.updSlice x.id fun x => (if ch then advanceH else advance) (landV d (x.sel p) olds.get x)
  else
    let w := 2 ^ t.width
    let ad := addrS x (x.rc c) i 0
    let (s, m, b) := rmwAt (sampleAtm s x (x.rc c).space (toW64 ad)) x (x.rc c) ad t f ((x.rs (lowS a)).toNat % w)
      ((x.rs (lowS d)).toNat % w)
    s.updSlice x.id fun x => (if b then advanceH else advance) (landS (lowS d) (extLoad 64 t m) x)

/-- An atomic instruction of the group, in ascending slice order. -/
def atmOp (i : Instr) (p : Pred) (t : Ty) (f : Rmw) (d : VReg) (c : CReg) (x : Idx) (a : VReg) (s : State) : Result :=
  trapOp i (atmFail p t d c x) (fun s => seqOp s (atmSlice p t f d c x a)) s

def execAtm (p : Pred) (op : AtmOp) (o : Ord) (sc : Scope) (t : Ty) (d : VReg) (c : CReg) (x : Idx) (a : VReg)
    (s : State) : Result := atmOp (.atm p op o sc t d c x a) p t (atmFn op t) d c x a s
def execAtmBinc (p : Pred) (o : Ord) (sc : Scope) (t : Ty) (d : VReg) (c : CReg) (x : Idx) (a : VReg) (s : State) :
    Result := atmOp (.atmBinc p o sc t d c x a) p t bincFn d c x a s
def execAtmWinc (p : Pred) (o : Ord) (sc : Scope) (t : Ty) (d : VReg) (c : CReg) (x : Idx) (a : VReg) (s : State) :
    Result := atmOp (.atmWinc p o sc t d c x a) p t wincFn d c x a s
def execAtmCdec (p : Pred) (o : Ord) (sc : Scope) (t : Ty) (d : VReg) (c : CReg) (x : Idx) (s : State) : Result :=
  atmOp (.atmCdec p o sc t d c x) p t (cdecFn t) d c x 0 s

/-- Bounded add: the limit stands at a + 8, and a refused add sets bit 63 of the result (11 R203). -/
def faddlSlice (d : SReg) (c : CReg) (i : Idx) (a : SReg) (s : State) (x : Slice) : State :=
  let cap := x.rc c
  let ad := addrS x cap i 0
  let m := loadNat s x cap ad 8
  let lim := loadNat s x cap (ad + 8) 8
  let v := (x.rs a).toNat
  let ok : Bool := decide (m + v ≤ lim)
  let s : State := sampleAtm s x cap.space (toW64 ad)
  let s : State := wrBytes s x cap ad (leBytes 8 (if ok then m + v else m))
  let r : W64 := BitVec.ofNat 64 (2 ^ 63 * b2n (!ok) + m % 2 ^ 63)
  s.updSlice x.id fun x => (if ok && v != 0 then advanceH else advance) (landS d r x)
def execAtmFaddl (o : Ord) (sc : Scope) (d : SReg) (c : CReg) (x : Idx) (a : SReg) (s : State) : Result :=
  trapOp (.atmFaddl o sc d c x a) (memFail [1, 2] (if d = 0 then [pA] else [pA, pL]) 16 16 c x 0)
    (fun s => seqOp s (faddlSlice d c x a)) s

end Sys2Proof.Machine
end

