-- ==== Sys2Proof/Machine/Translate.lean ====
section
/-! DEFINITION. Page-table walks, the translation caches and accesses through them (10 R183-R187). -/
namespace Sys2Proof.Machine

/-- A translated byte: its key, the bytes left in its page or bank, whether tags may pass there. -/
structure Where where
  key : Nat := 0
  left : Nat := 0
  tg : Bool := true
  deriving DecidableEq, Repr

/-- A translation fault: cause 1 not present, 2 not granted, 3 malformed; and the level of the walk (10 R187). -/
structure TFault where
  cause : Nat
  level : Nat
  deriving DecidableEq, Repr

/-- Bytes that one entry of a level covers (10 R183). -/
def levelSize (l : Nat) : Nat := 2 ^ (51 - 12 * l)
/-- Index of an address in the table of a level. -/
def levelIndex (va l : Nat) : Nat := bitsOf va (51 - 12 * l) (if l = 0 then 6 else 12)

def pteV (p : W64) : Bool := p.getLsbD 0
def pteLeaf (p : W64) : Bool := p.getLsbD 1
def pteRd (p : W64) : Bool := p.getLsbD 2
def pteWr (p : W64) : Bool := p.getLsbD 3
def pteTg (p : W64) : Bool := p.getLsbD 4
def ptePa (p : W64) : Nat := bitsOf p.toNat 15 33 * 2 ^ 15

/-- A present entry that breaks the layout: `res0` bits, a misplaced leaf or table, an address outside the
package's memory (10 R184, R187). -/
def pteMalformed (part : Part) (l : Nat) (p : W64) : Bool :=
  bitsOf p.toNat 48 8 != 0 || bitsOf p.toNat 7 8 != 0 || (pteLeaf p && l == 0) || (!pteLeaf p && l == 3) ||
    (pteLeaf p && ptePa p % levelSize l != 0) ||
    decide (part.hbmBytes < ptePa p + (if pteLeaf p then levelSize l else 2 ^ 15))

/-- The cached entry of one level that covers an address, of the context and generation: a leaf of the paddock that makes the
access, where one does, or a table entry of the die's walkers (10 R185). -/
def tlbEntry (s : State) (pk : Option Nat) (k : Nat) (gen : W16) (va l : Nat) : Option TlbEntry :=
  s.tlb.find? fun e => (e.pdk.isNone || e.pdk == pk) && e.die == k / 64 && e.ctx == k % 64 && e.gen == gen && e.size == levelSize l &&
    decide (e.base ≤ va) && decide (va < e.base + e.size)
/-- Keeps a leaf or table entry that a walk read. A paddock's cache holds 64 leaves: the one kept first makes room (log 98). -/
def tlbKeep (s : State) (pk : Option Nat) (k : Nat) (gen : W16) (va l : Nat) (p : W64) : State :=
  let e : TlbEntry := { pdk := if pteLeaf p then pk else none, die := k / 64, ctx := k % 64, gen := gen, base := va / levelSize l * levelSize l, size := levelSize l, pte := p }
  if pteLeaf p && pk.isNone then s
  else
    let rest := s.tlb.filter fun f => !(f.pdk == e.pdk && f.die == e.die && f.ctx == e.ctx && f.base == e.base && f.size == e.size)
    { s with tlb := if e.pdk.isNone then e :: rest else e :: (rest.filter fun f => f.pdk == e.pdk).take 63 ++ rest.filter fun f => f.pdk != e.pdk }

/-- The leaf that a walk found, with its level and the address of its entry. -/
structure Leaf where
  pte : W64
  level : Nat
  entry : Nat
  deriving DecidableEq, Repr

/-- A walk from the table at `table` on `n` more levels (10 R183, R185). An entry of a level whose cached copy
differs from memory may be read either way until its invalidation completes (R186). -/
def walkFrom (pk : Option Nat) (k : Nat) (gen : W16) (va table : Nat) : Nat → State → Except TFault Leaf × State
  | 0, s => (.error ⟨3, 3⟩, s)
  | n + 1, s =>
    let l := 3 - n
    let at' := table + 8 * levelIndex va l
    let now : W64 := BitVec.ofNat 64 (leNat (s.rd at' 8))
    let (p, s) : W64 × State :=
      match tlbEntry s pk k gen va l with
      | some e =>
        if e.pte ||| 0x60 == now ||| 0x60 then (now, s)
        else
          let (b, s) := s.freeBit
          (if b then e.pte else now, s)
      | none => (now, s)
    if !pteV p then (.error ⟨1, l⟩, s)
    else if pteMalformed s.part l p then (.error ⟨3, l⟩, s)
    else if pteLeaf p then (.ok ⟨p, l, at'⟩, s)
    else walkFrom pk k gen va (ptePa p) n (tlbKeep s pk k gen va l p)

/-- A whole walk; a top table outside the package's memory is malformed. -/
def walk (s : State) (pk : Option Nat) (k : Nat) (gen : W16) (va : Nat) : Except TFault Leaf × State :=
  if s.part.hbmBytes < (s.ctx k).top + 2 ^ 15 then (.error ⟨3, 0⟩, s)
  else walkFrom pk k gen va (s.ctx k).top 4 s

/-- Keys of the entries that a walk reads: those that no cache of the walk holds. -/
def walkFromKeys (s : State) (pk : Option Nat) (k : Nat) (gen : W16) (va table : Nat) : Nat → List Nat
  | 0 => []
  | n + 1 =>
    let l := 3 - n
    let at' := table + 8 * levelIndex va l
    let hit := tlbEntry s pk k gen va l
    let p := (hit.map TlbEntry.pte).getD (BitVec.ofNat 64 (leNat (s.rd at' 8)))
    (if hit.isSome then [] else [at']) ++
      (if !pteV p || pteMalformed s.part l p || pteLeaf p then [] else walkFromKeys s pk k gen va (ptePa p) n)
/-- A cached leaf that covers an address. -/
def tlbLeaf (s : State) (pk : Option Nat) (k : Nat) (gen : W16) (va : Nat) : Option Leaf :=
  [1, 2, 3].findSome? fun l => match tlbEntry s pk k gen va l with
    | some e => if pteLeaf e.pte then some ⟨e.pte, l, 0⟩ else none
    | none => none

/-- None where a cached leaf serves. -/
def walkKeys (s : State) (pk : Option Nat) (k : Nat) (gen : W16) (va : Nat) : List Nat :=
  if (tlbLeaf s pk k gen va).isSome || decide (s.part.hbmBytes < (s.ctx k).top + 2 ^ 15) then [] else walkFromKeys s pk k gen va (s.ctx k).top 4
/-- What a leaf grants. -/
def leafResult (s : State) (va : Nat) (r w : Bool) (f : Leaf) : Except TFault Where × State :=
  if (r && !pteRd f.pte) || (w && !pteWr f.pte) then (.error ⟨2, f.level⟩, s)
  else
    let o := va % levelSize f.level
    (.ok { key := ptePa f.pte + o, left := levelSize f.level - o, tg := pteTg f.pte }, s)

/-- Sets ACC, and DRT for a write, in the entry of a granted leaf, and keeps the leaf (10 R184, R185). -/
def leafUse (s : State) (pk : Option Nat) (k : Nat) (gen : W16) (va : Nat) (w : Bool) (f : Leaf) : State :=
  let p := f.pte ||| 0x20 ||| (if w then 0x40 else 0)
  let now : W64 := BitVec.ofNat 64 (leNat (s.rd f.entry 8))
  let s : State := if now ||| (p &&& 0x60) == now then s else s.wr f.entry (leBytes 8 (now ||| (p &&& 0x60)).toNat)
  tlbKeep s pk k gen va f.level p

/-- Translates one address of space 0 for a context's key (10 R183-R187), of a paddock where
one makes the access. A cached leaf that memory no longer
agrees with may still be used until its invalidation completes (R186). The walk takes bits [56:0] of an address that has more
(log 109). -/
def translate (s : State) (k : Nat) (gen : W16) (va : Nat) (r w : Bool) (pk : Option Nat := none) : Except TFault Where × State :=
  let (f, s') := walk s pk k gen va
  let go := fun (s : State) => match f with
    | .error e => ((.error e : Except TFault Where), s)
    | .ok leaf =>
      match leafResult s va r w leaf with
      | (.error e, s) => (.error e, s)
      | (.ok x, s) => (.ok x, leafUse s pk k gen va w leaf)
  match tlbLeaf s pk k gen va with
  | none => go (s'.count k 0x11 1)
  | some c =>
    if w && !c.pte.getLsbD 6 then go s'
    else
      let same := match f with
        | .ok leaf => leaf.level == c.level && leaf.pte ||| 0x60 == c.pte ||| 0x60
        | .error _ => false
      if same then leafResult s va r w c
      else
        let (b, s) := s.freeBit
        if b then leafResult s va r w c else go s'

/-- Whose memory an address of spaces 0 to 3 names. -/
structure Owner where
  k : Nat := 0
  gen : W16 := 0
  slice : Nat := 0
  block : Nat := 0
  deriving DecidableEq, Repr
def ownerOf (s : State) (x : Slice) : Owner := { k := x.ck, gen := (s.ctxOf x).gen, slice := x.id, block := x.block }

/-- Bytes from an on-die address to the end of its bank, or of an area of shared memory. -/
def bankLeft (s : State) (block space a : Nat) : Nat :=
  match space with
  | 1 => 2 ^ 29 - a % 2 ^ 29
  | 2 => match crewAtPos s (s.block block) (a / 2 ^ 19) with
    | some b => areaLeft b (a % 2 ^ 19)
    | none => 2 ^ 19 - a % 2 ^ 19
  | _ => 2 ^ 16 - a % 2 ^ 16
/-- Where an address of a space stands (10 R173, R183). -/
def locate (s : State) (o : Owner) (space a : Nat) (r w : Bool) : Except TFault Where × State :=
  if space = 0 then translate s o.k o.gen a r w (if o.slice = 0 then none else some (s.slice o.slice).pk)
  else match spaceKey s o.slice o.block space a with
    | some key => (.ok { key := key, left := bankLeft s o.block space a }, s)
    | none => (.error ⟨1, 0⟩, s)

/-- Reads `n` bytes of a space piece by piece, with the tags of whole units where `tags` asks for them. -/
def readSpan (o : Owner) (space : Nat) : Nat → State → Nat → Nat → Except (TFault × Nat) (List Byte) × State
  | 0, s, _, _ => (.ok [], s)
  | fuel + 1, s, a, n =>
    if n = 0 then (.ok [], s)
    else match locate s o space a true false with
      | (.error e, s) => (.error (e, a), s)
      | (.ok x, s) =>
        let m := min n x.left
        match readSpan o space fuel s (a + m) (n - m) with
        | (.ok t, s') => (.ok (s.rd x.key m ++ t), s')
        | r => r
def readN (s : State) (o : Owner) (space a n : Nat) : Except (TFault × Nat) (List Byte) × State := readSpan o space n s a n

/-- Keys of `n` bytes of a space, as far as they can be read. -/
def spanKeys (o : Owner) (space : Nat) : Nat → State → Nat → Nat → List Nat
  | 0, _, _, _ => []
  | fuel + 1, s, a, n =>
    if n = 0 then []
    else match locate s o space a true false with
      | (.error _, _) => []
      | (.ok x, s) => (List.range (min n x.left)).map (x.key + ·) ++ spanKeys o space fuel s (a + min n x.left) (n - min n x.left)
/-- Offsets of the poisoned bytes among `n` of a space (21 R339). -/
def spanMarks (s : State) (o : Owner) (space a n : Nat) : List Nat :=
  if s.poison.isEmpty then [] else (spanKeys o space n s a n).zipIdx.filterMap fun p => if s.poison.contains p.1 then some p.2 else none
/-- Bytes that a message wrote take the marks that it brought. -/
def spanPoison (s : State) (o : Owner) (space a n : Nat) (bad : List Nat) : State :=
  if bad.isEmpty then s
  else { s with poison := (s.poison ++ (spanKeys o space n s a n).zipIdx.filterMap fun p => if bad.contains p.2 then some p.1 else none).eraseDups }

/-- Writes bytes of a space piece by piece, up to the first fault. -/
def writeSpan (o : Owner) (space : Nat) : Nat → State → Nat → List Byte → Except (TFault × Nat) Unit × State
  | 0, s, _, _ => (.ok (), s)
  | fuel + 1, s, a, bs =>
    if bs.isEmpty then (.ok (), s)
    else match locate s o space a false true with
      | (.error e, s) => (.error (e, a), s)
      | (.ok x, s) =>
        let m := min bs.length x.left
        writeSpan o space fuel (s.wr x.key (bs.take m)) (a + m) (bs.drop m)
def writeN (s : State) (o : Owner) (space a : Nat) (bs : List Byte) : Except (TFault × Nat) Unit × State :=
  writeSpan o space bs.length s a bs

/-- Recoverable: paging service is enabled and the walk was well formed (10 R187). -/
def recoverable (c : Ctx) (f : TFault) : Bool := c.pgs && f.cause != 3
/-- The cause that PAGEX reports (10 R187). -/
def pagexCause (c : Ctx) (f : TFault) : Nat := if f.cause = 3 then 3 else if !c.pgs then 4 else f.cause

end Sys2Proof.Machine
end

