-- ==== Sys2Proof/Machine/Copy.lean ====
section
/-! DEFINITION. Copy queues and their commands: entry and its checks, batches, performance piece by piece,
parking and fault records, far atomics, ordered reductions, task signals and completion
(09 R169-R171, 10 R187, R188, 11 R193-R199, R204, R205, 14 R249, 17 R281, R286). -/
namespace Sys2Proof.Machine

/-! ### Entry (11 R193) -/

/-- The key of a queue: the paddock's own, or a die copy queue. -/
def queueKey (x : Slice) (q : BitVec 6) : Nat := if q.toNat < 32 then x.pk else 2 ^ 16 + x.die * 32 + (q.toNat - 32)
/-- What every command of a slice records. -/
def newCmd (s : State) (x : Slice) (kind : Nat) (q : BitVec 6) : Command :=
  { kind := kind, queue := queueKey x q, qcode := q.toNat, slice := x.id, block := x.block, ctx := x.ck, die := x.die
    gen := (s.ctxOf x).gen, pc := x.pc, word := s.word, entered := s.clk x.die }
/-- Enters a command at the end of its queue; it is one of the slice's pending commands. -/
def enterCmd (s : State) (c : Command) : State :=
  let (i, s) := s.fresh
  let (s, hit) := sampleTick s c.ctx c.queue
  { s with cmds := s.cmds ++ [{ c with id := i, sample := hit, since := c.entered }] }
/-- Enters a command of a member and goes on. -/
def enterNext (s : State) (x : Slice) (c : Command) : State := (enterCmd s c).updSlice x.id advanceH

/-- The check of one operand over a range. -/
def chk (s : State) (x : Slice) (c : Cap) (spaces perms : List Nat) (op lane : Nat) (a : Int) (n align : Nat) : List CapFail :=
  ((capCheck s x c spaces perms a n align).map fun code => ({ code := code, op := op, lane := lane, info := toW64 a } : CapFail)).toList
/-- The task record that a completion field names: the checks of R286, as operand 2 (11 R195). -/
def taskFail (s : State) (x : Slice) (cmp : BitVec 5) : List CapFail :=
  if cmp != 0 && decide (cmp.toNat < 16) then
    let c := x.rc (cmp.setWidth 4)
    chk s x c [0, 1, 2] [pA] 2 255 c.base 16 16
  else []
def taskCap (x : Slice) (cmp : BitVec 5) : Cap := if cmp != 0 && decide (cmp.toNat < 16) then x.rc (cmp.setWidth 4) else {}
/-- Spaces that a copy reaches (10 R175). -/
def cpySpaces : List Nat := [0, 1, 2, 3, 5]
/-- A length of 2^36 or more, reported at the destination address (11 R193). -/
def lenFail (n : Nat) (a : Int) : List CapFail := if 2 ^ 36 ≤ n then [{ code := tCAPBND, info := toW64 a }] else []
/-- Both capabilities in space 5 (10 R175). -/
def podFail (cd cs : Cap) (lane : Nat) (a : Int) : List CapFail :=
  if cd.space = 5 ∧ cs.space = 5 then [{ code := tCAPPERM, lane := lane, info := toW64 a }] else []
/-- The trap of the first failure. -/
def cpyTrap (s : State) (x : Slice) (fs : List CapFail) : Option TrapInfo := (firstFail fs).map (failTrap s x)

/-- The least row that fails, for rows at a fixed pitch: a row fails when it leaves the range on one side, so the
failing rows are those from some row on (11 R193). -/
def leastRow (fails : Nat → Bool) : Nat → Nat → Nat → Nat
  | 0, _, hi => hi
  | n + 1, lo, hi =>
    if hi ≤ lo + 1 then hi
    else
      let mid := (lo + hi) / 2
      if fails mid then leastRow fails n lo mid else leastRow fails n mid hi
def rowsFail (ck : Nat → List CapFail) (n : Nat) : List CapFail :=
  if !(ck 0).isEmpty then ck 0
  else if n ≤ 1 || (ck (n - 1)).isEmpty then []
  else ck (leastRow (fun r => !(ck r).isEmpty) 65 0 (n - 1))

/-- Entry checks of `cpy` (11 R193). -/
def cpyFail (f : CpyFields) (xs xd : SReg) (s : State) (x : Slice) : Option TrapInfo :=
  let (cd, cs, n) := (x.rc f.cd, x.rc f.cs, (x.rs f.len).toNat)
  let a := addrS x cd (.scalar xd) 0
  cpyTrap s x (lenFail n a ++ podFail cd cs 255 a ++ chk s x cd cpySpaces [pP] 0 255 a n 1 ++
    chk s x cs cpySpaces [pQ] 1 255 (addrS x cs (.scalar xs) 0) n 1 ++ taskFail s x f.cmp)
/-- The fields of a copy's command. -/
def cpyCmd (s : State) (x : Slice) (kind : Nat) (f : CpyFields) : Command :=
  { newCmd s x kind f.q with cmp := f.cmp.toNat, task := taskCap x f.cmp, scope := f.scope, src := x.rc f.cs, dst := x.rc f.cd }
def execCpy (f : CpyFields) (xs xd : SReg) (s : State) : Result :=
  trapOp (.cpy f xs xd) (cpyFail f xs xd) (fun s => seqOp s fun (s : State) (x : Slice) =>
    enterNext s x { cpyCmd s x 1 f with
      srcA := toW64 (addrS x (x.rc f.cs) (.scalar xs) 0), dstA := toW64 (addrS x (x.rc f.cd) (.scalar xd) 0)
      len := (x.rs f.len).toNat, count := 1 }) s

/-- The group of `cpy.2d`: row bytes, rows and pitches (11 R193). -/
def grp2d (x : Slice) (r : SReg) : Nat × Nat × W64 × W64 := ((x.rs r).toNat, (x.rs (r + 1)).toNat, x.rs (r + 2), x.rs (r + 3))
def cpy2dFail (f : CpyFields) (xs xd : SReg) (s : State) (x : Slice) : Option TrapInfo :=
  let (b, n, ps, pd) := grp2d x f.len
  let (cd, cs) := (x.rc f.cd, x.rc f.cs)
  let a := addrS x cd (.scalar xd) 0
  let as := addrS x cs (.scalar xs) 0
  cpyTrap s x (lenFail (n * b) a ++ podFail cd cs 255 a ++
    rowsFail (fun r => chk s x cd cpySpaces [pP] 0 255 (a + r * pd.toInt) (if n = 0 then 0 else b) 1) n ++
    rowsFail (fun r => chk s x cs cpySpaces [pQ] 1 255 (as + r * ps.toInt) (if n = 0 then 0 else b) 1) n ++ taskFail s x f.cmp)
def execCpy2d (f : CpyFields) (xs xd : SReg) (s : State) : Result :=
  trapOp (.cpy2d f xs xd) (cpy2dFail f xs xd) (fun s => seqOp s fun (s : State) (x : Slice) =>
    let (b, n, ps, pd) := grp2d x f.len
    enterNext s x { cpyCmd s x 2 f with
      srcA := toW64 (addrS x (x.rc f.cs) (.scalar xs) 0), dstA := toW64 (addrS x (x.rc f.cd) (.scalar xd) 0)
      len := b, count := n, ps := ps, pd := pd }) s

/-- Per-lane indices of a selection. -/
def idxOf (x : Slice) (p : Pred) (r : VReg) : Cells 32 := (lanesOf (x.sel p)).foldl (fun (m : Cells 32) l => m.set l (x.rv r l)) []
/-- Entry checks of the gather and the scatter: the side with the vector index, then the other; `g` is the gather. CAPBND for a length
that is too long names a scatter's lowest selected lane in INFO and no lane, the model's choice (11 R193; log 129). -/
def cpyVFail (g : Bool) (p : Pred) (f : CpyFields) (xv : VReg) (xr : SReg) (s : State) (x : Slice) : Option TrapInfo :=
  let (cd, cs, n) := (x.rc f.cd, x.rc f.cs, (x.rs f.len).toNat)
  let ls := lanesOf (x.sel p)
  let da := fun l : Nat => if g then addrS x cd (.scalar xr) 0 + (l * n : Nat) else (cd.base : Int) + (x.rv xv l).toNat
  let sa := fun l : Nat => if g then (cs.base : Int) + (x.rv xv l).toNat else addrS x cs (.scalar xr) 0 + (l * n : Nat)
  match ls with
  | [] => none
  | l0 :: _ =>
    let long := lenFail n (if g then addrS x cd (.scalar xr) 0 else da l0)
    let caps := podFail cd cs l0 (da l0) ++ ls.flatMap (fun l => chk s x cd cpySpaces [pP] 0 l (da l) n 1) ++
      ls.flatMap (fun l => chk s x cs cpySpaces [pQ] 1 l (sa l) n 1) ++ taskFail s x f.cmp
    cpyTrap s x (if long.isEmpty then caps else (caps.filter fun c => capRank c.code < capRank tCAPBND) ++ long)
def execCpyG (p : Pred) (f : CpyFields) (xs : VReg) (xd : SReg) (s : State) : Result :=
  trapOp (.cpyG p f xs xd) (cpyVFail true p f xs xd) (fun s => seqOp s fun (s : State) (x : Slice) =>
    if x.sel p = 0 then s.updSlice x.id advance
    else enterNext s x { cpyCmd s x 3 f with
      srcA := BitVec.ofNat 64 (x.rc f.cs).base, dstA := toW64 (addrS x (x.rc f.cd) (.scalar xd) 0), len := (x.rs f.len).toNat
      lanes := x.sel p, idx := idxOf x p xs }) s
def execCpyS (p : Pred) (f : CpyFields) (xs : SReg) (xd : VReg) (s : State) : Result :=
  trapOp (.cpyS p f xs xd) (cpyVFail false p f xd xs) (fun s => seqOp s fun (s : State) (x : Slice) =>
    if x.sel p = 0 then s.updSlice x.id advance
    else enterNext s x { cpyCmd s x 4 f with
      srcA := toW64 (addrS x (x.rc f.cs) (.scalar xs) 0), dstA := BitVec.ofNat 64 (x.rc f.cd).base, len := (x.rs f.len).toNat
      lanes := x.sel p, idx := idxOf x p xd }) s

/-- Closes the pending commands of a slice into a batch (11 R196). -/
def commitBatch (d : SReg) (s : State) (x : Slice) : State :=
  let b := x.batch + 1
  let s : State := { s with cmds := s.cmds.map fun c =>
    if c.slice == x.id && !c.committed then { c with committed := true, batch := b } else c }
  s.updSlice x.id fun y => { advance ({ y with batch := b }.ws d (b.setWidth 64)) with run := .ready }
/-- A slice with 32767 unfinished batches is not ready for its commit until the oldest completes. -/
def execCpyCommit (d : SReg) (s : State) : Result :=
  .next (issue (.cpyCommit d) s fun s =>
    if s.group.any fun i => decide (32767 ≤ openBatches s (s.slice i)) then
      s.mapGroup fun x => { x with run := .waiting (.batches (if 32767 ≤ openBatches s x then oldestBatch s x else none)) }
    else seqOp s (commitBatch d))
/-- Holds while a batch that the number covers is unfinished (11 R197). -/
def execCpyWait (n : SReg) (s : State) : Result :=
  .next (issue (.cpyWait n) s fun s =>
    let w := fun (x : Slice) => match x.run with | .waiting w => w | _ => .copy ((x.rs n).setWidth 16)
    if s.group.all fun i => (blockers s (s.slice i) (w (s.slice i))).isEmpty then s.mapGroup endWait
    else settle (s.mapGroup fun x => { x with run := .waiting (w x) }))

/-- The commands that a `qfence` waits for (11 R199). -/
def qfenceSet (s : State) (x : Slice) (v : W64) : List Nat :=
  (s.cmds.filter fun c => c.ctx == x.ck && c.stage != 3 &&
    ((c.queue == x.pk && v.getLsbD 32) ||
      (decide (2 ^ 16 + x.die * 32 ≤ c.queue) && decide (c.queue < 2 ^ 16 + x.die * 32 + 32) && v.getLsbD (c.queue - 2 ^ 16 - x.die * 32)))).map Command.id
def execQfence (q : BitVec 6) (sc : Scope) (cmp : BitVec 5) (set : SReg) (s : State) : Result :=
  trapOp (.qfence q sc cmp set) (fun s x => cpyTrap s x (taskFail s x cmp)) (fun s => seqOp s fun (s : State) (x : Slice) =>
    (enterCmd s { newCmd s x 5 q with
      cmp := cmp.toNat, task := taskCap x cmp, scope := sc, accept := x.rs set, before := qfenceSet s x (x.rs set) }).updSlice x.id advance) s

/-- Far atomic (11 R204). -/
def execFat (o : Ord) (sc : Scope) (t : Ty) (d : SReg) (c : CReg) (i : Idx) (a : SReg) (s : State) : Result :=
  trapOp (.fat o sc t d c i a) (memFail [0, 5] (if d = 0 then [pA] else [pA, pL]) (tyBytes t) (tyBytes t) c i 0)
    (fun s => seqOp s fun (s : State) (x : Slice) => enterNext s x { newCmd s x 6 0 with
      ord := o, scope := sc, dst := x.rc c, dstA := toW64 (addrS x (x.rc c) i 0), len := tyBytes t, count := 1, value := x.rs a, ty := t, dreg := d }) s
/-- Ordered reduction (11 R205). -/
def execRedF (o : Ord) (sc : Scope) (i : SReg) (c : CReg) (xi : Idx) (a : SReg) (s : State) : Result :=
  trapOp (.redF o sc i c xi a) (memFail [0, 6] [pA] 8 8 c xi 0)
    (fun s => seqOp s fun (s : State) (x : Slice) => enterNext s x { newCmd s x 7 0 with
      ord := o, scope := sc, dst := x.rc c, dstA := toW64 (addrS x (x.rc c) xi 0), len := 8, count := 1, value := (x.rs a).setWidth 32 |>.setWidth 64
      index := (x.rs i).setWidth 32 }) s

/-- Entry checks of `kvc`; the row size comes first (13 R228, 14 R249). -/
def kvcFail (z : Bool) (cmp : BitVec 5) (stage cache : CReg) (pos accept rb : SReg) (s : State) (x : Slice) : Option TrapInfo :=
  let b := (x.rs rb).toNat
  let (cs, cc) := (x.rc stage, x.rc cache)
  let rows := bits64 (x.rs accept)
  let n := rows.length
  if b % 16 ≠ 0 ∨ b < 16 ∨ 65536 < b then some (trapAt s x tILLCFG 5 0)
  else cpyTrap s x (
    (if n = 0 then chk s x cs [0, 1, 2] [pQ] 0 255 cs.base 0 1 else rows.flatMap fun i => chk s x cs [0, 1, 2] [pQ] 0 255 (cs.base + i * b : Nat) b 1) ++
    (if z then chk s x cs [0, 1, 2] [pP] 0 255 cs.base 0 1 else []) ++
    chk s x cc [0, 1, 2] [pP] 1 255 (if n = 0 then cc.base else cc.base + (x.rs pos).toNat * b : Nat) (n * b) 1 ++ taskFail s x cmp)
def execKvc (z : Bool) (cmp : BitVec 5) (count : SReg) (stage cache : CReg) (pos accept rb : SReg) (s : State) : Result :=
  trapOp (.kvc z cmp count stage cache pos accept rb) (kvcFail z cmp stage cache pos accept rb)
    (fun s => seqOp s fun (s : State) (x : Slice) =>
      let n := (bits64 (x.rs accept)).length
      let s : State := enterNext s x { newCmd s x 8 0 with
        cmp := cmp.toNat, task := taskCap x cmp, src := x.rc stage, dst := x.rc cache, len := (x.rs rb).toNat, count := n
        pos := x.rs pos, accept := x.rs accept, z := z }
      s.updSlice x.id fun y => y.ws count (BitVec.ofNat 64 n)) s
/-- Signals one record (17 R286). -/
def execSpawnRec (xr : SReg) (c : CReg) (imm : BitVec 12) (s : State) : Result :=
  let a := fun (x : Slice) => addrS x (x.rc c) (.scalar xr) imm.toNat
  trapOp (.spawnRec xr c imm) (fun s x => cpyTrap s x (chk s x (x.rc c) [0, 1, 2] [pA] 0 255 (a x) 16 16))
    (fun s => seqOp s fun (s : State) (x : Slice) => enterNext s x { newCmd s x 9 0 with dst := x.rc c, dstA := toW64 (a x), len := 8, count := 1 }) s

/-! ### Faults of commands (09 R169, R170, 10 R187, R188) -/

/-- Room in a context's fault queue: its indices run modulo 2^16 (log 33). -/
def fqRoom (c : Ctx) : Bool := decide ((c.fqt + 2 ^ 16 - c.fqh) % 2 ^ 16 < min (2 ^ c.fqk) (2 ^ 16 - 1))
/-- Records waiting in a die's buffer. -/
def pendingRecs (s : State) (d : Nat) : Nat := ((s.ctxs.filter fun c => c.die == d).map fun c => c.pendingRec.length).foldl (· + ·) 0
/-- Writes a record at the tail, advances it and notifies the page-service node of a queue found empty. -/
def fqWrite (s : State) (k : Nat) (r : List Byte) : State :=
  let c := s.ctx k
  let s : State := (s.wr (c.fqb + 64 * (c.fqt % 2 ^ c.fqk)) r).count k 0x12 1
  let t := (c.fqt + 1) % 2 ^ 16
  let s : State := s.updCtx k fun c => c.setFld 0x3C 2 t
  if c.fqt = c.fqh then
    s.post k c.pgnode mFAULTNOTE 0 (BitVec.ofNat 16 c.index) ([BitVec.ofNat 8 c.die, 0] ++ leBytes 2 t ++ ((r.drop 0x20).take 4))
  else s
/-- A record is written, or waits in the die's buffer behind those of its context. -/
def fqPut (s : State) (k : Nat) (r : List Byte) : State :=
  if (s.ctx k).pendingRec.isEmpty && fqRoom (s.ctx k) then fqWrite s k r
  else s.updCtx k fun c => { c with pendingRec := c.pendingRec ++ [r] }
/-- A record can be taken now. -/
def fqCan (s : State) (k : Nat) : Bool :=
  ((s.ctx k).pendingRec.isEmpty && fqRoom (s.ctx k)) || decide (pendingRecs s (k / 64) < 64)

def execFaultRecordPendingWrite (k : Nat) (s : State) : Result :=
  match (s.ctx k).pendingRec with
  | r :: t => if fqRoom (s.ctx k) then .next (fqWrite (s.updCtx k fun c => { c with pendingRec := t }) k r) else .next s
  | [] => .next s

/-- Where a trap of a command that was dropped may be taken at once: the wait, if any, is issued again. -/
def pagexNow (x : Slice) : Bool :=
  match x.run with
  | .ready => true
  | .waiting (.alloc _) => false
  | .waiting (.sysc _) => false
  | .waiting .answered => false
  | .waiting (.answer _) => false
  | .waiting .room => false
  | .waiting .xvDone => false
  | .waiting _ => true
  | _ => false
/-- PAGEX of a slice, before its next instruction (10 R187, 13 R228). -/
def raisePagex (s : State) (id : Nat) (t : TrapInfo) : State :=
  let x := s.slice id
  if x.run = .retired then s
  else if pagexNow x && x.pagex.isEmpty && s.proxy.isNone then takeTrap s id { t with rpc := x.pc }
  else s.updSlice id fun x => { x with pagex := x.pagex ++ [t] }

/-- A batch that has completed ends the `idle` of its slice's group (04 R103). -/
def batchDone (s : State) (c : Command) : State :=
  if c.committed && !batchOpen s c.slice c.batch then wakeIdle s fun y => y.id == c.slice else s
/-- A command leaves; its block may end with it (02 R34). A held contribution has completed its batch before (11 R205). -/
def dropCmd (s : State) (c : Command) : State :=
  let s : State := settle { s with cmds := s.cmds.filter fun d => d.id != c.id }
  blockEnd (if c.stage = 3 then s else batchDone s c) c.block
/-- PAGEX of a command, which is dropped with its unperformed bytes (10 R187). -/
def cmdPagex (s : State) (c : Command) (subc va : Nat) : State :=
  if c.dying then dropCmd s c
  else
  let s : State := raisePagex s c.slice { code := tPAGEX, subc := BitVec.ofNat 8 subc, pc := c.pc, info := BitVec.ofNat 64 va, word := c.word }
  dropCmd s c

/-! ### Bytes of a command -/

/-- Bytes not yet performed (09 R169). -/
def Command.remain (c : Command) : Nat := (c.pieces - c.piece) * c.len - c.off
def Command.owner (c : Command) : Owner := { k := c.ctx, gen := c.gen, slice := c.slice, block := c.block }

/-- One decrement of a byte barrier per byte, checked where the count reaches 0 (11 R209). -/
def bbBytes (s : State) (k n : Nat) : State :=
  let c := (s.bb k).count.toNat
  if c ≠ 0 ∧ c ≤ n then
    let s : State := bbCheck (s.updBb k fun b => { b with count := 0 }) k
    s.updBb k fun b => { b with count := b.count - BitVec.ofNat 36 (n - c) }
  else s.updBb k fun b => { b with count := b.count - BitVec.ofNat 36 n }
/-- The bytes that a command has written are counted in the byte barrier it names (11 R194). -/
def countBytes (s : State) (c : Command) (n : Nat) : State :=
  let s : State := countLinks (s.count c.ctx 0x10 n) c.ctx
  if 16 ≤ c.cmp then bbBytes s (c.block * 16 + (c.cmp - 16)) n else s

/-- What a copy has overwritten within 512 bytes of its progress: the bytes of this stretch, and those it recorded before. -/
structure Ahead where
  s0 : State
  was : List Was := []
  pos : Nat := 0
/-- The value of a byte before the copy overwrote it, where the queue may have read it ahead (11 R194). -/
def Ahead.byte (h : Ahead) (s : State) (k : Nat) : Byte :=
  if Cells.get h.s0.mem k ≠ Cells.get s.mem k then Cells.get h.s0.mem k
  else match h.was.find? fun w => w.key == k && decide (h.pos ≤ w.pos + 512) with
    | some w => w.byte
    | none => Cells.get s.mem k
/-- The tag of a unit, likewise. -/
def Ahead.tag (h : Ahead) (s : State) (k : Nat) : Byte :=
  if h.s0.tag k ≠ s.tag k then h.s0.tag k
  else match h.was.find? fun w => w.key / 16 == k / 16 && decide (h.pos ≤ w.pos + 512) with
    | some w => w.tag
    | none => s.tag k
/-- A byte read of a copy: where the copy itself has rewritten its source, before or after. -/
def copyByte (h : Ahead) (s : State) (k : Nat) : Byte × State :=
  if h.byte s k = Cells.get s.mem k then (Cells.get s.mem k, s)
  else
    let (b, s') := s.freeBit
    (if b then h.byte s k else Cells.get s.mem k, s')
/-- A whole unit with its tag, likewise (10 R179, R182). -/
def copyUnit (h : Ahead) (s : State) (k : Nat) : (List Byte × Byte) × State :=
  let old := ((List.range 16).map fun i => h.byte s (k + i), h.tag s k)
  let new := (s.rd k 16, s.tag k)
  if old = new then (new, s)
  else
    let (b, s') := s.freeBit
    (if b then old else new, s')
/-- The tag that a whole unit leaves at its destination (10 R179, R180). -/
def movedTag (ctx : Nat) (pass : Bool) (dspace : Nat) (bs : List Byte) (t : Byte) : Byte :=
  let c : Cap := { bits := BitVec.ofNat 128 (leNat bs), tag := true }
  let mine : Bool := t.toNat % 2 == 1 && (t.toNat / 2 % 2 == 0 || t.toNat / 4 == ctx % 64)
  tagByte (pass && mine && (dspace == 2 || dspace == 3 || (dspace != 5 && c.has pG))) (c.has pK) ctx
/-- Copies `n` bytes between two stretches of the byte store; `pass` lets tags through. -/
def copyRun (h : Ahead) (ctx : Nat) (pass : Bool) (dspace : Nat) : Nat → State → Nat → Nat → Nat → State
  | 0, s, _, _, _ => s
  | fuel + 1, s, a, d, n =>
    if n = 0 then s
    else if 16 ≤ n ∧ a % 16 = 0 ∧ d % 16 = 0 then
      let ((bs, t), s) := copyUnit h s a
      let s : State := (s.wr d bs).setTag d (movedTag ctx pass dspace bs t)
      copyRun { h with pos := h.pos + 16 } ctx pass dspace fuel s (a + 16) (d + 16) (n - 16)
    else
      let (b, s) := copyByte h s a
      copyRun { h with pos := h.pos + 1 } ctx pass dspace fuel (s.wr d [b]) (a + 1) (d + 1) (n - 1)

/-! ### Performing copies -/

/-- How a stretch of a command's performance ended. -/
inductive Perf where
  | done
  | fault (f : TFault) (va kind lane : Nat)
  | remote
  | wait
  | more
  /-- It would use a poisoned value (21 R339). -/
  | poison
  deriving DecidableEq, Repr

/-- A message to another package for a command, with the answer it expects (17 R292; layouts of log 32). -/
def sendRemote (s : State) (c : Command) (node : Nat) (type : Byte) (len : Nat) (payload : List Byte) (bad : List Nat := []) : State :=
  let t := s.tagSeq
  let s : State := { s with
    tagSeq := t + 1
    awaits := s.awaits ++ [{ tag := t, node := BitVec.ofNat 16 node, kind := 2, slice := c.slice, cmd := c.id, ctx := c.ctx, off := c.off, len := len }] }
  s.send { (mkMsg s (BitVec.ofNat 16 node) type 2 false 0 (s.ctx c.ctx).grp t c.gen 0 payload).ofDie c.die with bad := bad }
/-- Node and offset of a space-5 or space-6 address (10 R173). -/
def podNode (a : Nat) : Nat := a / 2 ^ 41
def podOff (a : Nat) : Nat := a % 2 ^ 41

/-- What a stretch of `n` bytes at a key overwrote, for the reads of the next one. -/
def overwritten (s0 s : State) (key n pos : Nat) : List Was :=
  (List.range n).filterMap fun i =>
    if Cells.get s0.mem (key + i) = Cells.get s.mem (key + i) ∧ s0.tag (key + i) = s.tag (key + i) then none
    else some { key := key + i, byte := Cells.get s0.mem (key + i), tag := s0.tag (key + i), pos := pos + i }
/-- One stretch of a piece: up to a 512-byte boundary of the destination, a page or bank end; up to 256 bytes of another
package (11 R194, R211, 17 R292). -/
def copyStretch (s : State) (c : Command) : State × Command × Perf :=
  let p := c.pieceAt c.piece
  let d := p.dst + c.off
  let r := min (c.len - c.off) (512 - d % 512)
  let kr := if c.kind = 8 then 5 else 1
  let kw := if c.kind = 8 then 6 else 2
  match p.src with
  | none =>
    match locate s c.owner p.dspace d false true with
    | (.error f, s) => (s, c, .fault f d kw p.lane)
    | (.ok w, s) =>
      let m := min r w.left
      (countBytes (s.wr w.key (List.replicate m 0)) c m, { c with off := c.off + m }, .done)
  | some sa =>
    let a := sa + c.off
    if c.src.space = 5 then
      match locate s c.owner p.dspace d false true with
      | (.error f, s) => (s, c, .fault f d kw p.lane)
      | (.ok w, s) =>
        let m := min r (min w.left 256)
        (sendRemote s c (podNode a) mREAD m (leBytes 8 (podOff a) ++ leBytes 2 m ++ List.replicate 6 0), c, .remote)
    else
      match locate s c.owner c.src.space a true false with
      | (.error f, s) => (s, c, .fault f a kr p.lane)
      | (.ok x, s) =>
        if p.dspace = 5 then
          let m := min r (min x.left 256)
          (sendRemote s c (podNode d) mWRITE m (leBytes 8 (podOff d) ++ s.rd x.key m) ((s.marks x.key m).map (8 + ·)), c, .remote)
        else
          match locate s c.owner p.dspace d false true with
          | (.error f, s) => (s, c, .fault f d kw p.lane)
          | (.ok w, s) =>
            let m := min r (min x.left w.left)
            let pass := x.tg && w.tg && c.src.has pC && c.dst.has pW
            let was := c.was.filter fun z => decide (c.progress ≤ z.pos + 512)
            let s' : State := copyRun { s0 := s, was := was, pos := c.progress } c.ctx pass p.dspace m s x.key w.key m
            let s' : State := if s.poison.isEmpty then s' else s'.putMarks w.key (s.marks x.key m)
            (countBytes s' c m, { c with off := c.off + m, was := was ++ overwritten s s' w.key m c.progress }, .done)

/-- A copy from its progress on, stretch by stretch, to the next 512-byte boundary of its destination (11 R211). -/
def runCopy : Nat → State → Command → State × Command × Perf
  | 0, s, c => (s, c, .more)
  | n + 1, s, c =>
    if c.pieces ≤ c.piece || c.len == 0 then (s, c, .done)
    else if c.len ≤ c.off then
      if c.inside || decide (c.pieces ≤ c.piece + 1) then runCopy n s { c with piece := c.piece + 1, off := 0 }
      else (s, { c with piece := c.piece + 1, off := 0 }, .more)
    else match copyStretch s c with
      | (s, c, .done) => if c.inside || decide (c.len ≤ c.off) then runCopy n s c else (s, c, .more)
      | r => r

/-! ### Ordered reductions (11 R205) -/

/-- What the memory-side unit did with a contribution. -/
inductive RedOut where
  | applied | held | nack | stale
  deriving DecidableEq, Repr

/-- FP32 addition to nearest even without flush, a NaN result canonical (11 R205). -/
def redAdd (a b : W32) : W32 := BitVec.ofNat 32 (fadd fp32 {} a.toNat b.toNat)
/-- A held contribution of this package that has been applied ends for its block (11 R205). -/
def heldDone (s : State) (cmd : Nat) : State :=
  match s.cmd cmd with
  | some c => if c.stage = 3 then dropCmd s c else s.updCmd cmd fun c => { c with count := 1 }
  | none => s
/-- The message of a held contribution that has been applied is answered; a merged one answers every member of its round
(11 R205, 12 R226). -/
def heldBack (s : State) (m : Option Msg) : State :=
  match m with
  | some m => if m.arg == 0x8000 then roundOver s m 0 else s.reply m mANSWER 0 []
  | none => s
/-- Applies a contribution and the held ones that follow it. -/
def redRun (key : Nat) : Nat → State → W32 → State
  | 0, s, _ => s
  | n + 1, s, x =>
    let cell := leNat (s.rd key 8)
    let sum := redAdd (BitVec.ofNat 32 (cell % 2 ^ 32)) x
    let next := (cell / 2 ^ 32 + 1) % 2 ^ 32
    let s : State := s.wr key (leBytes 8 (sum.toNat + 2 ^ 32 * next))
    match s.red.find? fun r => r.cell == key && r.index.toNat == next with
    | some r => redRun key n (heldBack (heldDone { s with red := s.red.erase r } r.cmd) r.back) r.value
    | none => s
/-- A contribution at its cell (11 R205); at most 64 are held for one. -/
def redApply (s : State) (k key : Nat) (i v : W32) (cmd : Nat) (back : Option Msg := none) : State × RedOut :=
  let next := BitVec.ofNat 32 (leNat (s.rd key 8) / 2 ^ 32)
  let d := (i - next).toNat
  let mine := s.red.filter fun r => r.cell == key
  let stale := fun (s : State) => ((s.updCtx k fun c => { c with staleRed := c.staleRed + 1 }).count k 0x14 1, RedOut.stale)
  if d = 0 then (redRun key 65 s v, .applied)
  else if mine.any fun r => r.index == i then stale s
  else if d ≤ 64 && decide (mine.length < 64) then
    ({ s with red := s.red ++ [{ cell := key, index := i, value := v, cmd := cmd, back := back }] }, .held)
  else if d < 2 ^ 31 then (s, .nack)
  else stale s

/-! ### Task signals (17 R281) -/

/-- What a signal to a record did. -/
inductive Sig where
  | done
  | fault (f : TFault) (va kind : Nat)
  | wait
  | poison
  deriving DecidableEq, Repr

/-- Reads a record whose count has reached 0 and pushes it; none of it lies beyond `limit` (17 R280, R281, R286). -/
def pushRead (s : State) (o : Owner) (core space a limit blk : Nat) : State × Sig :=
  match readN s o space a 16 with
  | (.error (f, va), s) => (s, .fault f va 1)
  | (.ok h, s) =>
    if !(spanMarks s o space a (16 * recLen h)).isEmpty then (s, .poison)
    else if limit < a + 16 * recLen h then (taskError (s.updCtx o.k fun c => { c with invalid := c.invalid + 1 }) o.k 1 blk, .done)
    else match readN s o space a (16 * recLen h) with
      | (.error (f, va), s) => (s, .fault f va 1)
      | (.ok r, s) =>
        match pushRec s core o.k r blk with
        | some s => (s, .done)
        | none => (s, .wait)
/-- One signal: the decrement of DEP, and the push at 1 (17 R281). -/
def signal (s : State) (o : Owner) (core space a limit blk : Nat) : State × Bool × Sig :=
  match locate s o space a true true with
  | (.error f, s) => (s, false, .fault f a 3)
  | (.ok w, s) =>
    let h := leNat (s.rd w.key 8)
    let dep := h / 2 ^ 32
    if s.poisoned w.key 8 then (s, false, .poison)
    else if dep = 0 then (s.updCtx o.k fun c => { c with stale := c.stale + 1 }, true, .done)
    else
      let s : State := s.wr w.key (leBytes 8 (h - 2 ^ 32))
      if dep = 1 then
        let (s, r) := pushRead s o core space a limit blk
        (s, true, r)
      else (s, true, .done)

/-- The core of a slice. -/
def coreOf (s : State) (id : Nat) : Nat := let x := s.slice id; x.die * 48 + x.core
/-- The `%blk` that a task error names: of a wave, or 0 (17 R293). -/
def waveBlk (s : State) (b : Nat) : Nat := if (s.block b).wave.isEmpty then 0 else (s.block b).blk.toNat
/-- End of a capability. -/
def Cap.limit (c : Cap) : Nat := c.base + c.len

/-! ### Performing a command (11 R194) -/

/-- One command's performance from where it stands; piece 1 of a signal is the read after its decrement. -/
def perform (s : State) (c : Command) : State × Command × Perf :=
  match c.kind with
  | 5 => (s, c, .done)
  | 6 =>
    let a := c.dstA.toNat
    if c.dst.space = 5 then
      (sendRemote s c (podNode a) mFATM c.len (leBytes 8 (podOff a) ++ leBytes 8 c.value.toNat ++ leBytes 2 c.len ++ List.replicate 6 0), c, .remote)
    else match locate s c.owner 0 a true true with
      | (.error f, s) => (s, c, .fault f a 3 255)
      | (.ok w, s) =>
        if s.poisoned w.key c.len then (s, c, .poison) else
        let m := leNat (s.rd w.key c.len)
        let s : State := s.wr w.key (leBytes c.len (m + c.value.toNat))
        (s.updSlice c.slice (landS c.dreg (extLoad 64 c.ty m)), c, .done)
  | 7 =>
    let a := c.dstA.toNat
    if c.dst.space = 6 then
      (sendRemote s c (podNode a) mRED 8 (leBytes 8 (podOff a) ++ leBytes 4 c.index.toNat ++ leBytes 4 c.value.toNat), c, .remote)
    else match locate s c.owner 0 a false true with
      | (.error f, s) => (s, c, .fault f a 4 255)
      | (.ok w, s) =>
        if s.poisoned w.key 8 then (s, c, .poison)
        else match redApply s c.ctx w.key c.index (c.value.setWidth 32) c.id with
        | (s, .held) => (s, { c with count := 2 }, .done)
        | (s, .nack) => (s, { c with status := 3, due := s.clk c.die + 256, flags := c.flags ||| 2 }, .wait)
        | (s, _) => (s, c, .done)
  | 9 =>
    let (s, n, r) :=
      if c.piece = 0 then
        let (s, did, r) := signal s c.owner (coreOf s c.slice) c.dst.space c.dstA.toNat c.dst.limit (waveBlk s c.block)
        (s, b2n did, r)
      else
        let (s, r) := pushRead s c.owner (coreOf s c.slice) c.dst.space c.dstA.toNat c.dst.limit (waveBlk s c.block)
        (s, 1, r)
    (s, { c with piece := n }, match r with
      | .done => .done
      | .wait => .wait
      | .poison => .poison
      | .fault f va kind => .fault f va kind 255)
  | _ => runCopy (2 * c.len + 2 * c.pieces + 2) s c

/-- The fault record of a command whose fault was found at `cc` (09 R169). -/
def faultRec (s : State) (c : Command) (f : TFault) (va kind lane : Nat) (cc : W64) (seq : W32) : List Byte :=
  let x := s.slice c.slice
  let b := s.block c.block
  let rem := if c.kind = 9 then (if kind = 1 then 16 else 8) else if c.kind = 6 ∨ c.kind = 7 then c.len else c.remain
  leBytes 8 va ++ leBytes 8 c.pc.toNat ++ leBytes 8 cc.toNat ++ leBytes 6 b.blk.toNat ++ leBytes 2 c.gen.toNat ++
    leBytes 4 seq.toNat ++ leBytes 4 rem ++ leBytes 4 b.bph.toNat ++
    [BitVec.ofNat 8 (c.ctx % 64), BitVec.ofNat 8 kind, BitVec.ofNat 8 f.cause, BitVec.ofNat 8 f.level, BitVec.ofNat 8 c.qcode,
      BitVec.ofNat 8 b.lcore, BitVec.ofNat 8 (pdkNo s x + 4 * (x.die % 4) + 16 * x.idx), BitVec.ofNat 8 x.gid, BitVec.ofNat 8 lane] ++
    List.replicate 11 0

/-- Parks a command with its record, or leaves its queue stopped where no record can be taken (09 R170, 10 R188). -/
def parkCmd (s : State) (c : Command) (f : TFault) (va kind lane : Nat) (cc : W64) : State :=
  if c.dying then dropCmd s c
  else if fqCan s c.ctx then
    let q := (s.ctx c.ctx).seq
    let s : State := fqPut (s.updCtx c.ctx fun x => { x with seq := x.seq + 1 }) c.ctx (faultRec s c f va kind lane cc q)
    let c := chargeStage s c 7
    settle (s.updCmd c.id fun _ => { c with status := 2, stage := 0, parked := true, stuck := none, seq := q, flags := c.flags ||| 1 })
  else
    s.updCmd c.id fun _ => { c with status := 1, stage := 4, stuck := some { cause := f.cause, level := f.level, va := va, kind := kind, lane := lane, cc := cc } }

/-- Stores what a performance left of a command; one whose block has been killed ends at its boundary (13 R244, 21 R342). -/
def performed (s : State) (c : Command) (r : Perf) : State :=
  match r with
  | .done => if c.dying then dropCmd s c else s.updCmd c.id fun _ => { c with stage := 1 }
  | .more => if c.dying && !c.inside then dropCmd s c else s.updCmd c.id fun _ => { c with status := 1, stage := 5 }
  | .remote => let c := chargeStage s c 7; s.updCmd c.id fun _ => { c with status := 1, stage := 2 }
  | .wait => s.updCmd c.id fun _ => { c with stage := 0, status := if c.status = 3 then 3 else 1 }
  | .poison => let s : State := s.consume c.block none; if c.dying then dropCmd s c else s.updCmd c.id fun _ => { c with stage := 0 }
  | .fault f va kind lane =>
    if recoverable (s.ctx c.ctx) f then parkCmd s c f va kind lane (s.cc c.die)
    else cmdPagex s c (pagexCause (s.ctx c.ctx) f) va

/-- A push that waits for a stall can be delivered now (17 R283). -/
def pushReady (s : State) (c : Command) (cap : Cap) (a : Nat) : Bool :=
  match (readN s c.owner cap.space a 16).1 with
  | .ok h => !recValid (s.ctx c.ctx) h || decide (cap.limit < a + 16 * recLen h) || (stallFor s (coreOf s c.slice) c.ctx (recHnd h) (recCls h)).isSome
  | .error _ => true
/-- The releases that the slice entered before the command have been performed (12 R216, R217). -/
def releasesDone (s : State) (c : Command) : Bool :=
  (s.cmds.takeWhile fun d => d.id != c.id).all fun d => d.slice != c.slice || d.ord != .rel || d.stage == 1 || d.stage == 3
/-- The channel that holds a byte of main memory pauses for a pin repair, or is under test: requests to it wait in their queue
(21 R341, R343; log 104). -/
def channelBusy (s : State) (key : Nat) : Bool :=
  (s.chans.any fun c => c.paused && c.id == Config.channelOf key) || s.tests.any fun t => t.unit == .channel (Config.channelOf key)
/-- Some channel takes no access now. -/
def chanStop (s : State) : Bool := s.chans.any Chan.paused || s.tests.any fun t => match t.unit with | .channel _ => true | _ => false
/-- An access of main memory, or a walk to it, waits for such a channel. -/
def accessHeld (s : State) (pk : Option Nat) (k : Nat) (gen : W16) (va : Nat) : Bool :=
  chanStop s && ((walkKeys s pk k gen va).any (channelBusy s) ||
    match (translate s k gen va true false pk).1 with | .ok w => channelBusy s w.key | .error _ => false)
/-- Space and address of the next accesses of a command. -/
def nextAccess (c : Command) : List (Nat × Nat) :=
  match c.kind with
  | 5 => []
  | 6 => [(c.dst.space, c.dstA.toNat)]
  | 7 => [(c.dst.space, c.dstA.toNat)]
  | 9 => [(c.dst.space, c.dstA.toNat)]
  | _ => let p := c.pieceAt c.piece; (p.src.map fun a => (c.src.space, a + c.off)).toList ++ [(p.dspace, p.dst + c.off)]
/-- A command's next access stands in main memory behind such a channel. -/
def channelHolds (s : State) (c : Command) : Bool :=
  chanStop s && (nextAccess c).any fun p => p.1 == 0 && accessHeld s (some (s.slice c.slice).pk) c.ctx c.gen p.2
/-- A walk to its next access would use a poisoned entry (21 R339). -/
def walkPoison (s : State) (c : Command) : Bool :=
  !s.poison.isEmpty && (nextAccess c).any fun p => p.1 == 0 && (walkKeys s (some (s.slice c.slice).pk) c.ctx c.gen p.2).any fun e => s.poisoned e 8
/-- Whether the command at the head can be performed now. -/
def canPerform (s : State) (c : Command) : Bool :=
  if c.stage = 4 then fqCan s c.ctx
  else releasesDone s c && !channelHolds s c && match c.kind with
    | 5 => c.before.all fun i => !(s.cmds.any fun d => d.id == i && d.stage != 3)
    | 9 => c.piece == 0 || pushReady s c c.dst c.dstA.toNat
    | _ => true

/-- The block is about to stop or to be saved: its commands go on to their next boundaries only (11 R211, 22 R354). -/
def blockHalts (s : State) (b : Block) : Bool :=
  !blockService s b.id && (b.stop.isSome || (b.preempt.isSome && (List.range b.ngang).all (gangFrozen b)))
/-- Commands of a queue whose blocks run. -/
def queueCmds (s : State) (q : Nat) : List Command :=
  s.cmds.filter fun c => c.queue == q && c.stage != 3 && (s.ctx c.ctx).killing == 0 &&
    let b := s.block c.block
    (b.run == .running || b.run == .ended || b.run == .dying) && !b.hold && (!blockHalts s b || (c.stage == 5 && c.inside))
/-- The first command in entry order that is neither set aside nor held behind one of its slice: a parked one, until it completes,
or a release that was refused (09 R170, 11 R194, 12 R217; log 118); a fence that is held holds what was entered after it (11 R199). -/
def queueFirst : List Command → List Nat → Option Command
  | [], _ => none
  | c :: t, held =>
    if c.status = 2 ∨ c.status = 4 then queueFirst t (c.slice :: held)
    else if c.status = 3 then queueFirst t (if c.parked || c.ord == .rel then c.slice :: held else held)
    else if held.contains c.slice then (if c.kind = 5 then none else queueFirst t held)
    else some c
/-- The next command that a queue performs: the one in progress, then an answered one, in the order of the answers
(09 R171). -/
def queueNext (s : State) (q : Nat) : Option Command :=
  let l := queueCmds s q
  if l.any fun c => (c.stage == 1 || c.stage == 2) && c.status != 3 then none
  else match l.find? fun c => c.stage == 4 || c.stage == 5 with
  | some c => if canPerform s c then some c else none
  | none =>
    let retry := (l.filter fun c => c.status == 4).foldl (fun (b : Option Command) c => match b with
      | some d => if d.due ≤ c.due then b else some c
      | none => some c) none
    match retry with
    | some c => if canPerform s c then some c else none
    | none => (queueFirst l []).filter (canPerform s)

/-- Whether the first access of a command misses the translation cache (22 R361). -/
def cmdMiss (s : State) (c : Command) : Bool :=
  let a := if c.kind ≤ 4 ∨ c.kind = 8 then (if c.src.space = 0 then ((c.pieceAt 0).src.getD 0) else (c.pieceAt 0).dst) else c.dstA.toNat
  ((c.kind ≤ 4 && c.src.space == 0) || c.dst.space == 0) && (tlbLeaf s (some (s.slice c.slice).pk) c.ctx c.gen a).isNone && c.kind != 5

/-- The stage in which a command has waited for this performance: the queue, its retry, or the back-off after a NACK. -/
def waitedStage (c : Command) : Nat := if c.status = 4 then 1 else if c.status = 3 then 4 else if c.status = 0 then 0 else 7
def execQueuePerformCommand (q : Nat) (s : State) : Result :=
  match queueNext s q with
  | none => .next s
  | some c =>
    match c.stuck with
    | some f => .next (parkCmd s c ⟨f.cause, f.level⟩ f.va f.kind f.lane f.cc)
    | none =>
      let c := chargeStage s c (waitedStage c)
      let fl : Byte := c.flags ||| (if c.status = 0 && cmdMiss s c then 8 else 0)
      let c := { c with flags := fl, status := 1, stage := 0 }
      if walkPoison s c then .next (performed s c .poison)
      else
        let (s, c, r) := perform s c
        .next (performed s c r)

/-- A NACKed contribution is tried again, no sooner than 256 cy later (11 R205). -/
def execRedFRetry (id : Nat) (s : State) : Result :=
  match s.cmd id with
  | some c =>
    if c.status = 3 ∧ c.stage = 0 ∧ c.due ≤ s.clk c.die then
      if walkPoison s c then .next (performed s c .poison)
      else
        let (s, c, r) := perform s { chargeStage s c 4 with status := 1 }
        .next (performed s c r)
    else .next s
  | none => .next s

/-! ### Completion (11 R195, R198) -/

/-- The SAMPLE record of a sampled command (22 R361). -/
def sampleCmd (s : State) (c : Command) : State :=
  if c.sample.isEmpty then s
  else
    let c := chargeStage s c 7
    let addr : Nat := match c.kind with
      | 5 => 0
      | 6 => c.dstA.toNat
      | 7 => c.dstA.toNat
      | 9 => c.dstA.toNat
      | _ => ((c.pieceAt 0).src.getD (c.pieceAt 0).dst)
    let space := match c.kind with | 6 => c.dst.space | 7 => c.dst.space | 9 => c.dst.space | 5 => 0 | _ => c.src.space
    let access := c.kind != 5
    let main := access && (space == 0 || c.dst.space == 0)
    let (t, rest) := shareOut s.free [access, access && decide (1 < s.part.dies), c.kind == 6 || c.kind == 7, main] c.wait7
    let at' := fun i => t.getD i 0
    traceChosen { s with free := s.free + 4 } c.sample (srcOf s (s.slice c.slice)) (samplePayload c.pc (BitVec.ofNat 64 addr) c.kind space c.flags.toNat
      (s.clk c.die - c.entered) [c.wait0, c.wait1, at' 0, at' 1, c.wait4, at' 2, at' 3, rest])
/-- The command is over: a held contribution still counts for its block until it is applied (11 R205). -/
def finishCmd (s : State) (c : Command) : State :=
  let s : State := sampleCmd s c
  if c.kind = 7 ∧ c.count = 2 then batchDone (settle (s.updCmd c.id fun c => { c with stage := 3 })) c else dropCmd s c
/-- The completion field names a task record that waits for a stall. -/
def completeReady (s : State) (c : Command) : Bool :=
  c.stage == 1 && (!c.pushing || pushReady s c c.task c.task.base)
/-- A performed command completes: its task record is signalled, and its batch may complete (11 R195). A signal
that faults is dropped and reported. -/
def execCommandComplete (id : Nat) (s : State) : Result :=
  match s.cmd id with
  | some c =>
    if c.stage ≠ 1 then .next s
    else if 1 ≤ c.cmp ∧ c.cmp < 16 then
      let o := c.owner
      let (s, r) :=
        if c.pushing then pushRead s o (coreOf s c.slice) c.task.space c.task.base c.task.limit (waveBlk s c.block)
        else
          let (s, _, r) := signal s o (coreOf s c.slice) c.task.space c.task.base c.task.limit (waveBlk s c.block)
          (s, r)
      match r with
      | .done => .next (finishCmd s c)
      | .fault _ _ _ => .next (finishCmd (taskError s c.ctx 3 (waveBlk s c.block)) c)
      | .poison => .next (finishCmd (s.consume c.block none) c)
      | .wait => .next (s.updCmd id fun c => { c with pushing := true })
    else .next (finishCmd s c)
  | none => .next s

end Sys2Proof.Machine
end

