-- ==== Sys2Proof/Machine/Barrier.lean ====
section
/-! DEFINITION. Numbered barriers and byte barriers (11 R206-R210). -/
namespace Sys2Proof.Machine

/-- The barrier that an instruction names; none at a level that the launch does not use (11 R206). -/
def findBar (s : State) (x : Slice) (sc : Scope) (n : Nat) : Option Bar :=
  let b := s.block x.block
  let g := s.grid b.grid
  let owner := match sc with
    | .core => some x.block
    | .quad => some b.crewBase
    | .die => if g.lrec.span = 0 then some b.grid else none
    | .pkg => if g.lrec.span = 0 then none else some b.grid
    | .pod => if g.lrec.pj = 0 then none else some (g.lrec.pj + 65536 * (s.ctx (g.die * 64 + g.ctx)).grp.toNat)
  owner.bind fun o => s.bars.find? fun y => y.level == sc && y.owner == o && y.num == n
/-- ILLCFG of an unused level (11 R206). -/
def barTrap (sc : Scope) (n : BitVec 24) (s : State) (x : Slice) : Option TrapInfo :=
  if (findBar s x sc n.toNat).isNone then some (trapAt s x tILLCFG 3 0) else none

/-- An arrival of a context's slice at the home, or its message to the home (11 R207). -/
def barCount (s : State) (k : Nat) (b : Bar) : State :=
  match b.level, s.joins.find? fun j => j.key == b.owner with
  | .pod, some j =>
    if j.home == s.node then barCheck (s.updBar b.id fun b => { b with arrivals := b.arrivals + 1 }) b.id
    else s.send (barrierMsg s k j.home j.grp (barrierPayload 1 b.num j.j.toNat 1))
  | _, _ => barCheck (s.updBar b.id fun b => { b with arrivals := b.arrivals + 1 }) b.id
/-- Releases of a slice that stand in queues: their writes come before its arrival (11 R208, 12 R216, R217). -/
def openReleases (s : State) (id : Nat) : List Nat :=
  (s.cmds.filter fun c => c.slice == id && c.ord == .rel && c.stage != 1 && c.stage != 3).map Command.id
/-- Releases that an arrival awaits have been performed. -/
def releasesOver (s : State) (l : List Nat) : Bool := l.all fun i => !(s.cmds.any fun c => c.id == i && c.stage != 1 && c.stage != 3)
/-- Arrivals whose releases have been performed count now, at either kind of barrier. -/
def lateArrivals (s : State) : State :=
  let s : State := (s.bars.filter fun b => !b.late.isEmpty).foldl (fun (s : State) b =>
    (b.late.filter fun p => releasesOver s p.2).foldl (fun (s : State) p =>
      barCount (s.updBar b.id fun y => { y with late := y.late.erase p }) (s.slice p.1).ck b) s) s
  (s.bbs.filter fun b => !b.late.isEmpty).foldl (fun (s : State) b =>
    bbCheck (s.updBb (State.bbKey b) fun y => { y with late := y.late.filter fun p => !releasesOver s p.2 }) (State.bbKey b)) s
/-- One arrival in the current phase; a second one in a phase holds (11 R208). -/
def arriveBar (sc : Scope) (n : Nat) (s : State) (x : Slice) : State :=
  match findBar s x sc n with
  | none => s
  | some b =>
    if b.who.contains x.id then s.updSlice x.id fun x => { x with run := .waiting (.barAgain b.id b.phase) }
    else
      let s : State := s.updSlice x.id fun x =>
        { advanceH x with run := .ready, arrived := recPut Prod.fst x.arrived b.id (b.id, b.phase) }
      let s : State := s.updBar b.id fun b => { b with who := b.who ++ [x.id] }
      let l := openReleases s x.id
      if l.isEmpty then barCount s x.ck b else s.updBar b.id fun b => { b with late := b.late ++ [(x.id, l)] }
def execBarArr (sc : Scope) (n : BitVec 24) (s : State) : Result :=
  trapOp (.barArr sc n) (barTrap sc n) (fun s => seqOp s (arriveBar sc n.toNat)) s

/-- The wait for the phase of the latest arrival; without one it is met at once (11 R208). -/
def barWaitOf (sc : Scope) (n : Nat) (s : State) (x : Slice) : Wait :=
  match findBar s x sc n with
  | none => .cmds []
  | some b => match x.arrived.find? fun p => p.1 == b.id with
    | some p => .bar b.id p.2
    | none => .cmds []
/-- The group holds until every member's wait is met (02 R36). -/
def groupWait (w : State → Slice → Wait) (s : State) : State :=
  if s.group.all fun i => waitMet s (s.slice i) (w s (s.slice i)) then s.mapGroup endWait
  else s.mapGroup fun x => { x with run := .waiting (w s x) }
def execBarWait (sc : Scope) (n : BitVec 24) (s : State) : Result :=
  trapOp (.barWait sc n) (barTrap sc n) (groupWait (barWaitOf sc n.toNat)) s

/-! ### Byte barriers -/

/-- Key of a byte barrier of the slice's block. -/
def bbOf (x : Slice) (n : BitVec 4) : Nat := x.block * 16 + n.toNat
def execBbExp (n : BitVec 4) (a : SReg) (s : State) : Result :=
  .next (issue (.bbExp n a) s fun s => seqOp s fun (s : State) (x : Slice) =>
    (bbCheck (s.updBb (bbOf x n) fun b => { b with count := b.count + (x.rs a).setWidth 36 }) (bbOf x n)).updSlice x.id advance)

/-- The value of a phase bit. -/
def phaseBit (s : State) (x : Slice) (n : BitVec 4) : W64 := b2w (s.bb (bbOf x n)).phase
/-- The entry of an arrival that awaits releases. -/
def lateOf (s : State) (id : Nat) : List (Nat × List Nat) := let l := openReleases s id; if l.isEmpty then [] else [(id, l)]
/-- Declares a slice; one that has left in the phase in progress stays a party, the model's choice (11 R210; log 130). -/
def declare (b : ByteBar) (id : Nat) : ByteBar :=
  if b.parties.contains id then { b with leaving := b.leaving.erase id } else { b with parties := b.parties ++ [id] }
/-- An arrival; a second one in a phase holds until the flip (11 R210). -/
def arriveBb (d : SReg) (n : BitVec 4) (s : State) (x : Slice) : State :=
  let k := bbOf x n
  let b := s.bb k
  if b.arrived.contains x.id then s.updSlice x.id fun x => { x with run := .waiting (.bbAgain k b.phase) }
  else
    let v := phaseBit s x n
    let s : State := s.updSlice x.id fun x => { advanceH (x.ws d v) with run := .ready }
    bbCheck (s.updBb k fun b => { declare b x.id with arrived := b.arrived ++ [x.id], late := b.late ++ lateOf s x.id }) k
def execBbArr (d : SReg) (n : BitVec 4) (s : State) : Result :=
  .next (issue (.bbArr d n) s fun s => seqOp s (arriveBb d n))
def execBbArrDecl (d : SReg) (n : BitVec 4) (s : State) : Result :=
  .next (issue (.bbArrDecl d n) s fun s => seqOp s fun (s : State) (x : Slice) =>
    let v := phaseBit s x n
    (s.updBb (bbOf x n) fun b => declare b x.id).updSlice x.id fun x => advance (x.ws d v))
/-- The slice arrives and is no party of later phases; without being one it only reads the phase; a second arrival in a phase
holds (11 R210). -/
def leaveBb (d : SReg) (n : BitVec 4) (s : State) (x : Slice) : State :=
  let k := bbOf x n
  let v := phaseBit s x n
  if (s.bb k).arrived.contains x.id then s.updSlice x.id fun x => { x with run := .waiting (.bbAgain k (s.bb k).phase) }
  else if (s.bb k).parties.contains x.id then
    let s : State := s.updSlice x.id fun x => { advanceH (x.ws d v) with run := .ready }
    bbCheck (s.updBb k fun b => { b with arrived := b.arrived ++ [x.id], leaving := b.leaving ++ [x.id], late := b.late ++ lateOf s x.id }) k
  else s.updSlice x.id fun x => advance (x.ws d v)
def execBbArrLeave (d : SReg) (n : BitVec 4) (s : State) : Result :=
  .next (issue (.bbArrLeave d n) s fun s => seqOp s (leaveBb d n))
/-- The phase to wait out is read when the wait is issued (11 R210). -/
def bbWaitOf (n : BitVec 4) (p : SReg) (_ : State) (x : Slice) : Wait :=
  match x.run with
  | .waiting (.bb k b) => .bb k b
  | _ => .bb (bbOf x n) ((x.rs p).getLsbD 0)
def execBbWait (n : BitVec 4) (p : SReg) (s : State) : Result := .next (issue (.bbWait n p) s (groupWait (bbWaitOf n p)))

end Sys2Proof.Machine
end

