-- ==== Sys2Proof/Machine/Matrix.lean ====
section
/-! DEFINITION. The matrix engine: issue and its checks, the queue, and the instructions of 14 R246-R248 and
15 R250-R266. -/
namespace Sys2Proof.Machine

/-! ### Shapes (15 R251) -/

/-- K positions and columns of a shape. -/
def shapeK : Shape → Nat
  | .single | .pairH => 64
  | .pairV | .quad => 128
def shapeN : Shape → Nat
  | .single | .pairV => 64
  | .pairH | .quad => 128
/-- The unit that holds half `kh` of K and half `nh` of the columns of a shape with home `u`. -/
def quadUnit (s : State) (sh : Shape) (u kh nh : Nat) : Nat :=
  let p := logicalPdk s u
  match sh with
  | .single => u
  | .pairH => unitAt s u (p + nh)
  | .pairV => unitAt s u (p + 2 * kh)
  | .quad => unitAt s u (2 * kh + nh)
/-- Halves of K and of the columns. -/
def kHalves (sh : Shape) : List Nat := List.range (shapeK sh / 64)
def nHalves (sh : Shape) : List Nat := List.range (shapeN sh / 64)
/-- Units of a shape around a unit. -/
def shapeUnits (s : State) (sh : Shape) (u : Nat) : List Nat := (shapeSet sh (logicalPdk s u)).map (unitAt s u)

/-! ### Formats (15 R252, R253) -/

/-- The type of a format code of `fr`. -/
def codeTy : Nat → Ty
  | 1 => .bf16
  | 2 => .f16
  | 3 => .fb8
  | 4 => .fb5
  | 5 => .fb3
  | 6 => .i8
  | 7 => .i32
  | _ => .f32
def isBlock (c : Nat) : Bool := c == 3 || c == 4 || c == 5
/-- Bytes of 64 positions of an operand image row. -/
def halfBytes (c : Nat) : Nat :=
  if isBlock c then 2 * fbBytes (codeTy c) else 64 * tyBytes (codeTy c)
/-- AF, BF and ACC of an `fr` value (07 R136). -/
def frAF (fr : W64) : Nat := bitsOf fr.toNat 0 4
def frBF (fr : W64) : Nat := bitsOf fr.toNat 4 4
def frACC (fr : W64) : Nat := bitsOf fr.toNat 8 4
def frPerm (fr : W64) : Nat := bitsOf fr.toNat 16 8
/-- The combinations of `mst`. -/
def comboOk (af bf acc : Nat) : Bool :=
  (1 ≤ af && af ≤ 2 && 1 ≤ bf && bf ≤ 2 && acc ≤ 2) || (isBlock af && isBlock bf && acc ≤ 2) ||
    (af == 6 && bf == 6 && (acc == 6 || acc == 7))
/-- A format that some combination accepts as the stationary operand. -/
def weightOk (bf : Nat) : Bool := 1 ≤ bf && bf ≤ 6
/-- An accumulate format that some combination accepts. -/
def accOk (acc : Nat) : Bool := acc ≤ 2 || acc == 6 || acc == 7
/-- The kind that an accumulate format needs: integer or float. -/
def accInt (acc : Nat) : Bool := 6 ≤ acc

/-- What a quadrant keeps of the bytes of 64 positions: elements in position order, or the words of the blocks. -/
def planeWords (c : Nat) (perm : List Byte) (bs : List Byte) : List W32 :=
  if isBlock c then (List.range (halfBytes c / 4)).map fun w => BitVec.ofNat 32 (leNat ((bs.drop (4 * w)).take 4))
  else
    let n := tyBytes (codeTy c)
    perm.map fun i => BitVec.ofNat 32 (leNat ((bs.drop (n * i.toNat)).take n))
/-- The values of 64 positions under a float or block format; FTZ flushes 16-bit operands (07 R146). -/
def posValues (c : Nat) (ftz : Bool) (w : Nat → W32) : List Fl :=
  if isBlock c then
    let t := codeTy c
    let blk := fun j => leNat ((List.range (fbBytes t / 4)).flatMap fun i => leBytes 4 (w (j * (fbBytes t / 4) + i)).toNat)
    [0, 1].flatMap fun j => (List.range 32).map (fbValue (fbM t) (blk j))
  else (List.range 64).map fun k => fin' (codeTy c).ffmt ftz (w k).toNat
/-- The INT8 values of 64 positions. -/
def posInts (w : Nat → W32) : List Int := (List.range 64).map fun k => elemInt true 8 (w k).toNat

/-! ### Sums (07 R146, R147) -/

/-- Groups of 16 positions. -/
def groups16 {α : Type} (l : List α) : List (List α) := (List.range ((l.length + 15) / 16)).map fun g => (l.drop (16 * g)).take 16
/-- The exact sum of a group's products, rounded once to FP32. -/
def groupSum (ftz : Bool) (xs ys : List Fl) : Nat :=
  fenc fp32 0 ftz false (match List.zipWith Fl.mul xs ys with
    | [] => .fin false 0 0
    | p :: ps => ps.foldl (Fl.add 0) p)
/-- An accumulator element with the group sums added in ascending K order. -/
def accFloat (ftz : Bool) (acc : W32) (xs ys : List Fl) : W32 :=
  (List.zipWith (groupSum ftz) (groups16 xs) (groups16 ys)).foldl (fun (a : W32) g =>
    BitVec.ofNat 32 (fenc fp32 0 ftz false (Fl.add 0 (fdec fp32 a.toNat) (fdec fp32 g)))) acc
def accInt32 (sat : Bool) (acc : W32) (xs ys : List Int) : W32 :=
  (List.zipWith (fun (a b : List Int) => (List.zipWith (· * ·) a b).foldl (· + ·) 0) (groups16 xs) (groups16 ys)).foldl
    (fun (a : W32) g =>
      let v := a.toInt + g
      BitVec.ofInt 32 (if sat then clampInt .i32 v else v)) acc

/-! ### Checks at issue (15 R254, R266) -/

/-- Slice 0 of the gang, from which shared operands are read. -/
def slice0 (s : State) (x : Slice) : Slice := ((s.gang x).find? fun y => y.idx == 0).getD x
/-- The gang of a slice. -/
def gangKey (x : Slice) : Nat × Nat := (x.block, x.gid)
/-- The first failing condition of R254, of `n` conditions. -/
def convFail (s : State) (x : Slice) (n : Nat) : Option Nat :=
  let all4 : BitVec 4 := BitVec.ofNat 4 (2 ^ hGang (headerOf s x) - 1)
  if x.handler || x.gm != all4 then some 1
  else if n ≥ 2 && (s.gang x).any (fun y => y.rk 0 != y.alive) then some 2
  else if n ≥ 3 && (s.punit (homeUnit s x.uk)).holder != some (gangKey x) then some 3
  else none
/-- Liveness, kinds and plane formats of a unit. -/
structure TileView where
  live : W16 := 0
  kind : W16 := 0
  act : Nat := 1
  shd : Nat := 1
  deriving DecidableEq, Repr
def bit16 (t : Nat) : W16 := (1 : W16) <<< t
def putBit (m : W16) (t : Nat) (b : Bool) : W16 := if b then m ||| bit16 t else m &&& ~~~bit16 t
/-- A tile becomes live with a kind. -/
def TileView.mark (v : TileView) (t : Nat) (int : Bool) : TileView := { v with live := putBit v.live t true, kind := putBit v.kind t int }
/-- What an instruction leaves of them. -/
def viewStep (v : TileView) (m : MxOp) : TileView :=
  match m.i with
  | .mlw _ _ _ => { v with shd := m.fmt }
  | .mswap => { v with act := v.shd, shd := v.act }
  | .mst _ t _ _ _ => v.mark t.toNat (accInt (frACC m.fr))
  | .mzero t => { v with live := putBit v.live t.toNat false, kind := putBit v.kind t.toNat false }
  | .mwr ty t _ _ _ => v.mark t.toNat (ty == .i32)
  | .mmaskTree t _ _ _ => v.mark t.toNat false
  | .mcfg _ sh => if sh = m.sh then v else {}
  | _ => v
/-- The view once the queue has been performed: what an instruction issued now meets. -/
def viewNow (u : PUnit) : TileView :=
  u.mq.foldl viewStep { live := u.live, kind := u.kind, act := u.activeFmt, shd := u.shadowFmt }
/-- A live tile of the other kind. -/
def kindBad (v : TileView) (t : Nat) (int : Bool) : Bool := v.live.getLsbD t && v.kind.getLsbD t != int
/-- A tile that the block does not have. -/
def tileBad (s : State) (x : Slice) (t : Nat) : Bool := decide (hTiles (headerOf s x) ≤ t)

/-- The trap of an instruction with its conditions and the ILLCFG subcodes that apply, in ascending order. -/
def mxTrap (n : Nat) (subs : State → Slice → List Nat) (s : State) (x : Slice) : Option TrapInfo :=
  match convFail s x n with
  | some c => some (trapAt s x tILLCONV c 0)
  | none => (subs s x).head?.map fun c => trapAt s x tILLCFG c 0
/-- A subcode where a condition holds. -/
def sub (c : Nat) (b : Bool) : List Nat := if b then [c] else []
/-- Subcode 6: a block without tiles, or a tile beyond its count. -/
def noTiles (s : State) (x : Slice) : Bool := hTiles (headerOf s x) == 0

/-- Issue of a matrix instruction: a trap before effect takes every member, those without a cause of their own
with that of the lowest member that has one (13 R242; log 34). -/
def mxIssue (i : Instr) (g : State → Slice → Option TrapInfo) (run : State → State) (s : State) : State :=
  let f := fun (x : Slice) => match issueTrap i s x with | some t => some t | none => g s x
  match s.group.findSome? fun id => f (s.slice id) with
  | none => run s
  | some t0 => s.group.foldl (fun (s' : State) id =>
      let x := s.slice id
      takeTrap s' id (match f x with | some t => t | none => { t0 with pc := x.pc, rpc := x.pc })) s

/-- Appends instructions to the queue of their home, or holds the group while it is full (15 R255). -/
def mxQueue (hang : Bool) (ops : State → List MxOp) (s : State) : State :=
  match s.group with
  | [] => s
  | i :: _ =>
    let h := homeUnit s (s.slice i).uk
    if mqLen (s.punit h) < matrixDepth then
      let s : State := s.updUnit h fun u => { u with mq := u.mq ++ ops s }
      s.mapGroup fun x => { (if hang then advanceH x else advance x) with run := .ready }
    else s.mapGroup fun x => { x with run := .waiting (.mroom h) }
/-- What every queued instruction records of a slice. -/
def mxOp (s : State) (x : Slice) (i : Instr) : MxOp :=
  { i := i, unit := homeUnit s x.uk, slice := x.id, members := [x.id], block := x.block, pc := x.pc, fr := x.fr, word := s.word
    sh := (s.punit x.uk).shape }
/-- An instruction performed once, with the operands of slice 0. -/
def mxOnce (i : Instr) (g : State → Slice → Option TrapInfo) (hang : Bool) (op : State → Slice → MxOp) (s : State) : Result :=
  .next (mxIssue i g (mxQueue hang fun s => (s.group.head?.map fun id => { op s (slice0 s (s.slice id)) with members := s.group }).toList) s)
/-- An instruction performed for each member with its own operands, in ascending order. -/
def mxEach (i : Instr) (g : State → Slice → Option TrapInfo) (op : State → Slice → MxOp) (s : State) : Result :=
  .next (mxIssue i g (mxQueue false fun s =>
    (s.group.zipIdx).map fun p => { op s (s.slice p.1) with part := p.2 != 0 }) s)
/-- The shape of a slice's paddock. -/
def shapeOf (s : State) (x : Slice) : Shape := (s.punit x.uk).shape
/-- The home unit's view. -/
def viewOf (s : State) (x : Slice) : TileView := viewNow (s.punit (homeUnit s x.uk))
/-- The address of an image: base and scalar index. -/
def imgAddr (x : Slice) (c : CReg) (r : SReg) : W64 := toW64 (addrS x (x.rc c) (.scalar r) 0)
/-- A count from 1 to `m`. -/
def countBad (x : Slice) (r : SReg) (m : Nat) : Bool := decide ((x.rs r).toNat < 1) || decide (m < (x.rs r).toNat)
/-- The permutation table in force, whole (07 R144): that of the paddock of the gang's slice 0 for every quadrant of a fused shape, the
model's choice where the paddocks hold different tables under one id (log 125). -/
def tableNow (s : State) (x : Slice) : List Byte :=
  (List.range 64).map fun p => BitVec.ofNat 8 (permEntry (s.punit x.uk) (frPerm x.fr) p)

/-! ### The instructions at issue (15 R256-R265, 14 R246, R247) -/

def execMlw (c : CReg) (xr n : SReg) (s : State) : Result :=
  mxOnce (.mlw c xr n) (mxTrap 3 fun s x =>
      let y := slice0 s x
      sub 4 (countBad y n (shapeN (shapeOf s x))) ++ sub 6 (noTiles s x) ++ sub 9 (!weightOk (frBF x.fr)))
    false (fun s x => { mxOp s x (.mlw c xr n) with
      cap := x.rc c, addr := imgAddr x c xr, n := (x.rs n).toNat, perm := tableNow s x, fmt := frBF x.fr }) s

def execMswap (s : State) : Result :=
  mxOnce .mswap (mxTrap 3 fun s x => sub 6 (noTiles s x)) false (fun s x => mxOp s x .mswap) s

def execMst (z : Bool) (t : TileReg) (c : CReg) (xr r : SReg) (s : State) : Result :=
  mxOnce (.mst z t c xr r) (mxTrap 3 fun s x =>
      let v := viewOf s x
      let fr := x.fr
      sub 4 (countBad (slice0 s x) r 64) ++ sub 6 (noTiles s x || tileBad s x t.toNat) ++
        sub 9 (!comboOk (frAF fr) v.act (frACC fr)) ++ sub 11 (!z && kindBad v t.toNat (accInt (frACC fr))))
    false (fun s x => { mxOp s x (.mst z t c xr r) with
      cap := x.rc c, addr := imgAddr x c xr, n := (x.rs r).toNat, perm := tableNow s x, fmt := frAF x.fr }) s

def execMzero (t : TileReg) (s : State) : Result :=
  mxOnce (.mzero t) (mxTrap 3 fun s x => sub 6 (noTiles s x || tileBad s x t.toNat)) false (fun s x => mxOp s x (.mzero t)) s

/-- Row and column out of range in some member (15 R264). -/
def segBad (s : State) (row col : SReg) : Bool :=
  s.group.any fun i =>
    let x := s.slice i
    decide (63 < (x.rs row).toNat) ||
      !((x.rs col).toNat == 0 || ((x.rs col).toNat == 64 && shapeN (shapeOf s x) == 128))
def segSubs (ty : Ty) (t : TileReg) (row col : SReg) (s : State) (x : Slice) : List Nat :=
  sub 4 (segBad s row col) ++ sub 6 (noTiles s x || tileBad s x t.toNat) ++ sub 11 (kindBad (viewOf s x) t.toNat (ty == .i32))
def execMrd (ty : Ty) (d : VReg) (t : TileReg) (row col : SReg) (s : State) : Result :=
  mxEach (.mrd ty d t row col) (mxTrap 3 (segSubs ty t row col))
    (fun s x => { mxOp s x (.mrd ty d t row col) with n := (x.rs row).toNat, m := (x.rs col).toNat }) s
def execMwr (ty : Ty) (t : TileReg) (a : VReg) (row col : SReg) (s : State) : Result :=
  mxEach (.mwr ty t a row col) (mxTrap 3 (segSubs ty t row col))
    (fun s x => { mxOp s x (.mwr ty t a row col) with
      n := (x.rs row).toNat, m := (x.rs col).toNat, vecs := [x.rvAll a, x.rvAll (a + 1)] }) s

def execMout (c : CReg) (xr : SReg) (t : TileReg) (r : SReg) (s : State) : Result :=
  mxOnce (.mout c xr t r) (mxTrap 3 fun s x =>
      let acc := frACC x.fr
      sub 4 (countBad (slice0 s x) r 64) ++ sub 6 (noTiles s x || tileBad s x t.toNat) ++ sub 9 (!accOk acc) ++
        sub 11 (kindBad (viewOf s x) t.toNat (accInt acc)))
    true (fun s x => { mxOp s x (.mout c xr t r) with
      cap := x.rc c, addr := imgAddr x c xr, n := (x.rs r).toNat, fmt := frACC x.fr }) s

/-- Parents of the tree nodes (14 R247). -/
def parents (x : Slice) (p : VReg) : List Nat := (List.range 64).map fun n => bitsOf (x.rv p (n / 4)).toNat (8 * (n % 4)) 8
/-- The lowest node whose parent does not come before it. -/
def treeBad (par : List Nat) : Option Nat := (List.range 64).find? fun n => par.getD n 0xFF != 0xFF && decide (n ≤ par.getD n 0xFF)
def execMmaskTree (t : TileReg) (p : VReg) (pre col0 : SReg) (s : State) : Result :=
  let conv := mxTrap 3 fun s x => sub 6 (noTiles s x || tileBad s x t.toNat) ++ sub 11 (kindBad (viewOf s x) t.toNat false)
  mxOnce (.mmaskTree t p pre col0) (fun s x => match conv s x with
      | some e => some e
      | none => (treeBad (parents (slice0 s x) p)).map fun n => trapAt s x tILLTREE 0 (BitVec.ofNat 64 n))
    false (fun s x => { mxOp s x (.mmaskTree t p pre col0) with
      n := (x.rs pre).toNat, m := (x.rs col0).toNat, vecs := [x.rvAll p] }) s

/-- Reads the image at issue, as a load of slice 0 (15 R258). -/
def mpermTrap (c : CReg) (xr : SReg) (s : State) (x : Slice) : Option TrapInfo :=
  match mxTrap 3 (fun s x => sub 6 (noTiles s x)) s x with
  | some t => some t
  | none =>
    let y := slice0 s x
    let a := addrS y (y.rc c) (.scalar xr) 0
    match capCheck s y (y.rc c) [1, 2] [pL] a 64 16 with
    | some code => some (trapAt s x code 0 (toW64 a))
    | none =>
      let bs := rdBytes s y (y.rc c) a 64
      if (List.range 64).all fun n => bs.contains (BitVec.ofNat 8 n) then none else some (trapAt s x tILLCFG 10 0)
/-- The table of every paddock of the shape is replaced at once (15 R258, 07 R144). -/
def mpermRun (t : BitVec 3) (c : CReg) (xr : SReg) (s : State) : State :=
  match s.group with
  | [] => s
  | i :: _ =>
    let x := s.slice i
    let y := slice0 s x
    let bs := rdBytes s y (y.rc c) (addrS y (y.rc c) (.scalar xr) 0) 64
    let s : State := (shapeUnits s (shapeOf s x) x.uk).foldl (fun (s : State) u => s.updUnit u fun p =>
      { p with perm := p.perm.setList (64 * t.toNat) (bs.zipIdx.map fun q => q.1 ^^^ BitVec.ofNat 8 q.2) }) s
    s.mapGroup advance
def execMperm (t : BitVec 3) (c : CReg) (xr : SReg) (s : State) : Result :=
  .next (mxIssue (.mperm t c xr) (mpermTrap c xr) (mpermRun t c xr) s)

/-! ### Shapes and the baton (14 R248, 15 R257) -/

/-- Live bits of a unit's own tiles once the queue of its shape's home has been performed. -/
def liveAt (s : State) (u : Nat) : W16 :=
  let sh := (s.punit u).shape
  let h := homeUnit s u
  if (nHalves sh).any fun nh => quadUnit s sh h 0 nh == u then
    ((s.punit h).mq.foldl viewStep { live := (s.punit u).live, kind := (s.punit u).kind }).live
  else (s.punit u).live
/-- Subcodes of `mcfg` (15 R257). -/
def mcfgSubs (discard : Bool) (sh : Shape) (s : State) (x : Slice) : List Nat :=
  let old := shapeUnits s (shapeOf s x) x.uk
  let new := shapeUnits s sh x.uk
  let b := s.block x.block
  if sh = shapeOf s x then sub 6 (noTiles s x)
  else
    sub 6 (noTiles s x) ++
    sub 7 (!discard && (new ++ old).any fun u => b.pdks.contains (u / 64 % 4) && liveAt s u != 0) ++
    sub 8 ((new.filter fun u => !old.contains u).any fun u =>
      let p := s.pdk (u / 64)
      let h := (s.punit (homeUnit s u)).holder
      !b.pdks.contains (u / 64 % 4) || p.vdev != some (s.ctxOf x).vdev || p.wstate == .drained || p.wstate == .retired ||
        (h.isSome && h != some (gangKey x)))
/-- A unit with its tiles, planes, shape and baton reset. -/
def unitReset (u : PUnit) : PUnit :=
  { u with active := [], activeFmt := 1, shadow := [], shadowFmt := 1, tiles := [], live := 0, kind := 0, shape := .single, holder := none, takers := []
           badTiles := 0, badPlanes := 0 }
/-- Waiters by the order in which their `bat.take` issued. -/
def insTaker (t : Nat × (Nat × Nat)) : List (Nat × (Nat × Nat)) → List (Nat × (Nat × Nat))
  | [] => [t]
  | a :: l => if t.1 < a.1 then t :: a :: l else a :: insTaker t l
/-- A waiting gang joins the line of the baton of its paddock's shape, or is granted it when free. -/
def requeue (s : State) (t : Nat × (Nat × Nat)) : State :=
  match s.slices.find? fun y => !y.handler && gangKey y == t.2 with
  | none => s
  | some y =>
    let h := homeUnit s y.uk
    let s : State := s.mapSlices fun z => match z.run with
      | .waiting (.baton _) => if !z.handler && gangKey z == t.2 then { z with run := .waiting (.baton h) } else z
      | _ => z
    if (s.punit h).holder.isNone then s.updUnit h fun u => { u with holder := some t.2 }
    else s.updUnit h fun u => { u with takers := insTaker t u.takers }
/-- Units of a change of shape: those of the new shape around the issuer, and those of the old one. -/
def mcfgUnits (s : State) (x : Slice) (sh old : Shape) : List Nat := (shapeUnits s sh x.uk ++ shapeUnits s old x.uk).eraseDups
/-- A change of shape enters the queue of its home, and holds its place in the queues of every paddock that it concerns. The new
shape is that of the instructions issued after it; a paddock that leaves the shape has its baton free when the change is performed
(15 R255, R257; log 119). -/
def mcfgRun (discard : Bool) (sh : Shape) (s : State) : State :=
  match s.group with
  | [] => s
  | i :: _ =>
    let x := s.slice i
    let h := homeUnit s x.uk
    if matrixDepth ≤ mqLen (s.punit h) then s.mapGroup fun x => { x with run := .waiting (.mroom h) }
    else
      let (n, s) := s.fresh
      let m : MxOp := { mxOp s x (.mcfg discard sh) with members := s.group, seq := n }
      let s : State :=
        if sh = shapeOf s x then s.updUnit h fun u => { u with mq := u.mq ++ [m] }
        else
          let us := mcfgUnits s x sh (shapeOf s x)
          let takers := us.flatMap fun u => (s.punit u).takers
          let new := shapeUnits s sh x.uk
          let s : State := us.foldl (fun (s : State) u => s.updUnit u fun p =>
            { p with mq := p.mq ++ [{ m with part := u != h }], takers := [], shape := if new.contains u then sh else .single
                     holder := if new.contains u then none else some (gangKey x) }) s
          let s : State := s.updUnit (homeUnit s x.uk) fun u => { u with holder := some (gangKey x) }
          takers.foldl requeue s
      s.mapGroup fun x => { advance x with run := .ready }
def execMcfg (discard : Bool) (sh : Shape) (s : State) : Result :=
  .next (mxIssue (.mcfg discard sh) (mxTrap 3 (mcfgSubs discard sh)) (mcfgRun discard sh) s)

def batSubs (s : State) (x : Slice) : List Nat := sub 6 (noTiles s x)
/-- Takes the baton, or waits in line for it (14 R248). -/
def batTakeRun (s : State) : State :=
  match s.group with
  | [] => s
  | i :: _ =>
    let x := s.slice i
    let h := homeUnit s x.uk
    let u := s.punit h
    let g := gangKey x
    if u.holder = some g then s.mapGroup endWait
    else if u.holder.isNone then (s.updUnit h fun u => { u with holder := some g }).mapGroup endWait
    else
      let (n, s) := s.fresh
      let s : State := if u.takers.any fun t => t.2 == g then s else s.updUnit h fun u => { u with takers := u.takers ++ [(n, g)] }
      s.mapGroup fun x => { x with run := .waiting (.baton h) }
/-- Its checks precede its wait; a group that completes the wait may have lost members since (02 R36). -/
def batTakeTrap (s : State) (x : Slice) : Option TrapInfo :=
  match x.run with
  | .waiting (.baton _) => none
  | _ => mxTrap 1 batSubs s x
def execBatTake (s : State) : Result := .next (mxIssue .batTake batTakeTrap batTakeRun s)
/-- ILLCONV of a gang that does not hold the baton comes before ILLCFG. -/
def batGiveTrap (s : State) (x : Slice) : Option TrapInfo :=
  match convFail s x 1 with
  | some c => some (trapAt s x tILLCONV c 0)
  | none =>
    if (s.punit (homeUnit s x.uk)).holder != some (gangKey x) then some (trapAt s x tILLCONV 3 0)
    else (batSubs s x).head?.map fun c => trapAt s x tILLCFG c 0
def execBatGive (s : State) : Result :=
  .next (mxIssue .batGive batGiveTrap (fun s => match s.group with
    | [] => s
    | i :: _ => (batonGrant s (homeUnit s (s.slice i).uk)).mapGroup advance) s)
def execBatTest (d : SReg) (s : State) : Result :=
  .next (mxIssue (.batTest d) (mxTrap 1 batSubs) (fun s => s.mapGroup fun x =>
    advance (x.ws d (b2w ((s.punit (homeUnit s x.uk)).holder == some (gangKey x))))) s)

/-! ### Performing (15 R255, R259-R265) -/

/-- A capability failure of a feeder or of the output path (13 R244). -/
abbrev Feed (α : Type) := Except (Byte × W64) α
/-- The address of an image row, checked; the whole image's address must be a multiple of 16 (15 R253). -/
def rowCheck (s : State) (m : MxOp) (perm : Nat) (r n : Nat) : Feed Int :=
  let x := s.slice m.slice
  let a : Int := m.addr.toInt + (r * n : Nat)
  match capCheck s x m.cap [1, 2] [perm] a n (if r = 0 then 16 else 1) with
  | some c => .error (c, toW64 a)
  | none => .ok a
/-- The bytes of a row of an operand image. -/
def fetchRow (s : State) (m : MxOp) (r b : Nat) : Feed (List Byte) :=
  (rowCheck s m pL r b).map fun a => rdBytes s (s.slice m.slice) m.cap a b
/-- The block that a matrix operand kills, with its report and its matrix state scrubbed (13 R244). -/
def matrixKill (s : State) (m : MxOp) (f : Byte × W64) : State :=
  let x := s.slice m.slice
  let b := s.block m.block
  let s : State := killBlock s m.block [mkRec s x { code := f.1, pc := m.pc, rpc := m.pc, info := f.2, word := m.word }]
  b.pdks.foldl (fun (s : State) p => s.updUnit (unitOn m.unit p) fun u =>
    { u with active := [], shadow := [], tiles := [], live := 0, kind := 0, badTiles := 0, badPlanes := 0 }) s

/-- The half `h` of a row's bytes. -/
def rowHalf (c h : Nat) (row : List Byte) : List Byte := (row.drop (h * halfBytes c)).take (halfBytes c)
/-- Bytes of a row of an operand image (15 R253). -/
def rowBytes (m : MxOp) : Nat := halfBytes m.fmt * (shapeK m.sh / 64)
/-- An instruction has performed a row: it keeps its place with its progress, or leaves the queue with its last (15 R270). -/
def rowDone (s : State) (u : Nat) (m : MxOp) : State :=
  s.updUnit u fun p => { p with mq := if m.done + 1 < m.n then { m with done := m.done + 1 } :: p.mq.tail else p.mq.tail }
/-- The next column of `mlw`: the first clears the rest of the shadow plane (15 R259). -/
def performMlw (s : State) (m : MxOp) : State :=
  match fetchRow s m m.done (rowBytes m) with
  | .error f => matrixKill s m f
  | .ok row =>
    let s : State := if m.done = 0 then (shapeUnits s m.sh m.unit).foldl (fun (s : State) u => s.updUnit u fun p =>
      { p with shadow := [], shadowFmt := m.fmt, badPlanes := p.badPlanes &&& 1 }) s else s
    (kHalves m.sh).foldl (fun (s : State) kh => s.updUnit (quadUnit s m.sh m.unit kh (m.done / 64)) fun u =>
      { u with shadow := u.shadow.setList (64 * (m.done % 64)) (planeWords m.fmt m.perm (rowHalf m.fmt kh row)) }) s
def performMswap (s : State) (m : MxOp) (sh : Shape) : State :=
  (shapeUnits s sh m.unit).foldl (fun (s : State) u => s.updUnit u fun p =>
    { p with active := p.shadow, activeFmt := p.shadowFmt, shadow := p.active, shadowFmt := p.activeFmt, badPlanes := p.badPlanes.rotateLeft 1 }) s

/-- Key of a tile element. -/
def tileKey (t r n : Nat) : Nat := 4096 * t + 64 * r + n
/-- Every element of a tile at +0. -/
def tileClear (c : Cells 32) (t : Nat) : Cells 32 := c.filter fun p => p.1 / 4096 != t
/-- Sets liveness and kind of a logical tile in every paddock that holds a part of it. -/
def setTile (s : State) (m : MxOp) (sh : Shape) (t : Nat) (live int : Bool) : State :=
  (nHalves sh).foldl (fun (s : State) nh => s.updUnit (quadUnit s sh m.unit 0 nh) fun u =>
    { u with live := putBit u.live t live, kind := putBit u.kind t int }) s
/-- Rewrites a logical tile part by part: `f` gives column half, row, column and the old element. -/
def mapTile (s : State) (m : MxOp) (sh : Shape) (t : Nat) (rows : List Nat) (f : Nat → Nat → Nat → W32 → W32) : State :=
  (nHalves sh).foldl (fun (s : State) nh => s.updUnit (quadUnit s sh m.unit 0 nh) fun u =>
    { u with tiles := rows.foldl (fun (c : Cells 32) r => (List.range 64).foldl (fun (c : Cells 32) n =>
        c.set (tileKey t r n) (f nh r n (c.get (tileKey t r n)))) c) u.tiles }) s

/-- The next row of `mst`: products of its positions and the columns of the active plane, added to the row of the tile, which
`.z` clears whole before its first row (15 R260, R261). -/
def performMst (s : State) (m : MxOp) (z : Bool) (t : Nat) : State :=
  let sh := m.sh
  match fetchRow s m m.done (rowBytes m) with
  | .error f => matrixKill s m f
  | .ok row =>
    let md := frMode m.fr
    let int := accInt (frACC m.fr)
    let s : State := if z && m.done == 0 then (nHalves sh).foldl (fun (s : State) nh => s.updUnit (quadUnit s sh m.unit 0 nh) fun u =>
      { u with tiles := tileClear u.tiles t, badTiles := putBit u.badTiles t false }) s else s
    let word := fun (kh k : Nat) => (planeWords m.fmt m.perm (rowHalf m.fmt kh row)).getD k 0
    let col := fun (nh n kh k : Nat) => (s.punit (quadUnit s sh m.unit kh nh)).active.get (64 * n + k)
    let bf := (s.punit m.unit).activeFmt
    let acc := fun (nh n : Nat) (e : W32) =>
      if int then accInt32 md.sat e ((kHalves sh).flatMap fun kh => posInts (word kh)) ((kHalves sh).flatMap fun kh => posInts (col nh n kh))
      else accFloat md.ftz e ((kHalves sh).flatMap fun kh => posValues m.fmt md.ftz (word kh))
        ((kHalves sh).flatMap fun kh => posValues bf md.ftz (col nh n kh))
    let s : State := mapTile s m sh t [m.done] fun nh _ n e => acc nh n e
    (setTile s m sh t true int).count ((s.slice m.slice).ck) 0x20 1

/-- The bytes of a tile element in an accumulate format (15 R263). -/
def outElem (acc : Nat) (md : FrMode) (e : W32) : List Byte :=
  match acc with
  | 1 => leBytes 2 (cvt md .bf16 .f32 e.toNat)
  | 2 => leBytes 2 (cvt md .f16 .f32 e.toNat)
  | 6 => leBytes 1 (cvt md .i8 .i32 e.toNat)
  | _ => leBytes 4 e.toNat
/-- A logical tile row as it is written. -/
def outRow (s : State) (m : MxOp) (sh : Shape) (t r : Nat) : List Byte :=
  (nHalves sh).flatMap fun nh => (List.range 64).flatMap fun n =>
    outElem m.fmt (frMode m.fr) ((s.punit (quadUnit s sh m.unit 0 nh)).tiles.get (tileKey t r n))
/-- The next row of `mout` is written (15 R263); one that fails kills the block (13 R244). -/
def performMout (s : State) (m : MxOp) (t : Nat) : State :=
  let bs := outRow s m m.sh t m.done
  match rowCheck s m pP m.done bs.length with
  | .error f => matrixKill s m f
  | .ok a => wrBytes s (s.slice m.slice) m.cap a bs

/-- The segment of a tile row that `mrd` and `mwr` move: half of the columns by sCol. -/
def segUnit (s : State) (m : MxOp) (sh : Shape) : Nat := quadUnit s sh m.unit 0 (m.m / 64)
def performMrd (s : State) (m : MxOp) (sh : Shape) (ty : Ty) (d : VReg) (t : Nat) : State :=
  let e := fun n => (s.punit (segUnit s m sh)).tiles.get (tileKey t m.n n)
  let md := frMode m.fr
  s.updSlice m.slice fun x =>
    if ty == .f32 || ty == .i32 then landV (d + 1) (-1) (fun l => e (32 + l)) (landV d (-1) e x)
    else landV d (-1) (fun l => BitVec.ofNat 32 (cvt md ty .f32 (e (2 * l)).toNat + 2 ^ 16 * cvt md ty .f32 (e (2 * l + 1)).toNat)) x
def performMwr (s : State) (m : MxOp) (sh : Shape) (ty : Ty) (t : Nat) : State :=
  let v := fun i l => (m.vecs.getD i []).getD l 0
  let val := fun (n : Nat) =>
    if ty == .f32 || ty == .i32 then v (n / 32) (n % 32)
    else BitVec.ofNat 32 (cvt {} .f32 ty (elem (v 0 (n / 2)) 16 (n % 2)))
  let s : State := s.updUnit (segUnit s m sh) fun u =>
    { u with tiles := (List.range 64).foldl (fun (c : Cells 32) n => c.set (tileKey t m.n n) (val n)) u.tiles }
  setTile s m sh t true (ty == .i32)

/-- Whether `t` stands in the chain of node `r` (14 R247). -/
def inChain (par : List Nat) (t : Nat) : Nat → Nat → Bool
  | 0, _ => false
  | n + 1, r => r != 0xFF && (r == t || inChain par t n (par.getD r 0xFF))
def performMask (s : State) (m : MxOp) (sh : Shape) (t : Nat) : State :=
  let ws := m.vecs.headD []
  let par := (List.range 64).map fun n => bitsOf (ws.getD (n / 4) 0).toNat (8 * (n % 4)) 8
  let vis := fun (nh r c : Nat) =>
    let j := m.m + 64 * nh + c
    decide (j < m.n) || (decide (j - m.n ≤ 63) && inChain par (j - m.n) 65 r)
  setTile (mapTile s m sh t (List.range 64) fun nh r c e => if vis nh r c then e else 0xFF800000) m sh t true false

/-- A tile that an instruction reads carries a poison mark. -/
def tilePoison (s : State) (m : MxOp) (t : Nat) : Bool := (nHalves m.sh).any fun nh => (s.punit (quadUnit s m.sh m.unit 0 nh)).badTiles.getLsbD t
/-- The active plane does, in a quadrant of the shape. -/
def planePoison (s : State) (m : MxOp) : Bool := (shapeUnits s m.sh m.unit).any fun u => (s.punit u).badPlanes.getLsbD 0
/-- The next row that a feeder reads, or the tile or the plane that the instruction uses, is poisoned (21 R339). -/
def feedsPoison (s : State) (m : MxOp) : Bool :=
  let row := !s.poison.isEmpty && match rowCheck s m pL m.done (rowBytes m) with
    | .ok a => (keysAt s (s.slice m.slice) m.cap a (rowBytes m)).any fun k => s.poison.contains k
    | .error _ => false
  match m.i with
  | .mlw _ _ _ => row
  | .mst z t _ _ _ => row || planePoison s m || (!(z && m.done == 0) && tilePoison s m t.toNat)
  | .mrd _ _ t _ _ => (s.punit (segUnit s m m.sh)).badTiles.getLsbD t.toNat
  | .mout _ _ t _ => tilePoison s m t.toNat
  | .mmaskTree t _ _ _ => tilePoison s m t.toNat
  | _ => false
/-- An instruction that is performed row by row, or column by column (15 R270). -/
def byRows : Instr → Bool
  | .mlw _ _ _ => true
  | .mst _ _ _ _ _ => true
  | .mout _ _ _ _ => true
  | _ => false
/-- The oldest instruction of a unit's queue can go on: a change of shape waits for every earlier instruction of every paddock that
it concerns (15 R257). -/
def mxReady (s : State) (unit : Nat) : Bool :=
  match (s.punit unit).mq with
  | [] => false
  | m :: _ => match m.i with
    | .mcfg _ sh => sh == m.sh || (mcfgUnits s (s.slice m.slice) sh m.sh).all fun u => match (s.punit u).mq with
      | n :: _ => n.seq == m.seq
      | [] => false
    | _ => true
/-- A change of shape: planes and tiles are as new, and paddocks that have left the shape have their batons free (15 R257). -/
def performMcfg (s : State) (m : MxOp) (sh : Shape) : State :=
  let x := s.slice m.slice
  let us := mcfgUnits s x sh m.sh
  let new := shapeUnits s sh x.uk
  let s : State := us.foldl (fun (s : State) u => s.updUnit u fun p =>
    { p with active := [], activeFmt := 1, shadow := [], shadowFmt := 1, tiles := [], live := 0, kind := 0, badTiles := 0, badPlanes := 0
             mq := p.mq.tail }) s
  (us.filter fun u => !new.contains u).foldl (fun (s : State) u =>
    let p := s.punit u
    if p.holder == some (gangKey x) && p.mq.all fun n => match n.i with | .mcfg _ h => h == n.sh | _ => true then batonGrant s u else s) s
/-- The oldest instruction of a unit's queue: its next row or column, or the whole of an instruction without rows (15 R255,
R270). -/
def execMatrixPerform (unit : Nat) (s : State) : Result :=
  match (s.punit unit).mq with
  | [] => .next s
  | m :: _ =>
    if !mxReady s unit then .next s
    else if feedsPoison s m then .next (s.consume m.block none)
    else
      let s : State := if byRows m.i then rowDone s unit m else s
      let pop := fun (s : State) => s.updUnit unit fun u => { u with mq := u.mq.tail }
      .next (match m.i with
        | .mlw _ _ _ => performMlw s m
        | .mswap => performMswap (pop s) m m.sh
        | .mst z t _ _ _ => performMst s m z t.toNat
        | .mzero t => setTile ((nHalves m.sh).foldl (fun (s : State) nh => s.updUnit (quadUnit s m.sh m.unit 0 nh) fun u =>
            { u with tiles := tileClear u.tiles t.toNat, badTiles := putBit u.badTiles t.toNat false }) (pop s)) m m.sh t.toNat false false
        | .mrd ty d t _ _ => performMrd (pop s) m m.sh ty d t.toNat
        | .mwr ty t _ _ _ => performMwr (pop s) m m.sh ty t.toNat
        | .mout _ _ t _ => performMout s m t.toNat
        | .mmaskTree t _ _ _ => performMask (pop s) m m.sh t.toNat
        | .mcfg _ sh => if sh = m.sh then pop s else performMcfg s m sh
        | _ => pop s)
/-- Steps that the instructions of a unit's queue still take. -/
def mxSteps (u : PUnit) : Nat := (u.mq.map fun m => if byRows m.i then m.n - m.done else 1).foldl (· + ·) 0
/-- Performs the queues of some units while a condition holds, those first that it names. -/
def drainMatrix (us : List Nat) (more : State → Nat → Bool) : Nat → State → State
  | 0, s => s
  | n + 1, s =>
    let l := us.filter (more s)
    if l.isEmpty then s
    else match (l ++ us).find? (mxReady s) with
    | some u => drainMatrix us more n (match execMatrixPerform u s with | .next t => t | _ => s)
    | none => s
/-- Everything that the units hold which a condition names is performed. -/
def drainAll (us : List Nat) (more : State → Nat → Bool) (s : State) : State :=
  drainMatrix us more ((us.map fun u => mxSteps (s.punit u)).foldl (· + ·) 0) s

end Sys2Proof.Machine
end

