-- ==== Sys2Proof/Machine/SpecialReg.lean ====
section
/-! DEFINITION. Special registers: `rdsr`, `wrsr`, and what the trap handler reaches through its own numbers
(04 R96-R98, 13 R232-R236). -/
namespace Sys2Proof.Machine

/-! ### The handler's target (13 R233, R234) -/

/-- The slice that `%hsel` names in the block being served; `[7:6]` are not looked at. -/
def hTarget (s : State) (h : Slice) : Option Slice :=
  let u := s.punit h.uk
  u.service.bind fun e => s.slices.find? fun y =>
    !y.handler && y.block == e.block && y.gid == bitsOf u.hsel.toNat 0 6 && y.idx == bitsOf u.hsel.toNat 8 2
/-- The target, if it is held (13 R233). -/
def heldTarget (s : State) (h : Slice) : Option Slice := (hTarget s h).filter fun t => t.run == .held

/-- The code of a target's state (13 R233). -/
def hstCode (t : Option Slice) : Nat :=
  match t with
  | none => 0
  | some x =>
    if x.run != .held && x.alive == 0 then 0
    else match x.run with
      | .retired => 0
      | .held => 2
      | .parked _ => 3
      | .waiting (.alloc _) => 5
      | .waiting (.copy _) => 4
      | .waiting (.bar _ _) => 4
      | .waiting (.bb _ _) => 4
      | .waiting (.baton _) => 4
      | .waiting (.sysc _) => 4
      | .waiting .answered => 4
      | .waiting (.cmds _) => 4
      | .waiting (.answer _) => 4
      | .waiting .gjoin => 4
      | .waiting (.idle _) => 4
      | _ => 1

/-- The state that a meaning leaves. -/
def stateOf (s : State) (r : Result) : State :=
  match r with
  | .next s' => s'
  | _ => s
/-- A unit's queue holds an `mrd` of a slice. -/
def holdsMrd (id : Nat) (s : State) (unit : Nat) : Bool :=
  (s.punit unit).mq.any fun m => m.slice == id && (match m.i with | .mrd _ _ _ _ _ => true | _ => false)
/-- Results that a slice has issued and that have not landed are written (02 R50). -/
def flushSlice (s : State) (id : Nat) : State :=
  let x := s.slice id
  let s : State := x.xv.queue.foldl (fun (s : State) _ => xvRetireOne s id) s
  let s : State := drainAll ((List.range 4).map (unitOn x.uk)) (holdsMrd id) s
  s.updSlice id fun x => x.land.foldl landOne { x with land := [] }

/-- A waiter without one of its members; none once it has no member. -/
def Waiter.without (w : Waiter) (x : Slice) : Option Waiter :=
  if !w.members.contains x.id then some w
  else if (w.members.erase x.id).isEmpty then none
  else some { w with members := w.members.erase x.id, need := w.need - (w.e - x.ext) / 32 }
/-- Stops a target at its next instruction boundary; a wait is issued again when it resumes, and an instruction that
has had its effect is over (13 R234). -/
def holdSlice (s : State) (id : Nat) : State :=
  let s : State := flushSlice s id
  let x := s.slice id
  let s : State := { s with pdks := s.pdks.map fun p => { p with waiters := p.waiters.filterMap (·.without x) } }
  let s : State := (takerGone s x).updSlice id fun x =>
    let y := match x.run with
      | .waiting .xvDone => advance x
      | .waiting .answered => advance x
      | _ => x
    { y with run := .held, marked := true }
  allocGrants s x.pk

/-- A write of `%hctl`, and whether it is complete: a target whose instruction still pushes tasks has not reached a
boundary (13 R234). -/
def hctlAct (s : State) (h : Slice) (v : Nat) : State × Bool :=
  match v, hTarget s h with
  | 1, some t =>
    if t.run == .held then (s.updSlice t.id fun x => { x with marked := true }, true)
    else if t.run == .retired || t.alive == 0 then (s, true)
    else if !t.pushes.isEmpty then (s, false)
    else (holdSlice s t.id, true)
  | 2, some t => (if t.run == .held then s.updSlice t.id fun x => { x with marked := true } else s, true)
  | 3, some t => (if t.run == .held then s.updSlice t.id fun x => { x with marked := false } else s, true)
  | 4, _ =>
    match (s.punit h.uk).service with
    | some e => (killBlock s e.block [e.trec], true)
    | none => (s, true)
  | _, _ => (s, true)
/-- A `%hctl` write of the handler slice, which then goes on. -/
def hctlOp (v : Slice → Nat) (s : State) : State :=
  seqOp s fun (s : State) (x : Slice) =>
    let (s, fin) := hctlAct s x (v x)
    if fin && (s.slice x.id).run != .retired then s.updSlice x.id advance else s

/-! ### Elements of the target (13 R235) -/

/-- Fields of `%hrn`. -/
def hrnClass (n : BitVec 20) : Nat := bitsOf n.toNat 0 4
def hrnIndex (n : BitVec 20) : Nat := bitsOf n.toNat 4 8
def hrnLane (n : BitVec 20) : Nat := bitsOf n.toNat 12 5
def hrnEntry (n : BitVec 20) : Nat := bitsOf n.toNat 17 3

/-- A format register without reserved format codes and with a table id below 8 (04 R98). -/
def frOk (v : W64) : Bool := [0, 4, 8].all (fun o => decide (bitsOf v.toNat o 4 < 8)) && decide (bitsOf v.toNat 16 8 < 8)

/-- Replaces the remaining count of an active level (04 R92). -/
def setCount (l : Bool) (v : W32) (x : Slice) : Slice :=
  if (x.lc l).active then x.setLc l { x.lc l with count := v } else x

/-- What `%hrd` reads of an element. -/
def hrdRead (t : Slice) (n : BitVec 20) : W64 :=
  let i := hrnIndex n
  let l := hrnLane n
  let w := fun (x : Nat) => BitVec.ofNat 64 x
  match hrnClass n with
  | 0 => if i < 64 then t.rs (BitVec.ofNat 6 i) else 0
  | 1 => if i < t.allot then (t.rv (BitVec.ofNat 8 i) l).setWidth 64 else 0
  | 2 => if i < 8 then (t.rk (BitVec.ofNat 3 i)).setWidth 64 else 0
  | 3 => if i < 16 then (t.rc (BitVec.ofNat 4 i)).bits.setWidth 64 else 0
  | 4 => if i < 16 then ((t.rc (BitVec.ofNat 4 i)).bits >>> 64).setWidth 64 else 0
  | 5 => if i < 16 then b2w (t.rc (BitVec.ofNat 4 i)).tag else 0
  | 6 => t.fr
  | 7 => if i < 2 then (t.lc (i == 1)).count.setWidth 64 else 0
  | 8 => if i < 2 then (t.lc (i == 1)).start else 0
  | 9 => if i < 2 then (t.lc (i == 1)).stop else 0
  | 10 => if hrnEntry n < t.xv.dep l then (t.xv.stack.get (8 * l + hrnEntry n)).setWidth 64 else 0
  | 11 => w (t.xv.dep l + 16 * (t.xv.code.get l).toNat)
  | 12 => if i < 32 then (t.xv.consts.get i).setWidth 64 else 0
  | 13 => t.xv.lfm.setWidth 64
  | 14 => match t.region with | some r => r.entry | none => 0
  | _ => t.batch.setWidth 64

/-- A capability register whose halves are replaced; the tag is cleared. -/
def hrdCap (t : Slice) (i : Nat) (hi : Bool) (v : W64) : Slice :=
  let b := (t.rc (BitVec.ofNat 4 i)).bits
  let lo : W64 := b.setWidth 64
  let up : W64 := (b >>> 64).setWidth 64
  t.wc (BitVec.ofNat 4 i) { bits := if hi then v ++ lo else up ++ v, tag := false }

/-- What a write of `%hrd` leaves of the target. -/
def hrdPut (n : BitVec 20) (v : W64) (t : Slice) : Slice :=
  let i := hrnIndex n
  let l := hrnLane n
  match hrnClass n with
  | 0 => if i < 64 then t.ws (BitVec.ofNat 6 i) v else t
  | 1 => if i < t.allot then t.wv (BitVec.ofNat 8 i) ((1 : W32) <<< l) fun _ => v.setWidth 32 else t
  | 2 => if i < 8 then t.wk (BitVec.ofNat 3 i) (v.setWidth 32) else t
  | 3 => if i < 16 then hrdCap t i false v else t
  | 4 => if i < 16 then hrdCap t i true v else t
  | 6 => if frOk v then { t with fr := v &&& 0xFFFFFF } else t
  | 7 => if i < 2 then setCount (i == 1) (v.setWidth 32) t else t
  | 10 =>
    if hrnEntry n < t.xv.dep l then { t with xv := { t.xv with stack := t.xv.stack.set (8 * l + hrnEntry n) (v.setWidth 32) } }
    else t
  | 11 =>
    let d := bitsOf v.toNat 0 4
    let c := bitsOf v.toNat 4 4
    if 8 < d ∨ 5 < c then t
    else
      let old := t.xv.dep l
      { t with xv := { t.xv with
        depth := t.xv.depth.set l (BitVec.ofNat 4 d)
        code := t.xv.code.set l (BitVec.ofNat 4 c)
        stack := t.xv.stack.filter fun p => !(p.1 / 8 == l && (decide (d ≤ p.1 % 8) || decide (old ≤ p.1 % 8))) } }
  | 12 => if i < 32 then { t with xv := { t.xv with consts := t.xv.consts.set i (v.setWidth 32) } } else t
  | 13 => { t with xv := t.xv.setLfm (v.setWidth 32) }
  | _ => t

/-- A handler's write through `%hrd`, `%hpc`, `%hcap`: a target that is not held is left alone (13 R233). -/
def onHeld (f : Slice → Slice → PUnit → Slice) (s : State) : State :=
  seqOp s fun (s : State) (x : Slice) =>
    let s : State := match heldTarget s x with
      | some t => s.updSlice t.id (f x · (s.punit x.uk))
      | none => s
    s.updSlice x.id advance

/-! ### Reading (04 R96, R97, 13 R232) -/

/-- Traps of the handler's context not yet served (13 R232). -/
def hqCount (u : PUnit) : Nat := min (u.traps.length + u.late.length) 255

/-- Membership by halves: bits 2s and 2s + 1 for slice s (19 R319). -/
def gmHalves (gm : BitVec 4) : Nat := (List.range 4).foldl (fun a i => a + 3 * 4 ^ i * b2n (gm.getLsbD i)) 0
/-- The value of a special register that is not a handler's; in compatibility mode `%slice` and `%gm` count halves (19 R319). -/
def srCommon (s : State) (x : Slice) (n : Nat) : W64 :=
  let w := fun (v : Nat) => BitVec.ofNat 64 v
  let b := s.block x.block
  match n with
  | 0x001 => w (if cmp16 s x then 2 * x.idx else x.idx)
  | 0x002 => w x.gid
  | 0x003 => w (32 * popc x.gm)
  | 0x004 => if cmp16 s x then w (gmHalves x.gm) else x.gm.setWidth 64
  | 0x005 => x.alive.setWidth 64
  | 0x006 => b.blk.setWidth 64
  | 0x007 => b.crew.setWidth 64
  | 0x008 => w b.lcore
  | 0x009 => w (pdkNo s x)
  | 0x00A => w x.die
  | 0x00B => s.node.setWidth 64
  | 0x00C => w x.ctx
  | 0x00D => s.ccTurn x
  | 0x00E => x.fr &&& 0xFFFFFF
  | 0x00F => x.xv.lfm.setWidth 64
  | 0x010 => (s.ctxOf x).wu
  | 0x011 => b.bph.setWidth 64
  | 0x012 => x.lc0.count.setWidth 64
  | 0x013 => x.lc1.count.setWidth 64
  | _ => 0

/-- The value of a handler's register; a write-only one reads 0 (13 R232). -/
def srHandler (s : State) (x : Slice) (n : Nat) : W64 :=
  let u := s.punit x.uk
  match n with
  | 0x110 => u.hsel.setWidth 64
  | 0x111 => BitVec.ofNat 64 (hstCode (hTarget s x))
  | 0x112 => match heldTarget s x with | some t => t.pc | none => 0
  | 0x114 => u.hrn.setWidth 64
  | 0x115 => match heldTarget s x with | some t => hrdRead t u.hrn | none => 0
  | 0x118 => u.hxs.setWidth 64
  | 0x119 => BitVec.ofNat 64 (hqCount u)
  | n =>
    if 0x100 ≤ n ∧ n ≤ 0x107 then
      match u.service with
      | some e => BitVec.ofNat 64 (leNat ((e.trec.bytes.drop (8 * (n - 0x100))).take 8))
      | none => 0
    else 0
def srValue (s : State) (x : Slice) (n : Nat) : W64 := if inHandlerRange n then srHandler s x n else srCommon s x n

/-- `%lfm` waits for earlier execute-vector instructions (06 R132). -/
def lfmAfter (n : Nat) (s : State) (run : State → State) : State := if n = 0x00F then xvAfter s run else run s

def execRdsr (d : SReg) (n : BitVec 12) (s : State) : Result :=
  .next (issue (.rdsr d n) s fun s => lfmAfter n.toNat s fun s =>
    s.mapGroup fun x => advance (x.ws d (srValue s x n.toNat)))
/-- What lane `l` receives: the low 32 bits, or its own index of `%lane`; in compatibility mode the index in its half, and
of `%slice` the half's own index (04 R96, 19 R319). -/
def srLane (s : State) (x : Slice) (n l : Nat) : W32 :=
  if n = 0 then BitVec.ofNat 32 (l % unitW s x)
  else if n = 1 then BitVec.ofNat 32 (if cmp16 s x then 2 * x.idx + l / 16 else x.idx)
  else (srValue s x n).setWidth 32
def execRdsrV (p : Pred) (d : VReg) (n : BitVec 12) (s : State) : Result :=
  .next (issue (.rdsrV p d n) s fun s => lfmAfter n.toNat s fun s =>
    s.mapGroup fun x => advance (x.wv d (x.sel p) (srLane s x n.toNat)))

/-! ### Writing -/

/-- Writes of the handler's registers that have no row of their own; 0 and 5 to 7 of `%hctl` are ignored (13 R232-R234). -/
def execWrsr (n : BitVec 12) (a : SReg) (s : State) : Result :=
  .next (issue (.wrsr n a) s fun s =>
    match n.toNat with
    | 0x110 => seqOp s fun (s : State) (x : Slice) =>
        (s.updUnit x.uk fun u => { u with hsel := (x.rs a).setWidth 10 }).updSlice x.id advance
    | 0x112 => onHeld (fun x t _ => { t with pc := x.rs a &&& ~~~7 }) s
    | 0x113 => hctlOp (fun x => (x.rs a).toNat % 8) s
    | 0x114 => seqOp s fun (s : State) (x : Slice) =>
        (s.updUnit x.uk fun u => { u with hrn := (x.rs a).setWidth 20 }).updSlice x.id advance
    | _ => s.mapGroup advance)
def execHctlHold (s : State) : Result := .next (issue .hctlHold s (hctlOp fun _ => 1))
def execHctlMark (s : State) : Result := .next (issue .hctlMark s (hctlOp fun _ => 2))
def execHctlUnmark (s : State) : Result := .next (issue .hctlUnmark s (hctlOp fun _ => 3))
def execHctlKill (s : State) : Result := .next (issue .hctlKill s (hctlOp fun _ => 4))
def execHrdWrite (a : SReg) (s : State) : Result :=
  .next (issue (.hrdWrite a) s (onHeld fun x t u => hrdPut u.hrn (x.rs a) t))
/-- The named target capability becomes a copy of the handler's, tag included; `%hrn` must name a capability (13 R235). -/
def execHcapWrite (a : SReg) (s : State) : Result :=
  .next (issue (.hcapWrite a) s (onHeld fun x t u =>
    if 3 ≤ hrnClass u.hrn ∧ hrnClass u.hrn ≤ 5 ∧ hrnIndex u.hrn < 16 then
      t.wc (BitVec.ofNat 4 (hrnIndex u.hrn)) (x.rc ((x.rs a).setWidth 4))
    else t))

/-- A payload length that can be sent. -/
def rinvLenOk (n : Nat) : Bool := n % 16 == 0 && decide (16 ≤ n) && decide (n ≤ 192)
/-- The status written at issue without sending. -/
def rinvEarly (x : Slice) (h len : SReg) : Option W64 :=
  if !rinvLenOk (x.rs len).toNat then some 4 else if 256 ≤ (x.rs h).toNat then some 2 else none
def rinvAddr (x : Slice) (c : CReg) (imm : BitVec 12) : Int := (x.rc c).base + imm.toNat
def rinvFail (h len : SReg) (c : CReg) (imm : BitVec 12) (s : State) (x : Slice) : Option TrapInfo :=
  if (rinvEarly x h len).isSome then none
  else cpyTrap s x (chk s x (x.rc c) [1, 2, 3] [pL] 0 255 (rinvAddr x c imm) (x.rs len).toNat 1)
/-- An invoke that is sent: `rinv.t` then holds for its answer; with a bad length or handler number it completes at once, and a
trap of its payload's check is the word's own (13 R236, 16 R275). -/
def rinvSends (h len : SReg) (c : CReg) (imm : BitVec 12) (s : State) (t : Slice) : Bool :=
  (rinvEarly t h len).isNone && (rinvFail h len c imm s t).isNone
/-- Words that a proxy refuses (13 R236): by opcode, and waits, a fence that would hold and an `rinv.t` that would hold among them. -/
def proxyRefused (s : State) (t : Slice) (opc : Nat) (i : Instr) : Bool :=
  (1 ≤ opc && opc ≤ 0x0E) || opc == 0x13 || opc == 0x14 || (0x18 ≤ opc && opc ≤ 0x1C) ||
    match i with
    | .cpyWait _ => true
    | .barWait _ _ => true
    | .bbWait _ _ => true
    | .fence o _ => !(fenceWaits o s t).isEmpty
    | .rinv tt _ _ h c imm len _ _ => tt && rinvSends h len c imm s t
    | .mcfg _ _ => true
    | .mperm _ _ _ => true
    | .mlw _ _ _ => true
    | .mswap => true
    | .mst _ _ _ _ _ => true
    | .mzero _ => true
    | .mrd _ _ _ _ _ => true
    | .mwr _ _ _ _ _ => true
    | .mout _ _ _ _ => true
    | .mmaskTree _ _ _ _ => true
    | .batTake => true
    | .batGive => true
    | .batTest _ => true
    | _ => false
/-- A proxy word starts, or is refused with 0x01, which is the code of an undefined word too (13 R236). -/
def execHexeWrite (a : SReg) (s : State) : Result :=
  .next (issue (.hexeWrite a) s fun s => seqOp s fun (s : State) (x : Slice) =>
    let s : State := match heldTarget s x with
      | none => s
      | some t =>
        let w := x.rs a
        match decode (hdrOf s t) w.toNat with
        | .error _ => s.updUnit x.uk fun u => { u with hxs := tILLOP }
        | .ok i =>
          if proxyRefused s t (bitsOf w.toNat 8 8) i then s.updUnit x.uk fun u => { u with hxs := tILLOP }
          else s.updUnit x.uk fun u => { u with hxs := 0, proxy := some w }
    s.updSlice x.id advance)

/-- ILLCFG of a format register that the write would leave with a reserved code (04 R98). -/
def frTrap (a : SReg) (s : State) (x : Slice) : Option TrapInfo :=
  if frOk (x.rs a) then none else some (trapAt s x tILLCFG 1 0)
def execFrWrite (a : SReg) (s : State) : Result :=
  trapOp (.frWrite a) (frTrap a) (fun s => s.mapGroup fun x => advance { x with fr := x.rs a &&& 0xFFFFFF }) s
def execLfmWrite (a : SReg) (s : State) : Result :=
  .next (issue (.lfmWrite a) s fun s => xvAfter s fun s =>
    s.mapGroup fun x => advance { x with xv := x.xv.setLfm ((x.rs a).setWidth 32) })
def execLcWrite (l : Bool) (a : SReg) (s : State) : Result :=
  regOp (.lcWrite l a) (fun x => setCount l ((x.rs a).setWidth 32) x) s

end Sys2Proof.Machine
end

