-- ==== Sys2Proof/Machine/Place.lean ====
section
/-! DEFINITION. Placement: what a core has free, where a block, a crew or a wave fits, and the state its slices
start in (01 R18, 02 R43, 10 R181, 18 R299-R303, 21 R335, R348). -/
namespace Sys2Proof.Machine

/-! ### Resources of a core -/

/-- The block holds its places: it has neither ended nor been taken off the machine. -/
def holdsPlace (b : Block) : Bool := b.run != .ended && b.run != .saved
/-- The block's `.shared` area is reserved: the area of a crew stays until its last block ends (10 R181). -/
def holdsShared (s : State) (b : Block) : Bool :=
  holdsPlace b || (decide (1 < b.crewSize) && s.blocks.any fun y =>
    y.crewBase == b.crewBase && y.grid == b.grid && if b.run == .ended then y.run != .ended else holdsPlace y)
/-- Blocks that stand on a core. -/
def coreBlocks (s : State) (core : Nat) : List Block := s.blocks.filter fun b => b.die * 48 + b.core == core && holdsPlace b

/-- Reserved areas of a core's shared memory: base and length. -/
def sharedAreas (s : State) (core : Nat) : List (Nat × Nat) :=
  (s.blocks.filter fun b => b.die * 48 + b.core == core && holdsShared s b).flatMap fun b =>
    [(b.sharedAt, 256 * hShm b.header)] ++ (if holdsPlace b then [(b.argAt, up256 b.argBytes)] else [])
/-- The least base at which `n` bytes fit below a limit beside the areas given. -/
def firstFit (areas : List (Nat × Nat)) (align limit n : Nat) : Option Nat :=
  let cands := 0 :: areas.map fun a => (a.1 + a.2 + align - 1) / align * align
  let ok := cands.filter fun c => decide (c + n ≤ limit) && areas.all fun a => a.2 == 0 || decide (c + n ≤ a.1) || decide (a.1 + a.2 ≤ c)
  ok.foldl (fun (m : Option Nat) c => match m with
    | none => some c
    | some d => some (min c d)) none
/-- Bytes of a core's shared memory that a virtual device uses (18 R313). -/
def sharedUsed (s : State) (core vd : Nat) : Nat :=
  ((s.blocks.filter fun b => b.die * 48 + b.core == core && holdsShared s b && (s.ctx (b.die * 64 + b.ctx)).vdev == vd).map
    fun b => 256 * hShm b.header + (if holdsPlace b then up256 b.argBytes else 0)).foldl (· + ·) 0

/-- The slot in which a context is resident on a paddock. -/
def slotOf (p : Pdk) (ctx : Nat) : Option Nat :=
  if p.slot0 == some ctx then some 0 else if p.slot1 == some ctx then some 1 else none
/-! ### Units under test (21 R341) -/

def State.port (s : State) (k : Nat) : Port := recGet Port.id { id := k } s.ports k
def State.updPort (s : State) (k : Nat) (f : Port → Port) : State := { s with ports := recPut Port.id s.ports k (f (s.port k)) }
/-- The die whose controller tests a unit: a boundary is that of the lower of its dies, a channel has its die in its number
(log 104). -/
def unitDie (p : Part) : TestUnit → Nat
  | .paddock pk => pk / 192
  | .bank core => core / 48
  | .channel n => n % p.dies
  | .port n => if n < p.ports then n / 9 else n - p.ports
/-- The longest time that the test of a unit takes, in cycles. -/
def testTime : TestUnit → Nat
  | .paddock _ => 210000
  | .bank _ => 35000
  | .channel _ => 3500000
  | .port _ => 87500
/-- A self-test of a unit is under way (21 R341). -/
def underTest (s : State) (u : TestUnit) : Bool := s.tests.any fun t => t.unit == u
/-- A test of a unit begins, unless one is under way. -/
def beginTest (s : State) (u : TestUnit) : State :=
  if underTest s u then s else { s with tests := s.tests ++ [{ unit := u, due := s.clk (unitDie s.part u) + testTime u }] }
/-- A number of a record of a unit. -/
def unitKey : TestUnit → Nat
  | .paddock n => 4 * n
  | .bank n => 4 * n + 1
  | .channel n => 4 * n + 2
  | .port n => 4 * n + 3
/-- A corrected error of a unit is counted; its 16th within 2^30 cy has it tested. -/
def corrected (s : State) (u : TestUnit) : State :=
  let d := unitDie s.part u
  let now := s.clk d
  let e := recGet (fun (e : UnitErrs) => unitKey e.unit) { unit := u } s.unitErrs (unitKey u)
  let l := (e.times.filter fun t => decide (now < t + 2 ^ 30)) ++ [now]
  let t : State := { s.countDie d 0x40 1 with
    unitErrs := recPut (fun (e : UnitErrs) => unitKey e.unit) s.unitErrs (unitKey u) { unit := u, times := if l.length < 16 then l else [] } }
  if l.length < 16 then t else beginTest t u
/-- A paddock takes new work: it is neither drained nor retired, and neither it nor a bank of its core is under test (21 R341,
R347). -/
def pdkServes (s : State) (pk : Nat) : Bool :=
  ((s.pdk pk).wstate == .nominal || (s.pdk pk).wstate == .derated) && !underTest s (.paddock pk) && !underTest s (.bank (pk / 4))
/-- The controller of a die works: it is there and no failover is under way (18 R317). -/
def controllerUp (s : State) (d : Nat) : Bool := !(s.die d).failover && !(s.die d).failed
/-- A cut of the context's pod group has stopped its blocks and the controller's work for it on its die (22 R358). -/
def cutHolds (s : State) (k : Nat) : Bool := s.cuts.any fun c => c.die == k / 64 && c.grp == (s.ctx k).grp
/-- The paddock takes new work of a context, which no cut has stopped: resident, of its own virtual device, in service, and, unless `any`, in
the slot that issues (18 R299, R303, R304, 21 R341, R347). -/
def pdkOpen (s : State) (pk k : Nat) (any : Bool) : Bool :=
  let p := s.pdk pk
  (match slotOf p (k % 64) with
   | some n => any || n == p.issuing
   | none => false) && p.vdev == some (s.ctx k).vdev && pdkServes s pk && !p.scrub && !cutHolds s k
/-- Base blocks that a paddock can still give to checked or unchecked slices of a context. -/
def pdkRoom (s : State) (pk k : Nat) (checked : Bool) : Nat :=
  let n := (s.ctx k).pool - poolUsed s pk (k % 64)
  if checked then min n (32 - checkUsed s pk) else n
/-- A paddock holds no other block with tiles of the context (15 R250). -/
def tilesFree (s : State) (pk k : Nat) : Bool :=
  !(s.blocks.any fun b => holdsPlace b && b.ctx == k % 64 && hTiles b.header != 0 &&
    b.pdks.any fun p => (b.die * 48 + b.core) * 4 + p == pk)

/-- What a placement needs to know of a block. -/
structure Need where
  k : Nat := 0
  header : W64 := 0
  gangs : Nat := 1
  args : Nat := 0
  /-- Blocks placed at once. -/
  crew : Nat := 1
  deriving DecidableEq, Repr

/-- Paddocks of a core, least worn first, then by index (21 R348). -/
def insPdk (s : State) (p : Nat) : List Nat → List Nat
  | [] => [p]
  | q :: t => if (s.pdk p).wear < (s.pdk q).wear then p :: q :: t else q :: insPdk s p t
def pdksByWear (s : State) (core : Nat) : List Nat := [0, 1, 2, 3].foldl (fun l p => insPdk s (core * 4 + p) l) []

/-- Gives every gang a paddock with room (02 R43): the paddock of each gang. -/
def dealGangs (s : State) (n : Need) (any : Bool) (order : List Nat) : Nat → (Nat → Nat) → Option (List Nat)
  | 0, _ => some []
  | g + 1, used =>
    let w := hGang n.header
    match order.find? fun p => pdkOpen s p n.k any && decide (used p + w ≤ pdkRoom s p n.k (!hNochk n.header)) &&
        (hTiles n.header == 0 || tilesFree s p n.k) && !((s.pdk p).waiters.any fun y => y.ctx == n.k % 64) with
    | none => none
    | some p => (dealGangs s n any order g fun q => if q = p then used q + w else used q).map (p % 4 :: ·)

/-- A place on a core: paddock of each gang, bases of the `.shared` area and of the argument copy. -/
structure Spot where
  core : Nat := 0
  pdks : List Nat := []
  shared : Nat := 0
  arg : Nat := 0
  wear : Nat := 0
  deriving DecidableEq, Repr

/-- 4 KiB pieces that the spill stacks of a context's placed blocks take on its die. -/
def spillUsed (s : State) (k : Nat) : Nat :=
  ((s.blocks.filter fun b => b.die * 64 + b.ctx == k && holdsPlace b).map fun b => b.ngang * hGang b.header * (s.ctx k).spill).foldl (· + ·) 0
/-- Those that a block, or a whole crew, needs (02 R43). -/
def spillNeed (s : State) (n : Need) : Nat := n.crew * n.gangs * hGang n.header * (s.ctx n.k).spill
/-- Paddocks of a core that belong to a context's virtual device, whose share of shared memory they bring (18 R313). -/
def sharedShare (s : State) (core k : Nat) : Nat := 128 * 1024 * ownedPdks s core (s.ctx k).vdev
/-- The place of a block on a core, if all it needs is free there (02 R43). -/
def spotOn (s : State) (n : Need) (any : Bool) (core : Nat) : Option Spot :=
  let shm := 256 * hShm n.header
  let bb := ((coreBlocks s core).map fun b => hBb b.header).foldl (· + ·) 0
  let cb := ((coreBlocks s core).map fun b => hCbar b.header).foldl (· + ·) 0
  if 16 < bb + hBb n.header ∨ 16 < cb + hCbar n.header ∨ (s.ctx n.k).reserve < spillUsed s n.k + spillNeed s n then none
  else if sharedShare s core n.k < sharedUsed s core (s.ctx n.k).vdev + shm + up256 n.args then none
  else
    let areas := sharedAreas s core
    match firstFit areas 256 (2 ^ 19) shm with
    | none => none
    | some b =>
      match firstFit ((b, shm) :: areas) 256 (2 ^ 19) n.args with
      | none => none
      | some a => (dealGangs s n any (pdksByWear s core) n.gangs fun _ => 0).map fun ps =>
          { core := core, pdks := ps, shared := b, arg := a
            wear := (ps.map fun p => (s.pdk (core * 4 + p)).wear).foldl max 0 }

/-- The first of the places with the least wear. -/
def leastWorn (l : List Spot) : Option Spot :=
  l.foldl (fun (b : Option Spot) x => match b with
    | none => some x
    | some y => if x.wear < y.wear then some x else some y) none
def cores (d : Nat) : List Nat := (List.range 48).map (d * 48 + ·)
/-- Places for one block on a die, or on the core of its stall. -/
def blockSpot (s : State) (n : Need) (any : Bool) (on : List Nat) : Option Spot := leastWorn (on.filterMap (spotOn s n any))

/-- Inserts a place by wear. -/
def insSpot (x : Spot) : List Spot → List Spot
  | [] => [x]
  | y :: t => if x.wear < y.wear then x :: y :: t else y :: insSpot x t
/-- Inserts a place by core. -/
def insCore (x : Spot) : List Spot → List Spot
  | [] => [x]
  | y :: t => if x.core < y.core then x :: y :: t else y :: insCore x t
/-- Places for a crew of `m` blocks on the cores of one quad, in ascending core order, the model's choice (02 R23; log 113). -/
def quadSpots (s : State) (n : Need) (any : Bool) (m q : Nat) : Option (List Spot) :=
  let l := ((List.range 4).filterMap fun i => spotOn s n any (q * 4 + i)).foldl (fun l x => insSpot x l) []
  if m ≤ l.length then some ((l.take m).foldl (fun l x => insCore x l) []) else none
/-- The greatest wear among some places. -/
def spotsWear (l : List Spot) : Nat := (l.map Spot.wear).foldl max 0
/-- Places for a crew on a die: the quad whose greatest wear is least. -/
def crewSpots (s : State) (n : Need) (any : Bool) (m d : Nat) : Option (List Spot) :=
  if m ≤ 1 then (blockSpot s n any (cores d)).map fun x => [x]
  else ((List.range 12).filterMap fun q => quadSpots s n any m (d * 12 + q)).foldl (fun (b : Option (List Spot)) x => match b with
    | none => some x
    | some y => if spotsWear x < spotsWear y then some x else some y) none

/-! ### Grids -/

/-- Key of the context that a grid uses on a die: its own, or that of the same pod group elsewhere (18 R296). -/
def ctxOnDie (s : State) (g : Grid) (d : Nat) : Option Nat :=
  if d = g.die then some (g.die * 64 + g.ctx)
  else
    let grp := (s.ctx (g.die * 64 + g.ctx)).grp
    (s.ctxs.find? fun c => c.die == d && c.valid && c.grp == grp && c.killing == 0).map Ctx.id
/-- Dies on which a grid is placed: one, or all that hold its context when it spans the package (02 R23). -/
def gridDies (s : State) (g : Grid) : List Nat :=
  if g.lrec.span = 0 then [g.die] else g.die :: (List.range s.part.dies).filter (· != g.die)
/-- Those of them whose controllers work. -/
def upDies (s : State) (g : Grid) : List Nat := (gridDies s g).filter (controllerUp s)
/-- Size of the crew that a block begins. -/
def crewAt (g : Grid) (lin : Nat) : Nat := min g.lrec.crew (g.total - lin)
/-- Bytes of the argument copy, with the crew capabilities after it (10 R181). -/
def argLen (g : Grid) (m : Nat) : Nat := 16 * g.lrec.argb + (if 1 < m then 16 * m else 0)
def gridNeed (g : Grid) (k m : Nat) : Need := { k := k, header := g.header, gangs := g.lrec.gangs, args := argLen g m, crew := max 1 m }
/-- Places for a crew of `m` blocks of a grid on the least-worn of its dies (21 R348). -/
def diesSpots (s : State) (g : Grid) (any : Bool) (m : Nat) : Option (Nat × List Spot) :=
  ((upDies s g).filterMap fun d => (ctxOnDie s g d).bind fun k =>
    (crewSpots s (gridNeed g k m) any m d).map fun l => (k, l)).foldl (fun (b : Option (Nat × List Spot)) x => match b with
    | none => some x
    | some y => if spotsWear x.2 < spotsWear y.2 then some x else some y) none
/-- Those for the next new crew. -/
def nextSpots (s : State) (g : Grid) (any : Bool) : Option (Nat × List Spot) := diesSpots s g any (crewAt g g.placed)

/-- `%blk` of a linear index: x runs fastest. -/
def blkOf (r : LaunchRec) (lin : Nat) : BitVec 48 :=
  BitVec.ofNat 48 (lin % r.gx + 2 ^ 16 * (lin / r.gx % r.gy) + 2 ^ 32 * (lin / (r.gx * r.gy)))

/-- `c13` to `c15` at a block's start (01 R18); null for every position where `.shared` is 0, of which R18 speaks for `c13` alone
(log 128). -/
def capShared (pos base shm : Nat) (perm : Nat) : Cap := if shm = 0 then {} else Cap.mk' 2 8 perm (pos * 2 ^ 19 + base) shm
def permSh : Nat := 0x63 + 0x80
def permCrew : Nat := permSh + 0x18
def startCaps (b : Block) (spill : Nat) : Cap × Cap × Cap :=
  let pos := b.crew.toNat / 2 ^ 16
  (capShared pos b.sharedBase (hShm b.header) permSh,
    Cap.mk' 2 4 0x09 (pos * 2 ^ 19 + b.argBase) (b.argBytes / 16),
    Cap.mk' 3 4 0x1B 0 (256 * spill))

/-- A slice at its first instruction (01 R18). -/
def startSlice (s : State) (b : Block) (id gid idx p : Nat) (alive : W32) : Slice :=
  let (c13, c14, c15) := startCaps b (s.ctx (b.die * 64 + b.ctx)).spill
  let x : Slice := { id := id, block := b.id, ctx := b.ctx, die := b.die, core := b.core, pdk := p, gid := gid, idx := idx
                     pc := b.entry, alive := alive, gm := BitVec.ofNat 4 (2 ^ hGang b.header - 1), nextIssue := s.clk b.die }
  (((x.wk 0 alive).wc 13 c13).wc 14 c14).wc 15 c15
/-- The slices of a block in gang and slice order. -/
def startSlices (s : State) (b : Block) (alive : W32) : State :=
  (b.pdks.zipIdx).foldl (fun (s : State) g => (List.range (hGang b.header)).foldl (fun (s : State) i =>
    let (id, s) := s.fresh
    { s with slices := s.slices ++ [startSlice s b id g.2 i g.1 alive] }) s) s

/-- Writes bytes with the tags of their 16-byte units, where those may be tagged. -/
def putTagged (s : State) (key ctx : Nat) (bs : List Byte) (tags : List Bool) : State :=
  let s : State := s.wr key bs
  (tags.zipIdx).foldl (fun (s : State) t =>
    let c : Cap := { bits := BitVec.ofNat 128 (leNat ((bs.drop (16 * t.2)).take 16)) }
    if t.1 && Cap.tagOk c.bits then s.setTag (key + 16 * t.2) (tagByte true (c.has pK) ctx) else s) s
/-- The argument copy of a block: the record, then a capability over the area of each crew position (10 R181). -/
def putArgs (s : State) (g : Grid) (b : Block) (crew : List Block) : State :=
  let caps := if crew.length ≤ 1 then [] else (crew.zipIdx).map fun y => capShared y.2 y.1.sharedBase (hShm g.header) permCrew
  (putTagged s (keyShared (b.die * 48 + b.core) b.argAt) b.ctx
    (g.argBytes ++ caps.flatMap fun c => leBytes 16 c.bits.toNat) (g.argTags ++ caps.map Cap.tag)).putMarks (keyShared (b.die * 48 + b.core) b.argAt) g.argBad

/-- A new numbered barrier with its expected count (11 R206). -/
def newBar (s : State) (level : Scope) (owner num expected : Nat) : State :=
  if s.bars.any fun b => b.level == level && b.owner == owner && b.num == num then s
  else
    let (i, s) := s.fresh
    { s with bars := s.bars ++ [{ id := i, level := level, owner := owner, num := num, expected := expected }] }
def newBars (s : State) (level : Scope) (owner n expected : Nat) : State :=
  (List.range n).foldl (fun (s : State) i => newBar s level owner i expected) s

/-- A grid that carries a join registers with its home when it places its first block (11 R207). -/
def podRegister (s : State) (g : Grid) : State :=
  let n := g.total * g.lrec.gangs * hGang g.header
  let c := s.ctx (g.die * 64 + g.ctx)
  match s.joins.find? fun j => j.j.toNat == g.lrec.pj && j.grp == c.grp with
  | none => s
  | some j =>
    if j.home == s.node then
      { s with
        joins := s.joins.map fun y => if y.key == j.key then { y with registered := y.registered ++ [n] } else y
        bars := s.bars.map fun b => if b.level == .pod && b.owner == j.key then { b with expected := b.expected + n } else b }
    else
      let s : State := { s with joins := s.joins.map fun y => if y.key == j.key then { y with registered := y.registered ++ [n] } else y }
      s.send (barrierMsg s c.id j.home j.grp (barrierPayload 0 0 j.j.toNat n))

/-- Matrix state as a block with tiles finds it (15 R250). -/
def tilesReset (s : State) (b : Block) : State :=
  if hTiles b.header = 0 then s
  else b.pdks.eraseDups.foldl (fun (s : State) p => s.updUnit (((b.die * 48 + b.core) * 4 + p) * 64 + b.ctx) fun u =>
    { unitReset u with mq := [], flip := b.flip }) s

/-- Barriers of a crew's first placement (11 R206). -/
def blockBars (s : State) (g : Grid) (b : Block) : State :=
  let w := g.lrec.gangs * hGang g.header
  let s : State := newBars s .core b.id (hCbar g.header) w
  let s : State := newBars s .quad b.crewBase 8 (b.crewSize * w)
  let s : State := if g.lrec.span = 0 then newBars s .die g.id 8 (g.total * w) else newBars s .pkg g.id 4 (g.total * w)
  (List.range (hBb g.header)).foldl (fun (s : State) n => { s with bbs := s.bbs ++ [{ block := b.id, num := n }] }) s

/-- The record of a block at a place. -/
def newBlock (s : State) (g : Grid) (k id lin m base : Nat) (x : Spot) : Block :=
  { id := id, grid := g.id, ctx := k % 64, die := x.core / 48, core := x.core % 48, lcore := x.core % 48, blk := blkOf g.lrec lin
    lin := lin, crew := BitVec.ofNat 18 (lin / max g.lrec.crew 1 + 2 ^ 16 * (lin % max g.lrec.crew 1)), crewSize := m, crewBase := base
    header := g.header, entry := BitVec.ofNat 64 (g.lrec.entry.toNat), sharedBase := x.shared, argBase := x.arg, sharedAt := x.shared, argAt := x.arg, argBytes := argLen g m
    ngang := g.lrec.gangs, pdks := x.pdks, cls := g.lrec.cls, order := s.uid }

/-- Places the blocks of a crew at once, all their gangs with them (02 R23, R43); `lin` is the first block's index. A
`.shared` area keeps the bytes and tags of an earlier block, the model's choice (log 1). -/
def placeCrew (s : State) (g : Grid) (k lin : Nat) (spots : List Spot) (wave : List LaneTask) (relaunched : Bool) : State :=
  let m := spots.length
  let base := s.uid
  let bs := (spots.zipIdx).map fun p =>
    { newBlock s g k (base + p.2) (lin + p.2) m base p.1 with wave := wave, relaunched := relaunched }
  let s : State := { s with uid := s.uid + m, blocks := s.blocks ++ bs }
  let s : State := if g.lrec.pj != 0 && !g.registered then (podRegister s g).updGrid g.id fun g => { g with registered := true } else s
  let alive : W32 := if wave.isEmpty then -1 else maskOf fun l => wave.any fun t => t.lane == l
  bs.foldl (fun (s : State) b => startSlices (blockBars (putArgs (tilesReset s b) g b bs) g b) b alive) s

end Sys2Proof.Machine
end

