-- ==== Sys2Proof/Machine/Dispatcher.lean ====
section
/-! DEFINITION. Launches: launches and waves read and refused, crews relaunched, requests for
pre-emption (03 R79, 17 R276, R289, 18 R297-R302, 21 R342). -/
namespace Sys2Proof.Machine

/-! ### Reading a launch (03 R79, 10 R181) -/

/-- A value of space 1, 5 or 6 that lies within a grant of the context (10 R181). -/
def granted (c : Ctx) (x : Cap) : Bool :=
  (List.range 4).any fun i =>
    let g : Cap := { bits := BitVec.ofNat 128 (c.grant i) }
    g.lenG != 0 && g.space == x.space && decide (g.base ≤ x.base) && decide (x.base + x.len ≤ g.base + g.len) &&
      x.perm &&& g.perm == x.perm
/-- The tag of one unit of an argument record, read as a copy with C and W; in the record of a host's packet the
controller issues capabilities of spaces 1, 5 and 6. -/
def argTag (s : State) (k : Nat) (inline : Bool) (w : Where) : Bool :=
  let bs := s.rd w.key 16
  let c : Cap := { bits := BitVec.ofNat 128 (leNat bs), tag := true }
  if inline && (c.space == 1 || c.space == 5 || c.space == 6) then Cap.tagOk c.bits && granted (s.ctx k) c
  else (movedTag (k % 64) w.tg 2 bs (s.tag w.key)).toNat % 2 == 1
/-- The units of an argument record: bytes and tags, or none when one of them cannot be read. -/
def readArgs (k : Nat) (inline : Bool) (a : Nat) : Nat → State → Option (List Byte × List Bool) × State
  | 0, s => (some ([], []), s)
  | n + 1, s =>
    match readArgs k inline a n s with
    | (none, s) => (none, s)
    | (some (bs, ts), s) =>
      match translate s k (s.ctx k).gen (a + 16 * n) true false with
      | (.error _, s) => (none, s)
      | (.ok w, s) => (some (bs ++ s.rd w.key 16, ts ++ [argTag s k inline w]), s)
/-- Offsets of the poisoned bytes of an argument record: the marks go with the copy (21 R339). -/
def argMarks (s : State) (k : Nat) (r : LaunchRec) : List Nat :=
  spanMarks s { k := k, gen := (s.ctx k).gen } 0 r.args.toNat (16 * r.argb)
/-- The header word and the argument record of a launch, or the case bits of R79. -/
def readLaunch (s : State) (k : Nat) (r : LaunchRec) (inline : Bool) : Except Nat (W64 × List Byte × List Bool) × State :=
  let (h, s) := readN s { k := k, gen := (s.ctx k).gen } 0 (r.entry - 8).toNat 8
  let (a, s) := readArgs k inline r.args.toNat r.argb s
  let bits := match h with
    | .ok b => hdrErrors (BitVec.ofNat 64 (leNat b))
    | .error _ => 128
  match h, a with
  | .ok b, some (bs, ts) => (if bits = 0 then .ok (BitVec.ofNat 64 (leNat b), bs, ts) else .error bits, s)
  | _, none => (.error (bits + 256), s)
  | _, _ => (.error bits, s)

/-! ### Launch queues (18 R297, R302) -/

/-- Head of a queue. -/
def queueHead (c : Ctx) (q : Nat) : Option LqEntry := (c.lq.find? fun p => p.1 == q).map (·.2)
/-- Takes the head of a queue away. -/
def dropHead : List (Nat × LqEntry) → Nat → List (Nat × LqEntry)
  | [], _ => []
  | p :: t, q => if p.1 = q then t else p :: dropHead t q
/-- Changes the head of a queue. -/
def mapHead (f : LqEntry → LqEntry) : List (Nat × LqEntry) → Nat → List (Nat × LqEntry)
  | [], _ => []
  | p :: t, q => if p.1 = q then (p.1, f p.2) :: t else p :: mapHead f t q
def popQueue (s : State) (k q : Nat) : State := s.updCtx k fun c => { c with lq := dropHead c.lq q }
/-- The entry's counter has reached its wait value. -/
def eligible (c : Ctx) (e : LqEntry) : Bool :=
  match e.wait with
  | none => true
  | some i => decide (e.wval.toNat ≤ (c.counters.get i).toNat)
def bumpSig (s : State) (k : Nat) (e : LqEntry) : State :=
  match e.sig with
  | some i => s.updCtx k fun c => { c with counters := c.counters.set i (c.counters.get i + 1) }
  | none => s

/-- Cores that hold a paddock on which a context is resident. -/
def residentCores (s : State) (k d : Nat) : List Nat :=
  (cores d).filter fun c => (List.range 4).any fun p => (slotOf (s.pdk (c * 4 + p)) (k % 64)).isSome
/-- The first check of R302 that an empty core fails, or none. -/
def coreFails (s : State) (n : Need) (core : Nat) : Option Nat :=
  let ps := ((List.range 4).map (core * 4 + ·)).filter fun p => (slotOf (s.pdk p) (n.k % 64)).isSome
  let w := hGang n.header
  let pool := (s.ctx n.k).pool
  if sharedShare s core n.k < 256 * hShm n.header + up256 n.args then some 1
  else if ps.length * pool < n.gangs * w || ps.length * (pool / max w 1) < n.gangs then some 2
  else if !hNochk n.header && (decide (ps.length * 31 < n.gangs * w) || decide (ps.length * (min pool 31 / max w 1) < n.gangs)) then some 3
  else if 12 < hTiles n.header then some 4
  else if 16 < hBb n.header ∨ 16 < hCbar n.header then some 5
  else if (s.ctx n.k).reserve < spillNeed s n then some 6
  else none
/-- The cause for which a launch can never be placed on the context's resident paddocks (18 R302). -/
def unplaceable (s : State) (g : Grid) : Option Nat :=
  let m := crewAt g 0
  let on := (gridDies s g).flatMap fun d => match ctxOnDie s g d with
    | some k => (residentCores s k d).map fun c => (k, c)
    | none => []
  let fails := fun (p : Nat × Nat) => coreFails s (gridNeed g p.1 m) p.2
  if on.isEmpty then none
  else if m ≤ 1 then
    if on.any fun p => (fails p).isNone then none else some ((on.filterMap fails).foldl max 0)
  else
    let quads := (on.map fun p => (p.1, p.2 / 4)).eraseDups
    let of := fun (q : Nat × Nat) => (List.range 4).map fun i => (q.1, q.2 * 4 + i)
    if quads.any fun q => decide (m ≤ ((of q).filter fun p => (fails p).isNone).length) then none
    else some ((quads.flatMap of |>.filterMap fails).foldl max 0)

/-- A head is read and made a grid, or refused; one that can never be placed is removed and reported, also before its wait is
over (18 R302). The argument record is read as soon as the launch is head, also before its WAIT is met, the model's choice (log 121).
The class of a launch is that of its queue (log 101). The flag says whether anything was done. -/
def prepareHead (s : State) (k q : Nat) : State × Bool :=
  match queueHead (s.ctx k) q with
  | none => (s, false)
  | some e =>
    if e.grid = 0 then
      match readLaunch s k e.lrec e.inline with
      | (.error bits, s) => ((popQueue s k q).complete k e.htag 1 bits 0 0, true)
      | (.ok (h, bs, ts), s) =>
        let (id, s) := s.fresh
        let r := { e.lrec with cls := ((s.ctx k).queue q).1, lq := q }
        let g : Grid := { id := id, ctx := k % 64, die := k / 64, lrec := r, htag := e.htag, sig := e.sig, inline := e.inline
                          queue := some q, header := h, argBytes := bs, argTags := ts, argBad := argMarks s k r, total := r.gx * r.gy * r.gz }
        ((s.putGrid g).updCtx k fun c => { c with lq := mapHead (fun e => { e with grid := id }) c.lq q }, true)
    else
      let g := s.grid e.grid
      if g.placed ≠ 0 then (s, false)
      else match unplaceable s g with
        | none => (s, false)
        | some c => (bumpSig ((popQueue s k q).complete k e.htag 7 c 0 0) k e, true)

/-! ### Waves (17 R276, R289, 18 R299) -/

/-- The Ready stall of a context and class that became Ready first (18 R299). -/
def readyStall (s : State) (k c : Nat) : Option Stall :=
  (s.stalls.filter fun y => y.state == 2 && y.id / 768 == k / 64 && y.ctx == k % 64 && y.cls == c).foldl
    (fun (b : Option Stall) y => match b with
      | none => some y
      | some z => if y.readyAt < z.readyAt ∨ (y.readyAt = z.readyAt ∧ y.id < z.id) then some y else some z) none
/-- Contexts of a die that take part in arbitration, in ascending order. -/
def dieCtxs (s : State) (d : Nat) : List Nat :=
  ((List.range 64).map (d * 64 + ·)).filter fun k => s.ctxs.any fun c => c.id == k && c.valid && c.killing == 0
/-- The record of a wave's launch (17 R276, R289). -/
def waveRec (h : HEntry) (cls : Nat) : LaunchRec :=
  { entry := h.entry, args := h.args, argb := h.argb, cls := cls }
/-- The grid of a wave, from its stall's key. -/
def waveGrid (s : State) (k : Nat) (st : Stall) (hdr : W64) (bs : List Byte) (ts : List Bool) : Grid :=
  { ctx := k % 64, die := k / 64, lrec := { waveRec ((s.ctx k).handler st.hnd) st.cls with entry := st.entry }, header := hdr
    argBytes := bs, argTags := ts, argBad := argMarks s k (waveRec ((s.ctx k).handler st.hnd) st.cls), wave := true }
/-- What the wave of a stall reads when it is placed; a header of more than one slice fails it (17 R289). -/
def readWave (s : State) (k : Nat) (st : Stall) : Option Grid × State :=
  match readLaunch s k { waveRec ((s.ctx k).handler st.hnd) st.cls with entry := st.entry } false with
  | (.ok (h, bs, ts), s) => (if hGang h = 1 then some (waveGrid s k st h bs ts) else none, s)
  | (.error _, s) => (none, s)
/-- A wave whose header or argument record fails: its tasks answer FAULT and signal nothing (17 R289). -/
def failWave (s : State) (k : Nat) (st : Stall) : State :=
  let s : State := st.tasks.foldl (fun (s : State) t => match t.ack with
    | some a => s.ackTask a 3
    | none => s) s
  taskError (s.updStall st.id fun y => { id := y.id }) k 4 0
/-- A head wave that fails is taken out of its stall. -/
def prepareWave (s : State) (k c : Nat) : State × Bool :=
  match readyStall s k c with
  | none => (s, false)
  | some st =>
    match readWave s k st with
    | (some _, _) => (s, false)
    | (none, s) => (failWave s k st, true)

/-! ### Pre-emption and relaunch (18 R301, R306, 21 R342) -/

/-- Asks a block for pre-emption; it has until its context's timeout for a light save (18 R306). -/
def askPreempt (s : State) (b : Nat) (kind : Nat) : State :=
  let x := s.block b
  if x.run != .running || x.preempt.isSome then s
  else s.updBlock b fun y => { y with preempt := some (s.clk y.die + (s.ctx (y.die * 64 + y.ctx)).preto * 1750), kind := kind }
/-- Places a crew that waits to be relaunched, if it fits now. -/
def relaunchOnce (s : State) (gid : Nat) : State × Bool :=
  let g := s.grid gid
  match g.relaunch with
  | [] => (s, false)
  | (lin, m, wave) :: rest =>
    match diesSpots s g false m with
    | none => (s, false)
    | some (k, spots) => (placeCrew (s.updGrid gid fun g => { g with relaunch := rest }) g k lin spots wave true, true)
/-- The first crew of a die that waits to be relaunched and fits (21 R342). -/
def relaunchDie (s : State) (d : Nat) : State × Bool :=
  ((s.grids.filter fun g => g.die == d && !g.relaunch.isEmpty && !g.finished).map Grid.id).foldl
    (fun (r : State × Bool) g => if r.2 then r else relaunchOnce r.1 g) (s, false)

/-- Kicks of a die whose matter is done leave the bitmap (18 R317). -/
def clearKicks (s : State) (d : Nat) : State :=
  s.updDie d fun x => { x with kicks := x.kicks.filter fun p => match p.2 with
    | 0 => !(s.ctx p.1).lq.isEmpty
    | 1 => !(s.ctx p.1).invokes.isEmpty
    | _ => s.stalls.any fun y => y.state == 2 && y.id / 768 == d && y.ctx == p.1 % 64 }

end Sys2Proof.Machine
end

