-- ==== Sys2Proof/Machine/Task.lean ====
section
/-! DEFINITION. Task and launch instructions, remote invokes, and the steps by which tasks retire, stalls become
Ready and invokes enter them (16 R274-R277, 17 R281-R288). -/
namespace Sys2Proof.Machine

/-! ### spawn (17 R285) -/

/-- Address of a lane's payload. -/
def spawnAddr (x : Slice) (c : CReg) (r : SReg) (len l : Nat) : Int := addrS x (x.rc c) (.scalar r) 0 + (l * len : Nat)
/-- The handler that the instruction names is valid. -/
def spawnOk (s : State) (x : Slice) (h : SReg) : Bool := decide ((x.rs h).toNat < 256) && ((s.ctxOf x).handler (x.rs h).toNat).valid
def spawnFail (p : Pred) (h r : SReg) (c : CReg) (len : BitVec 12) (s : State) (x : Slice) : Option TrapInfo :=
  if !spawnOk s x h then none
  else cpyTrap s x ((lanesOf (x.sel p)).flatMap fun l => chk s x (x.rc c) [1, 2, 3] [pL] 0 l (spawnAddr x c r len.toNat l) len.toNat 1)
/-- The tasks of the selected lanes with their handler and class, in ascending lane order. -/
def spawnTasks (p : Pred) (h r : SReg) (c : CReg) (len : BitVec 12) (cls : BitVec 2) (s : State) (x : Slice) : List (Nat × Nat × Task) :=
  (lanesOf (x.sel p)).map fun l =>
    let hnd := (x.rs h).toNat
    let body := rdBytes s x (x.rc c) (spawnAddr x c r len.toNat l) len.toNat
    (hnd, cls.toNat, { bytes := recHeader (len.toNat / 16 + 1) 0 cls.toNat false 0 hnd ++ body })
/-- Pushes a slice's tasks in order, up to the first that finds no stall. -/
def pushAll (core k : Nat) : List (Nat × Nat × Task) → State → State × List (Nat × Nat × Task)
  | [], s => (s, [])
  | (h, c, t) :: l, s =>
    match pushTask s core k h c t with
    | some s => pushAll core k l s
    | none => (s, (h, c, t) :: l)
/-- A slice's `spawn`: it holds, not ready, at a push that finds no stall. -/
def spawnSlice (p : Pred) (d h r : SReg) (c : CReg) (len : BitVec 12) (cls : BitVec 2) (s : State) (x : Slice) : State :=
  if !spawnOk s x h && x.pushes.isEmpty then s.updSlice x.id fun x => advanceH (landS d (-1) x)
  else
    let l := if x.pushes.isEmpty then spawnTasks p h r c len cls s x else x.pushes
    let (s, rest) := pushAll (x.die * 48 + x.core) x.ck l s
    s.updSlice x.id fun x =>
      if rest.isEmpty then { advanceH (landS d (BitVec.ofNat 64 (lanesOf (x.sel p)).length) x) with run := .ready, pushes := [] }
      else { x with run := .waiting .room, pushes := rest }
def execSpawn (p : Pred) (d h r : SReg) (c : CReg) (len : BitVec 12) (cls : BitVec 2) (s : State) : Result :=
  trapOp (.spawn p d h r c len cls) (fun s x => if x.pushes.isEmpty then spawnFail p h r c len s x else none)
    (fun s => seqOp s (spawnSlice p d h r c len cls)) s

/-! ### tdone, targ (16 R277, 17 R287) -/

def execTdone (p : Pred) (s : State) : Result :=
  .next (issue (.tdone p) s fun s => seqOp s fun (s : State) (x : Slice) => (laneRetire s x (x.sel p)).updSlice x.id advanceH)
/-- The 32 bits at an offset of a lane's payload; 0 beyond it, and in a lane without a task. -/
def targValue (s : State) (x : Slice) (off l : Nat) : W32 :=
  match (s.block x.block).wave.find? fun t => t.lane == l && !x.handler with
  | some t => BitVec.ofNat 32 (leNat (((recPayload t.task.bytes).drop off).take 4))
  | none => 0
def execTarg (p : Pred) (d : SReg) (off : BitVec 12) (s : State) : Result :=
  regOpS (.targ p d off) (fun s x => x.wv (d.setWidth 8) (x.sel p) (targValue s x off.toNat)) s

/-! ### launch (17 R288) -/

/-- Fields of a launch packet. -/
def packetRec (b : List Byte) : LaunchRec :=
  let w := fun o n => leNat ((b.drop o).take n)
  { entry := BitVec.ofNat 64 (w 0 8), args := BitVec.ofNat 64 (w 8 8), gx := w 0x10 2, gy := w 0x12 2, gz := w 0x14 2
    gangs := w 0x16 1, crew := w 0x17 1, argb := w 0x18 2, lq := w 0x1A 1, cls := w 0x1B 1 % 4, span := w 0x1B 1 / 4 % 2, pj := w 0x1C 2 }
/-- Offset of the first field of a packet that is out of range. -/
def packetBad (b : List Byte) : Option Nat :=
  let w := fun o n => leNat ((b.drop o).take n)
  let g := [w 0x10 2, w 0x12 2, w 0x14 2]
  if w 8 8 % 16 ≠ 0 then some 8
  else if g.any (· == 0) || decide (65535 < g.foldl (· * ·) 1) then some 0x10
  else if w 0x16 1 = 0 ∨ 64 < w 0x16 1 then some 0x16
  else if w 0x17 1 = 0 ∨ 4 < w 0x17 1 then some 0x17
  else if w 0x18 2 = 0 ∨ 256 < w 0x18 2 then some 0x18
  else if 63 < w 0x1A 1 then some 0x1A
  else if 7 < w 0x1B 1 then some 0x1B
  else if w 0x1E 2 ≠ 0 then some 0x1C
  else none
def launchAddr (x : Slice) (c : CReg) (r : SReg) (imm : BitVec 12) : Int := addrS x (x.rc c) (.scalar r) imm.toNat
/-- One request: recorded for the issuing crew, or a code. -/
def launchSlice (d r : SReg) (c : CReg) (imm : BitVec 12) (s : State) (x : Slice) : State :=
  let b := rdBytes s x (x.rc c) (launchAddr x c r imm) 32
  let blk := s.block x.block
  let (code, s) : W64 × State :=
    if (packetBad b).isSome then (2, s)
    else if 16 ≤ (s.grid blk.grid).launches.length then (1, s)
    else (0, s.updGrid blk.grid fun g => { g with launches := g.launches ++ [(blk.crewBase, packetRec b)] })
  s.updSlice x.id fun x => advanceH (landS d code x)
def execLaunch (d r : SReg) (c : CReg) (imm : BitVec 12) (s : State) : Result :=
  trapOp (.launch d r c imm) (fun s x => cpyTrap s x (chk s x (x.rc c) [1, 2, 3] [pL] 0 255 (launchAddr x c r imm) 32 16))
    (fun s => seqOp s (launchSlice d r c imm)) s

/-! ### rinv (16 R275) -/

/-- The wait of an invoke that has been sent. -/
def sentWait (x : Slice) : Bool :=
  match x.run with
  | .waiting (.answer _) => true
  | .waiting (.cmds []) => true
  | _ => false
/-- Sends an invoke (layout of ARG: log 32): handler index in `[7:0]`, the request for acknowledgement in `[15]`. -/
def rinvSend (t ak : Bool) (node h len status : SReg) (c : CReg) (imm : BitVec 12) (cls : BitVec 2) (s : State) (x : Slice) : State :=
  match rinvEarly x h len with
  | some v => s.updSlice x.id fun x =>
      if t then { landS status v x with run := .waiting (.cmds []), hang := 0 } else { advanceH (landS status v x) with run := .ready }
  | none =>
    let tag := s.tagSeq
    let k := s.ctxOf x
    let n := (x.rs node).toNat
    let arg := BitVec.ofNat 16 ((x.rs h).toNat % 256 + 2 ^ 15 * b2n ak)
    let m := mkMsg s (BitVec.ofNat 16 n) mINVOKE cls.toNat false (bitsOf n 16 2) k.grp tag k.gen arg
      (rdBytes s x (x.rc c) (rinvAddr x c imm) (x.rs len).toNat) |>.ofDie x.die
    let s : State := { s with
      tagSeq := tag + 1
      awaits := s.awaits ++ [{ tag := tag, node := BitVec.ofNat 16 n, kind := if t then 0 else 1, slice := x.id, reg := status, ctx := x.ck, off := cls.toNat }] }
    (s.send m).updSlice x.id fun x =>
      if t then { x with run := .waiting (.answer tag), hang := 0 } else { advanceH x with run := .ready }
/-- The 17th invoke of a slice holds its group; `.t` holds until every member's answer has arrived. -/
def execRinv (t ak : Bool) (node h : SReg) (c : CReg) (imm : BitVec 12) (len status : SReg) (cls : BitVec 2) (s : State) : Result :=
  let i : Instr := .rinv t ak node h c imm len status cls
  let sent := s.group.any fun id => sentWait (s.slice id)
  trapOp i (fun s x => if sentWait x then none else rinvFail h len c imm s x) (fun s =>
    if sent then s.mapGroup fun x => { advance x with run := .ready }
    else if s.group.any fun id => decide (16 ≤ openInvokes s (s.slice id)) && (rinvEarly (s.slice id) h len).isNone then
      s.mapGroup fun x => { x with run := .waiting .room }
    else seqOp s (rinvSend t ak node h len status c imm cls)) s

/-! ### Retirement of tasks (17 R281, R283, R284) -/

/-- A handle's offset, if it is valid (17 R279). -/
def handleOff (c : Ctx) (h : Nat) : Option Nat :=
  if h / 2 ^ 40 = 0 ∧ h % 16 = 0 ∧ h + 16 ≤ c.arenal then some h else none
/-- A push that finds no stall waits in its core's push buffer, while that has room. -/
def bufferPush (s : State) (r : Retiring) (space a limit : Nat) : Option State :=
  if 64 ≤ (s.pushbuf.filter fun p => p.core == r.core).length then none
  else
    let o : Owner := { k := r.ctx, gen := (s.ctx r.ctx).gen, slice := r.slice, block := r.block }
    match readN s o space a 16 with
    | (.error _, s) => some s
    | (.ok h, s) =>
      if limit < a + 16 * recLen h then some s
      else match readN s o space a (16 * recLen h) with
        | (.error _, s) => some s
        | (.ok b, s) =>
          let (i, s) := s.fresh
          some { s with pushbuf := s.pushbuf ++ [{ id := i, core := r.core, ctx := r.ctx, block := r.block, bytes := b }] }
/-- The signal of successor `st / 2` of a retiring task, or the push that was left of it where `st` is odd: the step
after it, which is odd where a push must wait (17 R281). -/
def retireOne (r : Retiring) (s : State) (st : Nat) : State × Nat :=
  let c := s.ctx r.ctx
  let blk := waveBlk s r.block
  let next := 2 * (st / 2) + 2
  match handleOff c ((recSuccs r.task.bytes).getD (st / 2) 0) with
  | none => (taskError s r.ctx 2 blk, next)
  | some off =>
    let o : Owner := { k := r.ctx, gen := c.gen, slice := r.slice, block := r.block }
    let a := c.arenab + off
    -- What the handle names is checked; how long the record there is bounds nothing (17 R279, R280).
    let lim := 2 ^ 64
    let (s, res) :=
      if st % 2 = 1 then pushRead s o r.core 0 a lim blk
      else
        let (s, _, res) := signal s o r.core 0 a lim blk
        (s, res)
    match res with
    | .done => (s, next)
    | .fault _ _ _ => (taskError s r.ctx 3 blk, next)
    | .poison => (s.consume r.block none, next)
    | .wait =>
      match bufferPush s r 0 a lim with
      | some s => (s, next)
      | none => (s, 2 * (st / 2) + 1)
/-- The signals of a retiring task in list order, up to a push that must wait. -/
def retireSignals (r : Retiring) : Nat → State → Nat → State × Nat
  | 0, s, st => (s, st)
  | n + 1, s, st =>
    if 2 * (recSuccs r.task.bytes).length ≤ st then (s, st)
    else
      let (s, st) := retireOne r s st
      if st % 2 = 1 then (s, st) else retireSignals r n s st
/-- The note and the acknowledgement of a retired task, which is then over. -/
def retireEnd (s : State) (r : Retiring) : State :=
  let s : State := { s with retiring := s.retiring.filter fun x => x.id != r.id }
  let s : State := if recNote r.task.bytes then s.complete r.ctx 0 5 (recHnd r.task.bytes) 0 (waveBlk s r.block) else s
  let s : State := match r.task.ack with
    | some a => if r.ackOk then s.ackTask a 0 else s
    | none => s
  blockEnd s r.block
/-- The accesses before a retirement have completed (17 R284). -/
def retireReady (s : State) (r : Retiring) : Bool := r.cmds.all fun i => !(s.cmds.any fun c => c.id == i && c.stage != 3)
/-- A retiring task's signals, note and acknowledgement; or a buffered push whose stall has come free. -/
def execTaskRetireSignals (task : Nat) (s : State) : Result :=
  match s.retiring.find? (fun r => r.id == task), s.pushbuf.find? fun p => p.id == task with
  | some r, _ =>
    if !retireReady s r then .next s
    else
      let n := 2 * (recSuccs r.task.bytes).length
      let (s, st) := retireSignals r (n + 1) s r.step
      if n ≤ st then .next (retireEnd s r)
      else .next { s with retiring := s.retiring.map fun x => if x.id == task then { x with step := st } else x }
  | none, some p =>
    let t : State := { s with pushbuf := s.pushbuf.filter fun q => q.id != task }
    -- Pushes of one key keep their order (17 R283).
    if (s.pushbuf.takeWhile fun q => q.id != task).any (bufferedKey s p.core p.ctx (recHnd p.bytes) (recCls p.bytes)) then .next s
    else match (stallFree s p.core p.ctx (recHnd p.bytes) (recCls p.bytes)) with
      | some st => .next (blockEnd (enterStall t p.core p.ctx (recHnd p.bytes) (recCls p.bytes) { bytes := p.bytes } st) p.block)
      | none => .next s
  | none, none => .next s

/-! ### Stalls and invokes (16 R274, R276, 17 R282, R283) -/

/-- The timer of a Filling stall has run out. -/
def stallDue (s : State) (y : Stall) : Bool := y.state == 1 && decide (y.started + y.timer ≤ s.clk (y.id / 768))
def execStallTimerExpiry (stall : Nat) (s : State) : Result :=
  let y := s.stall stall
  if stallDue s y then .next ((s.updStall stall fun y => { y with state := 2, readyAt := s.clk (stall / 768) }).kick (stall / 768 * 64 + y.ctx) 2) else .next s

/-- Wear of the paddock that a wave of a context would use on a core, if the core is eligible. -/
def invokeWear (s : State) (k core : Nat) : Option Nat :=
  (((List.range 4).map (core * 4 + ·)).filter fun p => pdkOpen s p k true).foldl (fun (b : Option Nat) p => match b with
    | none => some (s.pdk p).wear
    | some w => some (min w (s.pdk p).wear)) none
/-- The core that takes an invoke: the lowest with a Filling stall of its key, else the least-worn eligible one with a
Free stall (17 R283). -/
def invokeCore (s : State) (k : Nat) (v : Invoke) : Option Nat :=
  let e := ((s.ctx k).handler v.hnd).entry
  let cs := cores (k / 64)
  match cs.find? fun c => s.stalls.any fun y => y.id / 16 == c && y.state == 1 && y.ctx == k % 64 && y.entry == e && y.cls == v.cls with
  | some c => some c
  | none =>
    ((cs.filter fun c => (stallFor s c k v.hnd v.cls).isSome).foldl (fun (b : Option (Nat × Nat)) c =>
      match invokeWear s k c, b with
      | some w, none => some (w, c)
      | some w, some (v, d) => if w < v then some (w, c) else some (v, d)
      | none, b => b) none).map (·.2)
/-- Heads of a die's invoke queues of a class, with their contexts. -/
def invokeHeads (s : State) (d c : Nat) : List (Nat × Invoke) :=
  ((dieCtxs s d).filter fun k => !cutHolds s k).filterMap fun k => ((s.ctx k).invokes.find? fun v => v.cls == c).map fun v => (k, v)
/-- The invoke that the controller takes next: strict class order, then arrival, among heads that can be moved. -/
def nextInvoke (s : State) (d : Nat) : Option (Nat × Invoke × Nat) :=
  (List.range 4).findSome? fun c =>
    (invokeHeads s d c).foldl (fun (b : Option (Nat × Invoke × Nat)) p =>
      match invokeCore s p.1 p.2 with
      | none => b
      | some core => match b with
        | some (k, v, e) => if v.order ≤ p.2.order then some (k, v, e) else some (p.1, p.2, core)
        | none => some (p.1, p.2, core)) none
def execInvokeTake (die : Nat) (s : State) : Result :=
  if !controllerUp s die then .next s
  else match nextInvoke s die with
    | none => .next s
    | some (k, v, core) =>
      match pushTask s core k v.hnd v.cls v.task with
      | none => .next s
      | some s => .next (clearKicks (s.updCtx k fun c =>
          { c with invokes := c.invokes.filter fun w => w.order != v.order
                   outstanding := c.outstanding.set v.hnd (c.outstanding.get v.hnd - 1) }) die)

end Sys2Proof.Machine
end

