-- ==== Sys2Proof/Machine/Trap.lean ====
section
/-! DEFINITION. Fetching, and the traps that no instruction's own meaning takes: fetch faults, undefined words, HANG;
and the start of a service (02 R46, 03 R77, 04 R89, 13 R227-R230, R245). -/
namespace Sys2Proof.Machine

/-! ### Fetching (04 R89) -/

/-- What a fetch finds. -/
inductive Fetched where
  | word (w : W64)
  | outside
  | page (cause : Nat)
  deriving DecidableEq, Repr
/-- The word at a slice's program counter, through the code capability and the page tables. -/
def fetchAt (s : State) (x : Slice) : Fetched × State :=
  if !inCode (s.ctxOf x) x.pc then (.outside, s)
  else match translate s x.ck (s.ctxOf x).gen x.pc.toNat true false (some x.pk) with
    | (.ok w, s) => (.word (BitVec.ofNat 64 (leNat (s.rd w.key 8))), s)
    | (.error f, s) => (.page f.cause, s)
/-- A slice whose next word cannot be fetched traps there; PC, RPC and INFO hold the address, WORD is 0. -/
def execFetchFault (slice : Nat) (s : State) : Result :=
  let x := s.slice slice
  let t : TrapInfo := { pc := x.pc, rpc := x.pc, info := x.pc }
  match fetchAt s x with
  | (.word _, s) => .next s
  | (.outside, s) => .next (takeTrap s slice { t with code := tCAPBND, subc := 3 })
  | (.page c, s) => .next (takeTrap s slice { t with code := tPAGEX, subc := BitVec.ofNat 8 c })

/-- Subcode of a word that raises ILLOP (03 R77); 3 for an unassigned opcode. -/
def illopSubc (h : Hdr) (w : W64) : Nat :=
  match decode h w.toNat with
  | .error n => n
  | .ok _ => 3
/-- Every member takes ILLOP at the word. -/
def execUnassignedOpcode (_opc : Byte) (s : State) : Result :=
  .next (s.group.foldl (fun (s : State) i =>
    let x := s.slice i
    takeTrap s i (trapAt s x tILLOP (illopSubc (hdrOf s x) s.word) 0)) s)

/-! ### HANG (02 R46, 13 R245) -/

/-- The state that a hang record reports. -/
def hangState (r : Run) : Nat :=
  match r with
  | .waiting (.copy _) => 2
  | .waiting (.bar _ _) => 2
  | .waiting (.bb _ _) => 2
  | .waiting (.baton _) => 2
  | .waiting (.cmds _) => 2
  | .waiting (.answer _) => 2
  | .waiting (.alloc _) => 3
  | .waiting .gjoin => 4
  | .waiting (.sysc _) => 5
  | .waiting .answered => 5
  | .waiting (.idle _) => 6
  | _ => 1
/-- The slice stands between two instructions: none waits to retire or still delivers its pushes. -/
def atBoundary (x : Slice) : Bool := x.run != .waiting .xvDone && x.pushes.isEmpty
/-- The counter of a slice has reached the detector's threshold; it stops in the handler and while parked. -/
def hangDue (s : State) (x : Slice) : Bool :=
  let h := (s.ctxOf x).hangh
  h != 0 && decide (2 ^ h ≤ x.hang) && x.alive != 0 && atBoundary x && (x.handler || (s.block x.block).run == .running) &&
    match x.run with
    | .ready => true
    | .waiting _ => true
    | _ => false
/-- HANG at the instruction that the slice would issue, or at its wait; the handler's own is a double trap. -/
def execHang (slice : Nat) (s : State) : Result :=
  let x := s.slice slice
  if !hangDue s x then .next s
  else
    let (w, s) := match fetchAt s x with
      | (.word w, s) => (w, s)
      | (_, s) => (0, s)
    let s : State := { s with pdks := s.pdks.map fun p => { p with waiters := p.waiters.filterMap (·.without x) } }
    let s : State := takeTrap s slice { code := tHANG, subc := BitVec.ofNat 8 (hangState x.run), pc := x.pc, rpc := x.pc
                                        info := BitVec.ofNat 64 (s.ctxOf x).hangh, word := w }
    .next (allocGrants (s.updSlice slice fun y => { y with hang := 0 }) x.pk)

/-! ### Services (13 R229, R230) -/

/-- The first queued trap of a unit whose block runs. -/
def nextTrap (s : State) (u : PUnit) : Option TrapEntry := u.traps.find? fun t => (s.block t.block).run == .running && (s.block t.block).stop.isNone
/-- A service can start: none is in progress, and the context is not being killed. -/
def serviceDue (s : State) (u : PUnit) : Bool :=
  u.service.isNone && (nextTrap s u).isSome && (s.ctx (u.id / 64 / 192 * 64 + u.id % 64)).killing == 0
/-- Every matrix instruction that a block's gangs have issued completes (15 R270). -/
def blockMatrix (s : State) (b : Nat) : State :=
  let x := s.block b
  drainAll (x.pdks.eraseDups.map fun p => ((x.die * 48 + x.core) * 4 + p) * 64 + x.ctx) (fun s u => (s.punit u).mq.any fun m => m.block == b) s
/-- The handler slice at the start of a service (13 R230). -/
def handlerStart (s : State) (u : PUnit) (id : Nat) (t : TrapEntry) : Slice :=
  let x := s.slice t.slice
  let c := s.ctxOf x
  let (c13, c14, c15) := startCaps (s.block t.block) c.spill
  let h := u.hregs.getD {}
  let h : Slice := { h with id := id, handler := true, block := t.block, ctx := x.ctx, die := x.die, core := x.core, pdk := x.pdk
                            gid := 0, idx := 0, pc := BitVec.ofNat 64 c.trape, alive := -1, exited := 0, gm := 1, ext := 0
                            run := .ready, marked := false, hang := 0, recent := [], nextIssue := s.clk x.die, pagex := [], pushes := [] }
  (((h.wk 0 (-1)).wc 13 c13).wc 14 c14).wc 15 c15
/-- The handler slice of a paddock and context starts to serve the next trap. -/
def execTrapServiceStart (unit : Nat) (s : State) : Result :=
  let u := s.punit unit
  match nextTrap s u with
  | none => .next s
  | some t =>
    if !serviceDue s u then .next s
    else
      let s : State := flushSlice (blockMatrix s t.block) t.slice
      if (s.block t.block).run != .running then .next s
      else
      let (id, s) := if u.hslice = 0 then s.fresh else (u.hslice, s)
      let x := s.slice t.slice
      let h := handlerStart s u id t
      let s : State := s.updSlice t.slice fun x => { x with marked := true, pc := t.trec.rpc }
      let s : State := s.putSlice h
      .next (s.updUnit unit fun u =>
        { u.setTraps ((u.traps ++ u.late).erase t) with
                 service := some t, hslice := id, proxy := none
                 hsel := BitVec.ofNat 10 (x.gid + 256 * x.idx) })

end Sys2Proof.Machine
end

