-- ==== Sys2Proof/Machine/Image.lean ====
section
/-! DEFINITION. The images of saved blocks: their sections byte by byte, written and read (08 R162, 15 R271,
18 R307-R311). -/
namespace Sys2Proof.Machine

/-! ### Slices (18 R307, R309) -/

/-- Bytes of a loop level: count 4, active in bit 0 of 4, start 8, end 8. -/
def loopBytes (l : Loop) : List Byte := leBytes 4 l.count.toNat ++ leBytes 4 (b2n l.active) ++ leBytes 8 l.start.toNat ++ leBytes 8 l.stop.toNat
def maskBytes (k : Cells 32) : List Byte := (List.range 8).flatMap fun i => leBytes 4 (k.get i).toNat
def capBytes (c : Cells 128) : List Byte := leBytes 16 0 ++ (List.range 15).flatMap fun i => leBytes 16 (c.get (i + 1)).toNat

/-- The resumption state of a slice (18 R307): 0 ready, 1 holding, 2 in a region (light saves only), 3 in `alloc`,
4 retired. -/
def saveState (light : Bool) (x : Slice) : Nat :=
  match x.run with
  | .retired => 4
  | .waiting (.alloc _) => 3
  | .parked _ => 1
  | .waiting (.copy _) => 1
  | .waiting (.bar _ _) => 1
  | .waiting (.bb _ _) => 1
  | .waiting (.cmds _) => 1
  | .waiting .gjoin => 1
  | .waiting (.baton _) => 1
  | .waiting (.sysc _) => 1
  | .waiting (.idle _) => 1
  | .waiting (.answer _) => 1
  | _ => if light && x.region.isSome then 2 else 0
/-- What the record of a state holds of the slice: in state 2 the snapshot, and the live-ins at their current values. -/
def saveView (st : Nat) (x : Slice) : Slice :=
  match st, x.region with
  | 2, some r => { x with pc := r.entry, k := r.snap.k, c := r.snap.c, ct := r.snap.ct, fr := r.snap.fr, lc0 := r.snap.lc0, lc1 := r.snap.lc1
                          s := x.s.filter fun p => r.sMask.getLsbD p.1 }
  | _, _ => x
/-- Vector registers that a record holds. -/
def saveRegs (st ext : Nat) (vMask : W64) : List Nat :=
  match st with
  | 2 => (List.range 64).filter fun i => vMask.getLsbD i
  | 4 => []
  | _ => List.range (32 + ext)
/-- The extended size that an `alloc` asked for. -/
def askedExt (x : Slice) : Nat :=
  match x.run with
  | .waiting (.alloc e) => e
  | _ => 0
def sliceBytes (light : Bool) (x : Slice) : List Byte :=
  let st := saveState light x
  let y := saveView st x
  let r := y.region.getD {}
  leBytes 8 (if st = 4 then 0 else y.pc.toNat) ++
    [BitVec.ofNat 8 st, y.gm.setWidth 8, BitVec.ofNat 8 (y.ext / 32), BitVec.ofNat 8 (askedExt x / 32)] ++
    leBytes 4 y.alive.toNat ++ leBytes 4 y.exited.toNat ++ leBytes 2 y.batch.toNat ++ List.replicate 10 0 ++
    maskBytes y.k ++ (List.range 64).flatMap (fun i => leBytes 8 (y.rs (BitVec.ofNat 6 i)).toNat) ++ capBytes y.c ++
    leBytes 2 y.ct.toNat ++ List.replicate 6 0 ++ loopBytes y.lc0 ++ loopBytes y.lc1 ++ leBytes 8 y.fr.toNat ++
    leBytes 8 r.entry.toNat ++ leBytes 8 r.sMask.toNat ++ leBytes 8 r.vMask.toNat ++
    maskBytes r.snap.k ++ capBytes r.snap.c ++ leBytes 2 r.snap.ct.toNat ++ List.replicate 6 0 ++ leBytes 8 r.snap.fr.toNat ++
    loopBytes r.snap.lc0 ++ loopBytes r.snap.lc1 ++ List.replicate 8 0 ++
    (saveRegs st y.ext r.vMask).flatMap fun v => (List.range 32).flatMap fun l => leBytes 4 (y.v.get (32 * v + l)).toNat

/-! ### Block state and matrix state (15 R271, 18 R308) -/

/-- Bit 4 `%gid` + `%slice` of each slice that a predicate takes. -/
def slotMask (l : List Slice) (p : Slice → Bool) : List Byte :=
  leBytes 32 ((l.filter p).foldl (fun n x => n + 2 ^ (4 * x.gid + x.idx)) 0)
/-- One tag bit per 16 bytes of an area, lowest first, as the context reads it (10 R180). -/
def tagBits (s : State) (key n ctx : Nat) : List Byte :=
  (List.range ((n + 7) / 8)).map fun b => BitVec.ofNat 8 ((List.range 8).foldl (fun a i =>
    a + 2 ^ i * b2n (decide (8 * b + i < n) && tagFor s (key + 16 * (8 * b + i)) ctx)) 0)
/-- Slices of a block in `%gid`, then `%slice` order. -/
def slotOrder (s : State) (b : Block) : List Slice :=
  (List.range b.ngang).flatMap fun g => (List.range 4).flatMap fun i => (s.blockSlices b.id).filter fun x => x.gid == g && x.idx == i
/-- Numbered barriers of a block in the order of the image: core, quad, then the die or package and the pod level. -/
def blockBarList (s : State) (b : Block) : List Bar :=
  let mine := s.bars.filter fun y => (barBlocks s y).any fun x => x.id == b.id
  let at' := fun (sc : Scope) => (List.range 16).flatMap fun n => mine.filter fun y => y.level == sc && y.num == n
  at' .core ++ at' .quad ++ at' .die ++ at' .pkg ++ at' .pod
def barBytes (l : List Slice) (y : Bar) : List Byte :=
  leBytes 4 y.expected ++ leBytes 4 y.arrivals ++ leBytes 8 y.phase ++ slotMask l fun x => y.who.contains x.id
/-- A party that leaves has arrived and is none of later phases: its bit stands in the second mask alone (11 R210). -/
def bbRecord (l : List Slice) (y : ByteBar) : List Byte :=
  leBytes 8 (y.count.toNat + 2 ^ 36 * b2n y.phase) ++ slotMask l (fun x => y.parties.contains x.id && !y.leaving.contains x.id) ++
    slotMask l (fun x => y.arrived.contains x.id) ++ List.replicate 8 0
/-- Key of a block's `.shared` area. -/
def sharedKey (b : Block) : Nat := keyShared (b.die * 48 + b.core) b.sharedAt
def stateBytes (s : State) (b : Block) : List Byte :=
  let l := slotOrder s b
  let n := 256 * hShm b.header
  s.rd (sharedKey b) n ++ tagBits s (sharedKey b) (n / 16) b.ctx ++
    (List.range (hBb b.header)).flatMap (fun i => bbRecord l (s.bb (b.id * 16 + i))) ++
    (blockBarList s b).flatMap (barBytes l) ++ leBytes 4 b.bph.toNat

/-- A column of a plane in its format, padded to 128 bytes. -/
def planeBytes (c : Nat) (p : Cells 32) (n : Nat) : List Byte :=
  let w := tyBytes (codeTy c)
  let bs := if isBlock c then (List.range (halfBytes c / 4)).flatMap fun i => leBytes 4 (p.get (64 * n + i)).toNat
    else (List.range 64).flatMap fun i => leBytes w (p.get (64 * n + i)).toNat
  (bs ++ List.replicate 128 0).take 128
/-- The column read back. -/
def planeColumn (c : Nat) (bs : List Byte) : List W32 :=
  let w := if isBlock c then 4 else tyBytes (codeTy c)
  (List.range (if isBlock c then halfBytes c / 4 else 64)).map fun i => BitVec.ofNat 32 (leNat ((bs.drop (w * i)).take w))
def shapeCode : Shape → Nat
  | .single => 0
  | .pairH => 1
  | .pairV => 2
  | .quad => 3
def shapeOfCode (n : Nat) : Option Shape := [Shape.single, .pairH, .pairV, .quad][n]?
/-- The unit of a block's context on one of its paddocks. -/
def blockUnit (b : Block) (p : Nat) : Nat := ((b.die * 48 + b.core) * 4 + p) * 64 + b.ctx
def matrixBytes (s : State) (b : Block) (p : Nat) : List Byte :=
  let u := s.punit (blockUnit b p)
  let t := hTiles b.header
  [BitVec.ofNat 8 (shapeCode u.shape), match u.holder with | some g => BitVec.ofNat 8 g.2 | none => 0xFF,
    BitVec.ofNat 8 (u.activeFmt + 16 * u.shadowFmt), BitVec.ofNat 8 (p ^^^ b.flip)] ++
    leBytes 2 u.live.toNat ++ leBytes 2 u.kind.toNat ++ [BitVec.ofNat 8 t] ++ List.replicate 55 0 ++
    (List.range 512).map (fun i => u.perm.get i ^^^ BitVec.ofNat 8 (i % 64)) ++
    (List.range 64).flatMap (planeBytes u.activeFmt u.active) ++ (List.range 64).flatMap (planeBytes u.shadowFmt u.shadow) ++
    (List.range (4096 * t)).flatMap fun i => leBytes 4 (u.tiles.get i).toNat
/-- Paddocks that hold tiles of a block, in ascending logical order. -/
def tilePdks (b : Block) : List Nat := if hTiles b.header = 0 then [] else ((List.range 4).map (· ^^^ b.flip)).filter fun p => b.pdks.contains p

/-! ### Commands (18 R310) -/

/-- BASE with the space above it, and the length in bytes. -/
def boundsBytes (c : Cap) : List Byte := leBytes 8 (c.base + 2 ^ 60 * c.space) ++ leBytes 8 c.len
/-- Orders by their code in a command record. -/
def ords : List Ord := [.plain, .acq, .rel, .rmt]
/-- The ORD code in a command record. -/
def ordByte (o : Ord) : Byte := BitVec.ofNat 8 (ords.idxOf o)
/-- Operands by kind, in a layout of the model's own (log 40). -/
def operandBytes (c : Command) : List Byte :=
  let head := leBytes 4 c.id ++ leBytes 8 c.pc.toNat ++ leBytes 8 c.word.toNat ++ leBytes 5 c.len ++ leBytes 16 c.task.bits.toNat ++
    leBytes 3 (c.src.perm + 2 ^ 11 * c.dst.perm + 2 ^ 22 * b2n c.pushing + 2 ^ 23 * b2n c.z)
  let rest := match c.kind with
    | 3 => leBytes 4 c.lanes.toNat ++ (List.range 32).flatMap fun l => leBytes 4 (c.idx.get l).toNat
    | 4 => leBytes 4 c.lanes.toNat ++ (List.range 32).flatMap fun l => leBytes 4 (c.idx.get l).toNat
    | _ => leBytes 8 c.srcA.toNat ++ leBytes 8 c.dstA.toNat ++ leBytes 8 c.ps.toNat ++ leBytes 8 c.pd.toNat ++ leBytes 5 c.count ++
        leBytes 8 c.accept.toNat ++ leBytes 8 c.pos.toNat ++ leBytes 8 c.value.toNat ++ leBytes 4 c.index.toNat ++
        [BitVec.ofNat 8 (tyBytes c.ty + 16 * b2n c.ty.signed), c.dreg.setWidth 8, ordByte c.ord]
  ((head ++ rest) ++ List.replicate 176 0).take 176
/-- The next row, lane or node of a command: for the per-lane copies the lane itself. -/
def nextIndex (c : Command) : Nat := if c.kind = 3 ∨ c.kind = 4 then (lanesOf c.lanes).getD c.piece 32 else c.piece
def commandBytes (s : State) (c : Command) : List Byte :=
  let x := s.slice c.slice
  let p := c.pieceAt c.piece
  let copy : Bool := decide (c.kind ≤ 4) || c.kind == 8
  [BitVec.ofNat 8 c.kind, BitVec.ofNat 8 (if c.status = 4 then 2 else c.status), BitVec.ofNat 8 c.qcode, BitVec.ofNat 8 x.idx,
    BitVec.ofNat 8 x.gid, BitVec.ofNat 8 c.cmp, BitVec.ofNat 8 (match c.scope with | .core => 0 | .quad => 1 | .die => 2 | .pkg => 3 | .pod => 4),
    BitVec.ofNat 8 (b2n c.committed)] ++
    leBytes 2 c.batch.toNat ++ [0, 0] ++ leBytes 4 (if c.status = 2 ∨ c.status = 4 then c.seq.toNat else 0) ++
    leBytes 8 (if copy then (p.src.map (· + c.off)).getD 0 else c.srcA.toNat) ++ leBytes 8 (if copy then p.dst + c.off else c.dstA.toNat) ++
    leBytes 8 (if copy then c.len - c.off else c.len) ++ leBytes 8 (nextIndex c) ++ boundsBytes c.src ++ boundsBytes c.dst ++ operandBytes c

/-! ### Whole images (18 R308) -/

/-- CTXID: node, die, context index (18 R308). -/
def ctxId (node : W16) (die ctx : Nat) : Nat := node.toNat + 2 ^ 16 * (die % 4) + 2 ^ 18 * (ctx % 64)
/-- Unfinished commands of a block. -/
def blockCmds (s : State) (b : Nat) : List Command := s.cmds.filter fun c => c.block == b && c.stage != 3
/-- Traps of a block not yet served, in queue order, paddock by paddock. -/
def blockTraps (s : State) (b : Block) : List TrapEntry :=
  b.pdks.eraseDups.flatMap fun p => let u := s.punit (blockUnit b p); (u.traps ++ u.late).filter fun t => t.block == b.id
/-- The sections after the header. -/
def bodyBytes (s : State) (b : Block) (light : Nat → Bool) : List Byte :=
  let l := slotOrder s b
  stateBytes s b ++ l.flatMap (fun x => sliceBytes (light x.gid) x) ++ (tilePdks b).flatMap (matrixBytes s b) ++
    (l.filter fun x => x.run != .retired).flatMap (fun x => x.xv.image) ++ (blockCmds s b.id).flatMap (commandBytes s) ++
    (blockTraps s b).flatMap fun t => t.trec.bytes
/-- The 64-byte header. -/
def headBytes (s : State) (b : Block) (kind : Nat) (counter : W64) (len : Nat) : List Byte :=
  leBytes 2 kind ++ leBytes 2 1 ++ leBytes 4 (ctxId s.node b.die b.ctx) ++ leBytes 8 counter.toNat ++ leBytes 8 len ++
    leBytes 6 b.blk.toNat ++ leBytes 2 (s.ctx (b.die * 64 + b.ctx)).gen.toNat ++ leBytes 4 b.crew.toNat ++
    [BitVec.ofNat 8 b.lcore, BitVec.ofNat 8 b.ngang] ++ leBytes 2 (blockCmds s b.id).length ++ leBytes 8 b.header.toNat ++
    leBytes 8 b.entry.toNat ++ List.replicate 8 0
/-- The nonce of a sealed image (18 R311). -/
def sealNonce (sc : W64) (id : Nat) : List Byte := leBytes 8 sc.toNat ++ leBytes 4 id
/-- A block's image: sealed under a counter where one is given (18 R311). -/
def imageBytes (s : State) (b : Block) (kind : Nat) (light : Nat → Bool) (counter : Option W64) : List Byte :=
  let body := bodyBytes s b light
  match counter with
  | none => headBytes s b kind 0 (64 + body.length) ++ body
  | some sc =>
    let h := headBytes s b kind sc (64 + body.length + 16)
    h ++ (Config.gcmSeal (Config.contextKey b.die (s.ctx (b.die * 64 + b.ctx)).born) (sealNonce sc (ctxId s.node b.die b.ctx)) h body ++
      List.replicate (body.length + 16) 0).take (body.length + 16)

/-! ### Reading an image -/

/-- `n` bytes at an offset, as a number. -/
def leAt (bs : List Byte) (o n : Nat) : Nat := leNat ((bs.drop o).take n)
def zeroAt (bs : List Byte) (o n : Nat) : Bool := ((bs.drop o).take n).all (· == 0)
def loopAt (bs : List Byte) (o : Nat) : Loop :=
  { active := leAt bs (o + 4) 4 == 1, count := BitVec.ofNat 32 (leAt bs o 4), start := BitVec.ofNat 64 (leAt bs (o + 8) 8)
    stop := BitVec.ofNat 64 (leAt bs (o + 16) 8) }
def masksAt (bs : List Byte) (o : Nat) : Cells 32 := Cells.setList [] 0 ((List.range 8).map fun i => BitVec.ofNat 32 (leAt bs (o + 4 * i) 4))
def capsAt (bs : List Byte) (o : Nat) : Cells 128 := Cells.setList [] 0 ((List.range 16).map fun i => BitVec.ofNat 128 (leAt bs (o + 16 * i) 16))

/-- A slice record read: the state code and the slice's registers. -/
structure SliceImg where
  st : Nat := 0
  x : Slice := {}
  size : Nat := 0
  deriving DecidableEq, Repr
def readSlice (bs : List Byte) : Option SliceImg :=
  let n := leAt bs
  let st := n 8 1
  let ext := 32 * n 0xA 1
  let tags := fun (o t : Nat) => BitVec.ofNat 16 ((List.range 16).foldl (fun a i =>
    a + 2 ^ i * b2n (bitsOf (n t 2) i 1 == 1 && Cap.tagOk (BitVec.ofNat 128 (n (o + 16 * i) 16)))) 0)
  let r : Region := {
    entry := BitVec.ofNat 64 (n 0x380 8), sMask := BitVec.ofNat 64 (n 0x388 8), vMask := BitVec.ofNat 64 (n 0x390 8)
    snap := { k := masksAt bs 0x398, c := capsAt bs 0x3B8, ct := tags 0x3B8 0x4B8, fr := BitVec.ofNat 64 (n 0x4C0 8)
              lc0 := loopAt bs 0x4C8, lc1 := loopAt bs 0x4E0 } }
  let regs := saveRegs st ext r.vMask
  let size := 1280 + 128 * regs.length
  let flags := [0x34C, 0x364, 0x4CC, 0x4E4].all fun o => decide (n o 4 ≤ 1)
  let res := zeroAt bs 0x16 10 && zeroAt bs 0x342 6 && zeroAt bs 0x4BA 6 && zeroAt bs 0x4F8 8 && zeroAt bs 0x240 16 && zeroAt bs 0x3B8 16
  let codes := decide (st ≤ 4) && decide (n 9 1 < 16) && decide (ext ≤ 224) && decide (n 0xB 1 ≤ 7) && (n 0xB 1 == 0 || st == 3) &&
    frOk (BitVec.ofNat 64 (n 0x378 8)) && frOk r.snap.fr && n 0x37B 5 == 0
  if bs.length < size ∨ !flags ∨ !res ∨ !codes then none
  else
    let v := (regs.zipIdx).foldl (fun (v : Cells 32) q => v.setList (32 * q.1)
      ((List.range 32).map fun l => BitVec.ofNat 32 (n (1280 + 128 * q.2 + 4 * l) 4))) []
    some {
      st := st, size := size
      x := { pc := BitVec.ofNat 64 (n 0 8), gm := BitVec.ofNat 4 (n 9 1), ext := ext, alive := BitVec.ofNat 32 (n 0xC 4)
             exited := BitVec.ofNat 32 (n 0x10 4), batch := BitVec.ofNat 16 (n 0x14 2), k := masksAt bs 0x20
             s := Cells.setList [] 0 ((List.range 64).map fun i => BitVec.ofNat 64 (n (0x40 + 8 * i) 8)), c := capsAt bs 0x240
             ct := tags 0x240 0x340, lc0 := loopAt bs 0x348, lc1 := loopAt bs 0x360, fr := BitVec.ofNat 64 (n 0x378 8)
             region := if r.entry = 0 then none else some r, v := v, run := if st = 4 then .retired else .ready } }
/-- `n` slice records one after another, and the bytes behind them. -/
def readSlices : Nat → List Byte → Option (List SliceImg × List Byte)
  | 0, bs => some ([], bs)
  | n + 1, bs =>
    match readSlice bs with
    | none => none
    | some x => (readSlices n (bs.drop x.size)).map fun r => (x :: r.1, r.2)

/-- A matrix section read (15 R271). -/
structure MatrixImg where
  pdk : Nat := 0
  holder : Option Nat := none
  u : PUnit := {}
  deriving DecidableEq, Repr
/-- A table that is no permutation is taken as it stands, the model's choice (07 R142; log 126). -/
def readMatrix (tiles : Nat) (bs : List Byte) : Option MatrixImg :=
  let n := leAt bs
  let (af, sf) := (n 2 1 % 16, n 2 1 / 16)
  let ok := decide (n 3 1 ≤ 3) && decide (n 4 2 < 4096) && decide (n 6 2 < 4096) && n 8 1 == tiles && zeroAt bs 9 55 && weightOk af &&
    weightOk sf && decide (0x4240 + 16384 * tiles ≤ bs.length)
  match shapeOfCode (n 0 1) with
  | none => none
  | some sh =>
    if !ok then none
    else
      let plane := fun (c o : Nat) => (List.range 64).foldl (fun (p : Cells 32) i => p.setList (64 * i) (planeColumn c ((bs.drop (o + 128 * i)).take 128))) []
      some {
        pdk := n 3 1, holder := if n 1 1 = 0xFF then none else some (n 1 1)
        u := { shape := sh, activeFmt := af, shadowFmt := sf, live := BitVec.ofNat 16 (n 4 2), kind := BitVec.ofNat 16 (n 6 2)
               perm := Cells.setList [] 0 ((List.range 512).map fun i => BitVec.ofNat 8 (n (0x40 + i) 1) ^^^ BitVec.ofNat 8 (i % 64))
               active := plane af 0x240, shadow := plane sf 0x2240
               tiles := Cells.setList [] 0 ((List.range (4096 * tiles)).map fun i => BitVec.ofNat 32 (n (0x4240 + 4 * i) 4)) } }

/-- A command record read: the command without its owner, and its slice's place. -/
structure CommandImg where
  gid : Nat := 0
  idx : Nat := 0
  c : Command := {}
  deriving DecidableEq, Repr
def boundsAt (bs : List Byte) (o perm : Nat) : Option Cap :=
  let b := leAt bs o 8
  let len := leAt bs (o + 8) 8
  if bitsOf b 57 3 ≠ 0 then none
  else
    let g := ((List.range 16).find? fun g => decide (len < 2 ^ (40 + g))).getD 0
    some (Cap.mk' (b / 2 ^ 60) g perm (b % 2 ^ 57) (len / 2 ^ g))
def scopeOfCode (n : Nat) : Option Scope := [Scope.core, .quad, .die, .pkg, .pod][n]?
/-- The type of a far atomic's operand, from its bytes and sign. -/
def tyOfCode (n : Nat) : Ty := if n = 4 then .n32 else if n = 20 then .i32 else if n = 24 then .i64 else .n64
def readCommand (bs : List Byte) : Option CommandImg :=
  let n := leAt bs
  let kind := n 0 1
  let bits := n (0x50 + 41) 3
  let o := 0x50 + 44
  match scopeOfCode (n 6 1), boundsAt bs 0x30 (bits % 2 ^ 11), boundsAt bs 0x40 (bitsOf bits 11 11) with
  | some sc, some src, some dst =>
    if kind = 0 ∨ 9 < kind ∨ 3 < n 1 1 ∨ 63 < n 2 1 ∨ 3 < n 3 1 ∨ 31 < n 5 1 ∨ 1 < n 7 1 ∨ n 0xA 2 ≠ 0 ∨ bs.length < 256 then none
    else
      let len := n (0x50 + 20) 5
      let task : BitVec 128 := BitVec.ofNat 128 (n (0x50 + 25) 16)
      let c0 : Command := {
        id := n 0x50 4, kind := kind, status := n 1 1, qcode := n 2 1, cmp := n 5 1, scope := sc, committed := n 7 1 == 1
        batch := BitVec.ofNat 16 (n 8 2), seq := BitVec.ofNat 32 (n 0xC 4), pc := BitVec.ofNat 64 (n 0x54 8), word := BitVec.ofNat 64 (n 0x5C 8)
        len := len, piece := n 0x28 8, off := len - n 0x20 8, src := src, dst := dst, task := { bits := task, tag := task != 0 }
        pushing := bitsOf bits 22 1 == 1, z := bitsOf bits 23 1 == 1 }
      let c : Command :=
        if kind = 3 ∨ kind = 4 then
          let lanes : W32 := BitVec.ofNat 32 (n o 4)
          let at' := (n 0x28 8 % 64) * len + c0.off
          { c0 with lanes := lanes, piece := (lanesOf lanes).idxOf (n 0x28 8), idx := Cells.setList [] 0 ((List.range 32).map fun l => BitVec.ofNat 32 (n (o + 4 + 4 * l) 4))
                    srcA := BitVec.ofNat 64 (if kind = 3 then src.base else n 0x10 8 - at')
                    dstA := BitVec.ofNat 64 (if kind = 4 then dst.base else n 0x18 8 - at') }
        else
          { c0 with srcA := BitVec.ofNat 64 (n o 8), dstA := BitVec.ofNat 64 (n (o + 8) 8), ps := BitVec.ofNat 64 (n (o + 16) 8)
                    pd := BitVec.ofNat 64 (n (o + 24) 8), count := n (o + 32) 5, accept := BitVec.ofNat 64 (n (o + 37) 8)
                    pos := BitVec.ofNat 64 (n (o + 45) 8), value := BitVec.ofNat 64 (n (o + 53) 8), index := BitVec.ofNat 32 (n (o + 61) 4)
                    ty := tyOfCode (n (o + 65) 1), dreg := BitVec.ofNat 6 (n (o + 66) 1), ord := ords.getD (n (o + 67) 1) .plain }
      some { gid := n 4 1, idx := n 3 1, c := c }
  | _, _, _ => none

/-- A trap record read (13 R231). -/
def readTrap (bs : List Byte) : Option TrapRec :=
  let n := leAt bs
  let w := fun o => (BitVec.ofNat 64 (n o 8) : W64)
  if n 0x25 1 ≠ 0 ∨ n 0x36 2 ≠ 0 then none
  else some { pc := w 0, rpc := w 8, info := w 16, word := w 24, code := BitVec.ofNat 8 (n 0x20 1), subc := BitVec.ofNat 8 (n 0x21 1)
              lane := BitVec.ofNat 8 (n 0x22 1), unit := BitVec.ofNat 8 (n 0x23 1), gid := BitVec.ofNat 8 (n 0x24 1)
              gen := BitVec.ofNat 16 (n 0x26 2), lfm := BitVec.ofNat 32 (n 0x28 4), bph := BitVec.ofNat 32 (n 0x2C 4)
              blk := BitVec.ofNat 48 (n 0x30 6), cc := w 0x38 }

/-- A numbered barrier as an image has it. -/
structure BarImg where
  expected : Nat := 0
  arrivals : Nat := 0
  phase : Nat := 0
  who : Nat := 0
  deriving DecidableEq, Repr
/-- A byte barrier as an image has it. -/
structure BbImg where
  count : BitVec 36 := 0
  phase : Bool := false
  parties : Nat := 0
  arrived : Nat := 0
  deriving DecidableEq, Repr
/-- A whole image read. -/
structure Img where
  kind : Nat := 0
  ctxid : Nat := 0
  counter : W64 := 0
  blk : BitVec 48 := 0
  gen : W16 := 0
  crew : BitVec 18 := 0
  lcore : Nat := 0
  ngang : Nat := 1
  header : W64 := 0
  entry : W64 := 0
  shared : List Byte := []
  tags : List Bool := []
  bbs : List BbImg := []
  bars : List BarImg := []
  bph : W32 := 0
  slices : List SliceImg := []
  mats : List MatrixImg := []
  xvs : List Xv := []
  cmds : List CommandImg := []
  traps : List TrapRec := []
  deriving DecidableEq, Repr

/-- `n` pieces of equal size. -/
def chunks (bs : List Byte) (n size : Nat) : List (List Byte) := (List.range n).map fun i => (bs.drop (size * i)).take size
/-- Every piece read, or none. -/
def readAll {α : Type} (f : List Byte → Option α) (l : List (List Byte)) : Option (List α) := l.mapM f
def readBb (bs : List Byte) : Option BbImg :=
  let h := leAt bs 0 8
  if h / 2 ^ 37 ≠ 0 ∨ !zeroAt bs 72 8 then none
  else some { count := BitVec.ofNat 36 h, phase := bitsOf h 36 1 == 1, parties := leAt bs 8 32, arrived := leAt bs 40 32 }
def readBar (bs : List Byte) : Option BarImg :=
  some { expected := leAt bs 0 4, arrivals := leAt bs 4 4, phase := leAt bs 8 8, who := leAt bs 16 32 }

/-- The sections behind the slices, with `nm` matrix sections of ascending paddocks. -/
def readTail (g : Img) (sl : List SliceImg) (ncmd nm : Nat) (bs : List Byte) : Option Img := do
  let t := hTiles g.header
  let msize := 0x4240 + 16384 * t
  let mats ← readAll (readMatrix t) (chunks bs nm msize)
  let bs := bs.drop (nm * msize)
  let nx := (sl.filter fun x => x.st != 4).length
  let xvs ← readAll Xv.ofImage (chunks bs nx 1280)
  let bs := bs.drop (nx * 1280)
  let cmds ← readAll readCommand (chunks bs ncmd 256)
  let bs := bs.drop (ncmd * 256)
  let traps ← readAll readTrap (chunks bs (bs.length / 64) 64)
  if bs.length % 64 ≠ 0 || !(mats.map MatrixImg.pdk).Pairwise (· < ·) then none else some { g with slices := sl, mats := mats, xvs := xvs, cmds := cmds, traps := traps }

/-- The sections behind the block state, of which `nm` are matrix sections: one on each paddock that holds gangs of a block with
tiles. An image from elsewhere does not say how many: then it has the most that it can be read with (log 41). -/
def readRest (g : Img) (ncmd : Nat) (nm : Option Nat) (bs : List Byte) : Option Img := do
  let (sl, bs) ← readSlices (g.ngang * hGang g.header) bs
  match nm with
  | some n => readTail g sl ncmd n bs
  | none =>
    if hTiles g.header = 0 then readTail g sl ncmd 0 bs
    else ([4, 3, 2, 1].filter fun n => decide (n ≤ g.ngang)).findSome? fun n => readTail g sl ncmd n bs

/-- An image in clear, whose body is given apart, for a launch with `nbars` barriers above the core level (18 R311). -/
def readImage (head body : List Byte) (nbars : Nat) (sections : Option Nat := none) : Option Img :=
  let n := leAt head
  let h : W64 := BitVec.ofNat 64 (n 0x28 8)
  let g : Img := { kind := n 0 2, ctxid := n 4 4, counter := BitVec.ofNat 64 (n 8 8), blk := BitVec.ofNat 48 (n 0x18 6), gen := BitVec.ofNat 16 (n 0x1E 2)
                   crew := BitVec.ofNat 18 (n 0x20 4), lcore := n 0x24 1, ngang := n 0x25 1, header := h, entry := BitVec.ofNat 64 (n 0x30 8) }
  if g.kind = 0 ∨ 4 < g.kind ∨ n 2 2 ≠ 1 ∨ g.ctxid / 2 ^ 24 ≠ 0 ∨ n 0x20 4 / 2 ^ 18 ≠ 0 ∨ 47 < g.lcore ∨ g.ngang = 0 ∨ 64 < g.ngang ∨
      n 0x38 8 ≠ 0 ∨ hdrErrors h ≠ 0 then none
  else do
    let shm := 256 * hShm h
    let nb := hBb h
    let nc := hCbar h + nbars
    let tagb := (body.drop shm).take (shm / 128)
    let bs := body.drop (shm + shm / 128)
    let bbs ← readAll readBb (chunks bs nb 80)
    let bars ← readAll readBar (chunks (bs.drop (80 * nb)) nc 48)
    let bs := bs.drop (80 * nb + 48 * nc)
    let tags := tagb.flatMap fun (b : Byte) => (List.range 8).map fun i => b.getLsbD i
    let g : Img := { g with shared := body.take shm, bbs := bbs, bars := bars, tags := tags, bph := BitVec.ofNat 32 (leAt bs 0 4) }
    if bs.length < 4 then none else readRest g (n 0x26 2) sections (bs.drop 4)

end Sys2Proof.Machine
end

