-- ==== Sys2Proof/Machine/Save.lean ====
section
/-! DEFINITION. Saving blocks and the places they come back to, swap-out, crew kills (13 R239-R241, 18 R304-R312, 21 R342). -/
namespace Sys2Proof.Machine

/-! ### Points at which a block can be saved (18 R306, 02 R50) -/

/-- Alive slices of a gang of a block. -/
def liveSlices (s : State) (b gid : Nat) : List Slice := (s.blockSlices b).filter fun x => x.gid == gid && x.isAlive
/-- Parked, in `alloc`, in a wait instruction, `gjoin` or `idle` (18 R306). -/
def isHolding (x : Slice) : Bool := saveState false x == 1 || saveState false x == 3
/-- An instruction of the slice still delivers its pushes: no boundary. -/
def midway (x : Slice) : Bool := !x.pushes.isEmpty
/-- Slices that would issue as one group. -/
def oneGroup (l : List Slice) : Bool :=
  match l with
  | [] => true
  | a :: t => t.all fun y => y.pc == a.pc && sameState a y
/-- A gang's light point. -/
def lightPoint (s : State) (b gid : Nat) : Bool :=
  let l := liveSlices s b gid
  l.all (fun x => !midway x) && (oneGroup (l.filter fun x => !isHolding x) || l.all fun x => isHolding x || x.region.isSome)
/-- A command that has not come to its next boundary: a message of it is out, or it stands inside a 512-byte stretch of its
destination (11 R211). -/
def underWay (c : Command) : Bool := c.stage == 2 || (c.stage == 5 && c.inside)
/-- Nothing that the block has issued is still under way where a save must wait for it (02 R50, 13 R239, 16 R275). -/
def saveable (s : State) (b : Nat) : Bool :=
  !blockService s b && (s.blockSlices b).all (fun x => !midway x && openInvokes s x == 0) &&
    s.cmds.all fun c => c.block != b || !underWay c
/-- The request has ended without a save. -/
def unask (b : Block) : Block := { b with preempt := none, kind := 0, frozen := [], park := 0 }

/-- Performed commands of a block complete, where their task records can be delivered. -/
def completeAll (s : State) (b : Nat) : State :=
  (blockCmds s b).foldl (fun (s : State) c => match s.cmd c.id with
    | some d => if completeReady s d then stateOf s (execCommandComplete d.id s) else s
    | none => s) s
/-- An instruction whose wait has been met, or whose effect is over, is over at the save. -/
def finishWait (s : State) (x : Slice) : Slice :=
  match x.run with
  | .waiting .xvDone => { advance x with run := .ready }
  | .waiting .answered => { advance x with run := .ready }
  | .waiting (.answer t) => if waitMet s x (.answer t) then { advance x with run := .ready } else x
  | .waiting (.cmds []) => { advance x with run := .ready }
  | _ => x
/-- What a slice has issued lands, and a trap that waited for its next boundary is taken (02 R50, 08 R167). -/
def settleSlice (s : State) (id : Nat) : State :=
  let s : State := (flushSlice s id).updSlice id (finishWait s)
  let x := s.slice id
  match x.pagex with
  | [] => s
  | t :: r => if x.run == .retired then s else takeTrap (s.updSlice id fun x => { x with pagex := r }) id { t with rpc := x.pc }
/-- Everything that the block has issued completes before its image is written (02 R50, 11 R211, 15 R270). -/
def settleBlock (s : State) (b : Nat) : State :=
  let s : State := completeAll (blockMatrix s b) b
  (s.blockSlices b).foldl (fun (s : State) x => if (s.slice x.id).run == .retired then s else settleSlice s x.id) s

/-! ### Writing the image and freeing the places (18 R308, R311) -/

/-- Gives up what a block holds on its core while it is off the machine. -/
def freePlaces (s : State) (b : Nat) : State :=
  let x := s.block b
  let s : State := { s with
    pdks := s.pdks.map fun p => { p with waiters := p.waiters.filter fun w => !(w.members.any fun i => (s.slice i).block == b) }
    units := s.units.map fun u => u.dropTraps (· == b) }
  let s : State := (tilePdks x).foldl (fun (s : State) p => s.updUnit (blockUnit x p) fun u => { unitReset u with mq := [] }) s
  let s : State := s.updBlock b fun x => { unask x with run := .saved }
  let s : State := s.mapSlices fun y => if y.block == b && !y.handler then { y with recent := [], land := [] } else y
  x.pdks.eraseDups.foldl (fun (s : State) p => allocGrants s ((x.die * 48 + x.core) * 4 + p)) s
/-- Areas of a context's save area in use, as offsets. -/
def saveAreas (s : State) (k : Nat) : List (Nat × Nat) :=
  ((s.saved.filter fun v => let b := s.block v.block; b.die * 64 + b.ctx == k).map fun v => (v.addr - (s.ctx k).saveb, v.len)) ++
    (s.ctx k).left.map fun e => (e.2.1 - (s.ctx k).saveb, e.2.2)
/-- Poison marks of the tiles and planes of a block. -/
def badUnits (s : State) (b : Block) : List (Nat × W16 × BitVec 2) :=
  ((tilePdks b).map fun p => let u := s.punit (blockUnit b p); (p ^^^ b.flip, u.badTiles, u.badPlanes)).filter fun m => m.2.1 != 0 || m.2.2 != 0
/-- The save itself, once everything has settled; while a channel of its place in main memory takes no access, it is made later. without room the request ends and the block runs on. -/
def saveImage (s : State) (b kind : Nat) (light : Nat → Bool) (ready : Bool) : State :=
  let x := s.block b
  let k := x.die * 64 + x.ctx
  let c := s.ctx k
  if c.prot && c.sc == 2 ^ 64 - 1 then killBlock s b []
  else
    let sc : W64 := BitVec.ofNat 64 (c.sc + 1)
    let img := imageBytes s x kind light (if c.prot then some sc else none)
    match firstFit (saveAreas s k) 64 c.savel img.length with
    | none => s.updBlock b unask
    | some o =>
      if chanStop s && (List.range img.length).any fun i => channelBusy s (c.saveb + o + i) then s else
      let s : State := (s.wr (c.saveb + o) img).putMarks (c.saveb + o) ((s.marks (sharedKey x) (256 * hShm x.header)).map (64 + ·))
      let s : State := if c.prot then s.updCtx k fun c => { c.setFld 0x68 8 sc.toNat with recs := recPut Prod.fst c.recs b (b, sc) } else s
      let (i, s) := s.fresh
      let v : Saved := { id := i, block := b, addr := c.saveb + o, len := img.length, ready := ready, since := s.clk x.die, bad := badUnits s x }
      freePlaces { s with saved := s.saved ++ [v] } b

/-- The block is saved once every gang has reached its point and nothing is under way. -/
def trySave (s : State) (b : Nat) : State :=
  let x := s.block b
  if !((List.range x.ngang).all (gangFrozen x)) || !saveable s b then s
  else
    let s : State := settleBlock s b
    if (s.block b).run != .running then s
    else
      let light := fun (g : Nat) => x.frozen.any fun p => p.1 == g && p.2
      saveImage s b (if (List.range x.ngang).all light then 1 else 2) light true
/-- Gangs that a predicate takes stop where they are. -/
def freeze (s : State) (b : Nat) (light : Bool) (p : Nat → Bool) : State :=
  s.updBlock b fun x =>
    { x with frozen := x.frozen ++ ((List.range x.ngang).filter fun g => !gangFrozen x g && p g).map fun g => (g, light) }
/-- A block that has been asked and runs, with no service in progress. -/
def askedFor (s : State) (b : Nat) : Bool :=
  let x := s.block b
  x.run == .running && x.preempt.isSome && !blockService s b

/-- Gangs of an asked block that have come to a light point stop there; the block is saved with the last (18 R306). -/
def execLightSave (block : Nat) (s : State) : Result :=
  if !askedFor s block then .next s else .next (trySave (freeze s block true (lightPoint s block)) block)
/-- The timeout has passed: the other gangs stop at their next boundaries and are saved full (18 R306). -/
def execPreemptTimeout (block : Nat) (s : State) : Result :=
  if !askedFor s block then .next s
  else match (s.block block).preempt with
    | some t =>
      if s.clk (s.block block).die < t then .next s
      else .next (trySave (freeze s block false fun g => (liveSlices s block g).all fun x => !midway x) block)
    | none => .next s

/-! ### Swap-out (13 R241) -/

/-- Parked, or holding in a wait instruction, `gjoin` or `idle` (13 R241, 02 R36). -/
def swapHold (x : Slice) : Bool := saveState false x == 1
/-- The conditions of a swap-out hold now. -/
def swapCond (s : State) (b : Block) : Bool :=
  let l := (s.blockSlices b.id).filter Slice.isAlive
  b.run == .running && !blockService s b.id && (blockTraps s b).isEmpty && l.all swapHold &&
    l.any fun x => match x.run with | .parked _ => true | _ => false
/-- They have held for the context's park threshold. -/
def swapDue (s : State) (b : Block) : Bool :=
  swapCond s b && decide (2 ^ (s.ctx (b.die * 64 + b.ctx)).park ≤ b.park) && saveable s b.id
/-- A command of the block is to be retried by itself: it has been answered, or its record could not be taken yet. -/
def answeredIn (s : State) (b : Nat) : Bool := s.cmds.any fun c => c.block == b && (c.status == 4 || c.stuck.isSome)
def execSwapOut (block : Nat) (s : State) : Result :=
  if !swapDue s (s.block block) then .next s
  else
    let s : State := settleBlock s block
    if (s.block block).run != .running then .next s else .next (saveImage s block 3 (fun _ => false) (answeredIn s block))

/-! ### Restore (18 R311, R312) -/

/-- Numbered barriers above the core level of a block's launch. -/
def nbarsOf (s : State) (b : Block) : Nat := (blockBarList s b).length - hCbar b.header
/-- An image at an address, opened and checked against its unit's record (18 R311). -/
def openImage (s : State) (k unit nbars sections : Nat) (bs : List Byte) : Option Img :=
  let c := s.ctx k
  let h := bs.take 64
  let counter : W64 := BitVec.ofNat 64 (leAt h 8 8)
  if leAt h 0x10 8 ≠ bs.length then none
  else if c.prot then
    match c.recs.find? fun r => r.1 == unit with
    | none => none
    | some r =>
      if counter ≠ r.2 then none
      else (Config.gcmOpen (Config.contextKey (k / 64) (s.ctx k).born) (sealNonce counter (leAt h 4 4)) h (bs.drop 64)).bind fun body => readImage h body nbars sections
  else if counter ≠ 0 then none else readImage h (bs.drop 64) nbars sections
/-- The header words of an image and of its block give its sections the same sizes. -/
def sameSizes (g h : W64) : Bool :=
  hGang g == hGang h && hShm g == hShm h && hBb g == hBb h && hCbar g == hCbar h && hTiles g == hTiles h
/-- The image of a saved block, if it is intact (18 R311): its sizes are those of the block that the controller knows (log 57). -/
def savedImage (s : State) (v : Saved) : Option Img :=
  let b := s.block v.block
  let k := b.die * 64 + b.ctx
  (openImage s k b.id (nbarsOf s b) (tilePdks b).length (s.rd v.addr v.len)).filter fun g =>
    sameSizes g.header b.header && g.ngang == b.ngang && g.slices.all fun x => decide (32 + x.x.ext ≤ 8 * hVreg g.header)

/-- The block with the header word and the entry of its image. -/
def asImage (b : Block) (g : Img) : Block := { b with header := g.header, entry := g.entry }
/-- Register blocks that an image's slices need on a paddock. -/
def imgBlocks (b : Block) (g : Img) (p : Nat) : Nat :=
  ((g.slices.zipIdx.filter fun y => y.1.st != 4 && b.pdks.getD (y.2 / hGang b.header) 0 == p).map fun y => 1 + y.1.x.ext / 32).foldl (· + ·) 0
/-- The block as it would stand on a core of a die, on its former logical paddocks through the map `flip`, with its areas
at two bases (15 R270, 18 R312). -/
def moved (b : Block) (k core flip shared arg : Nat) : Block :=
  { b with die := core / 48, ctx := k % 64, core := core % 48, flip := flip, pdks := b.pdks.map fun p => p ^^^ b.flip ^^^ flip
           sharedAt := shared, argAt := arg }
/-- Its paddocks there have room (02 R43, 21 R335). -/
def pdksFit (s : State) (any : Bool) (b : Block) (g : Img) : Bool :=
  let k := b.die * 64 + b.ctx
  b.pdks.eraseDups.all fun p =>
    let q := (b.die * 48 + b.core) * 4 + p
    pdkOpen s q k any && decide (imgBlocks b g p ≤ pdkRoom s q k (!hNochk b.header)) && (hTiles b.header == 0 || tilesFree s q k) &&
      !((s.pdk q).waiters.any fun w => w.ctx == b.ctx)
/-- The greatest wear of the paddocks of a block. -/
def blockWear (s : State) (b : Block) : Nat := (b.pdks.map fun p => (s.pdk ((b.die * 48 + b.core) * 4 + p)).wear).foldl max 0
/-- The first of some places of a block with the least wear (21 R348). -/
def leastBlock (s : State) (l : List Block) : Option Block :=
  l.foldl (fun (b : Option Block) x => match b with
    | none => some x
    | some y => if blockWear s x < blockWear s y then some x else some y) none
/-- Where a saved block could come back: on a core, in a context; `held`: its `.shared` area has stayed where it was; `crew`: how many
blocks come back with it. -/
structure Home where
  v : Saved
  img : Img
  block : Block
  held : Bool := false
  crew : Nat := 1
  k : Nat := 0
  core : Nat := 0
  deriving DecidableEq, Repr
/-- The block as it would stand there, on the least worn of its paddock maps, if all it needs is free (02 R43, 18 R312, 21 R348). -/
def movedTo (s : State) (any : Bool) (h : Home) : Option Block :=
  let b := h.block
  let core := h.core
  let areas := sharedAreas s core
  let shm := 256 * hShm b.header
  let sum := fun (f : W64 → Nat) => ((coreBlocks s core).map fun y => f y.header).foldl (· + ·) 0
  let n : Need := { k := h.k, header := b.header, gangs := b.ngang, args := b.argBytes, crew := h.crew }
  if 16 < sum hBb + hBb b.header ∨ 16 < sum hCbar + hCbar b.header ∨ (s.ctx h.k).reserve < spillUsed s h.k + spillNeed s n ∨
      sharedShare s core h.k < sharedUsed s core (s.ctx h.k).vdev + (if h.held then 0 else shm) + up256 b.argBytes then none
  else (if h.held then some b.sharedAt else firstFit areas 256 (2 ^ 19) shm).bind fun at' =>
    (firstFit ((at', shm) :: areas) 256 (2 ^ 19) b.argBytes).bind fun arg =>
      leastBlock s (([0, 1, 2, 3].map fun f => moved b h.k core f at' arg).filter fun y => pdksFit s any y h.img)
/-- The dies and contexts of a block's grid; one whose parked command awaits a response stays on its die (09 R171). -/
def restoreCtxs (s : State) (b : Block) (g : Img) : List (Nat × Nat) :=
  (upDies s (s.grid b.grid)).filterMap fun d =>
    if d != b.die && g.cmds.any fun c => c.c.status == 2 then none
    else if d = b.die then some (d, b.die * 64 + b.ctx) else (ctxOnDie s (s.grid b.grid) d).map fun k => (d, k)

/-- Members of a crew that have not ended. -/
def crewBlocks (s : State) (b : Block) : List Block := s.blocks.filter fun y => y.crewBase == b.crewBase && y.grid == b.grid && y.run != .ended
/-- The blocks that are to come back, each as it would stand. -/
abbrev Plan := List (Saved × Img × Block)
def planWear (s : State) (l : Plan) : Nat := (l.map fun p => blockWear s p.2.2).foldl max 0
/-- The first of some plans with the least wear (21 R348). -/
def bestPlan (s : State) (l : List Plan) : Option Plan :=
  l.foldl (fun (b : Option Plan) x => match b with
    | none => some x
    | some y => if planWear s x < planWear s y then some x else some y) none
/-- The image stands behind a channel that takes no access now (21 R341, R343). -/
def imageHeld (s : State) (v : Saved) : Bool := chanStop s && (List.range v.len).any fun i => channelBusy s (v.addr + i)
/-- A byte of the image outside the `.shared` area, which a restore uses, carries a poison mark (21 R339). -/
def imagePoison (s : State) (v : Saved) : Bool :=
  !s.poison.isEmpty && (s.marks v.addr v.len).any fun i => decide (i < 64) || decide (64 + 256 * hShm (s.block v.block).header ≤ i)
/-- What is restored with a saved block, and where it could stand: the block alone on any core of its grid's span; a member of a crew
that is still resident on its former core; a whole saved crew in one quad, each at its former position. -/
def homesOf (s : State) (v : Saved) : List (List Home) :=
  match if imageHeld s v then none else savedImage s v with
  | none => []
  | some g =>
    let b := asImage (s.block v.block) g
    if b.crewSize ≤ 1 then
      (restoreCtxs s b g).flatMap fun p => (cores p.1).map fun c => [{ v := v, img := g, block := b, k := p.2, core := c }]
    else if (crewBlocks s b).any holdsPlace then
      if controllerUp s b.die then [[{ v := v, img := g, block := b, held := true, k := b.die * 64 + b.ctx, core := b.die * 48 + b.core }]] else []
    else
      let vs := s.saved.filter fun w => (crewBlocks s b).any fun y => y.id == w.block
      if vs.any fun w => !w.ready then []
      else match vs.mapM fun w => (savedImage s w).map fun i => (w, i) with
        | none => []
        | some l =>
          let at' := fun (q : Nat) (w : Saved) => q * 4 + (s.block w.block).core % 4
          let stay : Bool := (s.blocks.any fun y => y.crewBase == b.crewBase && y.grid == b.grid && y.run == .ended)
          (restoreCtxs s b g).flatMap fun p =>
            (((List.range 12).map (p.1 * 12 + ·)).filter fun q => !stay || q == (b.die * 48 + b.core) / 4).map fun q =>
              l.map fun w => { v := w.1, img := w.2, block := asImage (s.block w.1.block) w.2, crew := l.length, k := p.2, core := at' q w.1 }
/-- Where a saved block comes back with those of its crew, if there is room; `any`: on slots that do not issue too. -/
def planOn (s : State) (any : Bool) (v : Saved) : Option Plan :=
  bestPlan s ((homesOf s v).filterMap fun l => l.mapM fun h => (movedTo s any h).map fun y => (h.v, h.img, y))
def restorePlan (s : State) (v : Saved) : Option Plan := planOn s false v

/-- Bit of a slice in the masks of an image. -/
def slotBit (m : Nat) (x : Slice) : Bool := bitsOf m (4 * x.gid + x.idx) 1 == 1
/-- A slice as its record gives it; its own group, interlocked for eight instructions (02 R47, R51). `turn` is the paddock
map between its former place and the new one. -/
def restoreSlice (s : State) (b : Block) (turn : Nat) (g : Img) (bars : List (Bar × BarImg)) (x : Slice) (r : SliceImg) (xv : Xv) : Slice :=
  let trapped := g.traps.any fun t => t.gid.toNat == x.gid && bitsOf t.unit.toNat 4 2 == x.idx
  { r.x with
    id := x.id, block := b.id, ctx := b.ctx, die := b.die, core := b.core, pdk := x.pdk ^^^ turn, gid := x.gid, idx := x.idx
    gm := (1 : BitVec 4) <<< x.idx, xv := xv, nextIssue := s.clk b.die, interlock := 8, bpDone := x.bpDone, badV := x.badV, pagex := x.pagex
    marked := x.marked, hang := x.hang, arrived := (bars.filter fun p => slotBit p.2.who x).map fun p => (p.1.id, p.2.phase)
    run := if r.st = 4 then .retired else if trapped || x.run == .held then .held else .ready }
/-- The slices of a block with their records and execute-vector states. -/
def pairSlices : List Slice → List SliceImg → List Xv → List (Slice × SliceImg × Xv)
  | x :: xs, r :: rs, vs => if r.st = 4 then (x, r, {}) :: pairSlices xs rs vs else (x, r, vs.headD {}) :: pairSlices xs rs vs.tail
  | _, _, _ => []
/-- A command re-entered at the end of its queue (18 R310); what the record does not hold is as the controller kept it, and the
time it was saved counts in none of its stages (22 R361). -/
def restoreCmd (s : State) (b : Block) (since : Nat) (l : List Slice) (i : CommandImg) : Option (Command × Bool) :=
  (l.find? fun x => x.gid == i.gid && x.idx == i.idx).map fun x =>
    let c := i.c
    let k := b.die * 64 + b.ctx
    let base : Command := { c with
      queue := if c.qcode < 32 then x.pk else 2 ^ 16 + b.die * 32 + (c.qcode - 32)
      slice := x.id, block := b.id, ctx := k, die := b.die, gen := (s.ctx k).gen, parked := c.status == 2, entered := s.clk b.die, since := s.clk b.die }
    match s.cmds.find? fun d => d.id == c.id && d.block == b.id with
    | none => (base, false)
    | some d =>
      ({ base with
        before := d.before, due := if d.status = 4 then d.due else s.clk b.die + (d.due - since), sample := d.sample, entered := s.clk b.die - (since - d.entered)
        wait0 := d.wait0, wait1 := d.wait1, wait4 := d.wait4, wait7 := d.wait7, flags := if c.status = 0 then d.flags else d.flags ||| 4
        since := s.clk b.die - (since - d.since), parked := d.parked
        status := if c.status = 2 ∧ d.status = 4 then 4 else c.status
        stage := if d.stuck.isSome then 4 else base.stage, stuck := d.stuck }, true)
/-- Commands of a block that is new here get identities, and their fences wait for those that stand before them in the queues
that they name, of other blocks too (11 R199, 12 R225); `own`: the paddock of a slice. -/
def numbered (s : State) (b : Nat) (own : Nat → Nat) (l : List (Command × Bool)) : List Command :=
  let uid := s.uid
  let ids := l.zipIdx.map fun p => if p.1.2 then p.1.1.id else uid + 1 + p.2
  l.zipIdx.map fun p =>
    let c := p.1.1
    if p.1.2 then c
    else
      let named := fun (d : Command) => (d.queue == own c.slice && c.accept.getLsbD 32) ||
        (decide (2 ^ 16 ≤ d.queue) && d.die == c.die && c.accept.getLsbD (d.queue % 32))
      let others := (s.cmds.filter fun d => d.ctx == c.ctx && d.block != b && d.stage != 3 && named d).map Command.id
      { c with
        id := ids.getD p.2 0
        before := if c.kind = 5 then others ++ ((l.take p.2).zipIdx.filter fun q => named q.1.1).map fun q => ids.getD q.2 0 else [] }
/-- Barriers of a restored block: those of its own core level as the image has them; those it shares with other blocks
as they stand (log 42). -/
def restoreBars (s : State) (b : Block) (g : Img) (l : List Slice) : State :=
  let own := ((blockBarList s b).zip g.bars).filter fun p => p.1.level == .core
  let s : State := own.foldl (fun (s : State) p => s.updBar p.1.id fun y =>
    let who := (l.filter (slotBit p.2.who)).map Slice.id
    { y with expected := p.2.expected, arrivals := p.2.arrivals, phase := p.2.phase, who := who
             late := ((who.flatMap (lateOf s)).take (who.length - p.2.arrivals)) }) s
  (g.bbs.zipIdx).foldl (fun (s : State) p => s.updBb (b.id * 16 + p.2) fun y =>
    { y with count := p.1.count, phase := p.1.phase, parties := (l.filter fun x => slotBit p.1.parties x || slotBit p.1.arrived x).map Slice.id
             arrived := (l.filter (slotBit p.1.arrived)).map Slice.id
             late := if y.parties.isEmpty then ((l.filter (slotBit p.1.arrived)).map Slice.id).flatMap (lateOf s) else y.late
             leaving := (l.filter fun x => slotBit p.1.arrived x && !slotBit p.1.parties x).map Slice.id }) s
/-- Matrix state and queued traps of a restored block. -/
def restoreUnits (s : State) (b : Block) (g : Img) (l : List Slice) : State :=
  let s : State := g.mats.foldl (fun (s : State) m => s.updUnit (blockUnit b (m.pdk ^^^ b.flip)) fun u =>
    { u with shape := m.u.shape, flip := b.flip, activeFmt := m.u.activeFmt, shadowFmt := m.u.shadowFmt, live := m.u.live, kind := m.u.kind, perm := m.u.perm
             active := m.u.active, shadow := m.u.shadow, tiles := m.u.tiles, mq := [], takers := [], holder := m.holder.map fun i => (b.id, i) }) s
  g.traps.foldl (fun (s : State) t =>
    match l.find? fun x => t.gid.toNat == x.gid && bitsOf t.unit.toNat 4 2 == x.idx with
    | none => s
    | some x => s.updUnit x.uk fun u =>
      u.queueTrap { slice := x.id, block := b.id, trec := t }) s
/-- Commands of a restored block whose messages are out wait for their answers (22 R360). -/
def outCmds (opens : List OpenReq) (l : List Command) : List Command :=
  l.zipIdx.map fun p => if opens.any fun o => o.cmd == some p.2 then { p.1 with stage := 2, status := 1 } else p.1
/-- The answers that a restored block awaits; a slice at an `rinv.t` waits on. -/
def openAwaits (s : State) (b : Block) (opens : List OpenReq) (l : List Slice) (cs : List Command) : State :=
  opens.foldl (fun (s : State) o =>
    match l.find? fun x => x.gid == o.gid && x.idx == o.idx with
    | none => s
    | some x =>
      let a : Await := { o.wait with slice := x.id, ctx := b.die * 64 + b.ctx, cmd := (o.cmd.bind fun i => cs[i]?.map Command.id).getD 0 }
      let s : State := { s with awaits := s.awaits ++ [a] }
      if a.kind = 0 then s.updSlice x.id fun y => if y.run == .ready then { y with run := .waiting (.answer a.tag) } else y else s) s
/-- A block comes back at a place; its slices whose lanes have all exited leave with the groups they were in. A `.shared` area
that has stayed reserved for the crew is as it stands. -/
def restoreBlock (s : State) (v : Saved) (g : Img) (at' : Block) : State :=
  let old := s.block v.block
  let stays := holdsShared s old
  let b : Block := { unask at' with run := .running, order := s.uid }
  let l := slotOrder s b
  let bars := (blockBarList s b).zip g.bars
  let new := (pairSlices l g.slices g.xvs).map fun p => restoreSlice s b (old.flip ^^^ b.flip) g bars p.1 p.2.1 p.2.2
  let cmds := outCmds v.opens (numbered s b.id (fun i => ((new.find? fun x => x.id == i).map Slice.pk).getD 0) (g.cmds.filterMap (restoreCmd s b v.since new)))
  let s : State := { s with uid := s.uid + 1 + cmds.length, saved := s.saved.filter fun w => w.id != v.id }
  let s : State := s.updBlock b.id fun _ => b
  let s : State := openAwaits (new.foldl State.putSlice s) b v.opens new cmds
  let s : State := { s with cmds := s.cmds.filter (fun c => c.block != b.id || c.stage == 3) ++ cmds }
  let bad := (s.marks v.addr (64 + g.shared.length)).filterMap fun i => if 64 ≤ i then some (i - 64) else none
  let s : State := if stays then s else (putTagged s (sharedKey b) b.ctx g.shared g.tags).putMarks (sharedKey b) bad
  let gr := s.grid b.grid
  let s : State := if gr.argBytes.isEmpty then s else putArgs s gr b (s.blocks.filter fun y => y.crewBase == b.crewBase && y.grid == b.grid)
  let s : State := v.bad.foldl (fun (s : State) m => s.updUnit (blockUnit b (m.1 ^^^ b.flip)) fun u => { u with badTiles := m.2.1, badPlanes := m.2.2 })
    (restoreUnits (restoreBars s b g new) b g new)
  let s : State := s.updCtx (old.die * 64 + old.ctx) fun c => { c with recs := c.recs.filter fun r => r.1 != b.id }
  settle (new.foldl (fun (s : State) x => if x.run != .retired && x.alive == 0 then retireSlice s x.id else s) s)

/-! ### Crew kills (21 R342) -/

/-- Matrix state that a killed block leaves on its paddocks is cleared before other work issues there: a paddock on which a further
block with tiles of the context stands now is that block's (15 R250, R268). -/
def scrubTiles (s : State) (b : Block) : State :=
  ((tilePdks b).filter fun p => holdsPlace b || tilesFree s ((b.die * 48 + b.core) * 4 + p) b.ctx).foldl
    (fun (s : State) p => s.updUnit (blockUnit b p) fun u => { unitReset u with mq := [] }) s
/-- Tasks of a wave as its relaunch finds them: those whose signals have not begun are to retire again; the rest of a task's
signals, once begun, is made (17 R284, 21 R342). -/
def againTasks (s : State) (b : Block) : List LaneTask :=
  b.wave.map fun t => { t with done := t.done && !(s.retiring.any fun r => r.block == b.id && r.lane == t.lane && r.step == 0) }
/-- The blocks of a block's crew, those that have ended among them. -/
def wholeCrew (s : State) (b : Block) : List Block := s.blocks.filter fun y => y.crewBase == b.crewBase && y.grid == b.grid
/-- Steps 1 and 2 of a crew kill: slices stop, no handler runs, commands and contributions that have not begun are dropped. -/
def crewStop (s : State) (l : List Block) : State :=
  let gone := fun (b : Nat) => l.any fun x => x.id == b
  let s : State := { s with
    blocks := s.blocks.map fun x => if !gone x.id then x
      else { unask x with wave := againTasks s x, stop := none, run := if holdsPlace x then .dying else x.run }
    cmds := s.cmds.filterMap fun c => if gone c.block then dieCmd c else some c
    red := s.red.filter fun r => !(s.cmds.any fun c => c.id == r.cmd && gone c.block)
    retiring := (s.retiring.filter fun r => !gone r.block || r.step != 0).map fun r => if gone r.block then { r with block := 0 } else r
    pushbuf := s.pushbuf.map fun r => if gone r.block then { r with block := 0 } else r
    saved := s.saved.filter fun v => !gone v.block
    pdks := s.pdks.map fun p => { p with waiters := p.waiters.filter fun w => !(w.members.any fun i => gone (s.slice i).block) }
    units := s.units.map fun u =>
      { u.dropTraps gone with
               mq := u.mq.filter (fun m => !gone m.block), service := u.service.filter fun t => !gone t.block
               proxy := if u.service.any fun t => gone t.block then none else u.proxy
               holder := u.holder.filter (fun g => !gone g.1), takers := u.takers.filter fun t => !gone t.2.1 } }
  (s.units.filter fun u => u.service.isNone && u.hslice != 0).foldl (fun (s : State) u => retireHandler s u.hslice) s
/-- Everything of a crew leaves the machine; the barriers of other crews keep its slices as members to come. -/
def crewRemove (s : State) (l : List Block) : State :=
  let gone := fun (b : Nat) => l.any fun x => x.id == b
  let mine := s.slices.filter fun x => gone x.block && !x.handler
  let ids := mine.map Slice.id
  let retired := (mine.filter fun x => x.run == .retired).length
  let s : State := l.foldl scrubTiles s
  let touched := fun (b : Bar) => (barBlocks s b).any fun x => gone x.id
  let s : State := { s with
    bars := (s.bars.filter fun b => !((b.level == .core && gone b.owner) || (b.level == .quad && l.any fun x => x.crewBase == b.owner))).map fun b =>
      if touched b then
        { b with expected := b.expected + retired, who := b.who.filter (fun i => !ids.contains i), late := b.late.filter (fun p => !ids.contains p.1)
                 arrivals := b.arrivals - (b.who.filter fun i => ids.contains i && b.counted i).length }
      else b
    bbs := s.bbs.filter fun b => !gone b.block
    slices := s.slices.filter fun x => x.handler || !gone x.block
    blocks := s.blocks.filter fun x => !gone x.id }
  l.foldl (fun (s : State) b => b.pdks.eraseDups.foldl (fun (s : State) p => allocGrants s ((b.die * 48 + b.core) * 4 + p)) s) s

/-- A command in progress of a crew that is being killed goes on to its next 512-byte boundary (21 R342). -/
def toBoundary (s : State) (c : Command) : State :=
  if c.stage == 5 then
    let (s, c, r) := perform s c
    performed s c r
  else s
/-- The paddock of a block in which it consumed an uncorrectable error (15 R268, 21 R337, R341): which of them, a free value says
(log 105). -/
def errorPdk (s : State) (b : Block) : TestUnit :=
  let l := b.pdks.eraseDups
  .paddock ((b.die * 48 + b.core) * 4 + l.getD (Config.freeNat s.free % l.length) 0)
/-- Steps 3 and 4: once no command of a stopped crew is in progress, the crew is gone, and waits to be relaunched. -/
def crewGone (s : State) (b : Block) : State :=
  let l := wholeCrew s b
  if s.cmds.any fun c => l.any fun x => x.id == c.block then s
  else
    let lin := (l.map Block.lin).foldl min b.lin
    let s : State := s.updGrid b.grid fun g =>
      { g with launches := g.launches.filter (fun p => p.1 != b.crewBase), ended := g.ended - (l.filter fun y => y.run == .ended).length
               relaunch := g.relaunch ++ [(lin, l.length, b.wave)] }
    let s : State := crewRemove s l
    if controllerUp s b.die then (relaunchOnce s b.grid).1 else s
/-- Crews whose last command has come to its boundary. -/
def crewsGone (s : State) : State :=
  (s.blocks.filter fun b => b.run == .dying).foldl (fun (s : State) b => if s.blocks.any fun y => y.id == b.id then crewGone s b else s) s
/-- A consumed uncorrectable error kills the block's crew and has a unit tested; the crew is relaunched once, on a quad that has
room, and killed for good the second time (21 R341, R342). -/
def killCrew (block : Nat) (unit : Option TestUnit) (s : State) : State :=
  let b := s.block block
  if b.run == .ended || b.run == .dying then s
  else
    let s : State := match unit with | some u => beginTest s u | none => s
    if b.relaunched then ((wholeCrew s b).filter fun y => y.run != .ended).foldl (fun (s : State) y => scrubTiles (killBlock s y.id []) y) s
    else
      let l := wholeCrew s b
      let s : State := crewStop s l
      let s : State := (s.cmds.filter fun c => l.any fun x => x.id == c.block).foldl toBoundary s
      crewGone s (s.block block)
/-- The crew of a block has consumed an error of which only the crew is known: one of the block's paddocks is tested. -/
def execCrewKill (block : Nat) (s : State) : Result :=
  .next (killCrew block (some (errorPdk s (s.block block))) { s with free := s.free + 1 })

/-! ### Duplex switches (18 R304, R305) -/

/-- Context of the issuing slot and of the other one. -/
def slotCtx (p : Pdk) (n : Nat) : Option Nat := if n = 0 then p.slot0 else p.slot1
/-- Issue times of a paddock's contexts since the last wear tick of its die, the current slot's among them. -/
def issueTimes (s : State) (p : Pdk) : List (Nat × Nat) :=
  match slotCtx p p.issuing with
  | some c => p.shares ++ [(c, s.clk (p.id / 192) - max p.since (s.die (p.id / 192)).tick)]
  | none => p.shares
/-- The state in which the other slot of a paddock issues. -/
def switched (s : State) (pk : Nat) : State :=
  s.updPdk pk fun p => { p with issuing := 1 - p.issuing, shares := issueTimes s p, since := s.clk (pk / 192), quiet := 0 }

end Sys2Proof.Machine
end

