-- ==== Sys2Proof/Machine/Arbiter.lean ====
section
/-! DEFINITION. The dispatch controller's choice of what it places next: sources with launches, waves and saved blocks at their
heads, classes, rotation and credits, pre-emption requests, restores, duplex switches (18 R299-R304, R311, R312). -/
namespace Sys2Proof.Machine

/-! ### Sources (18 R299, R301) -/

/-- What a source has at its head: a launch, the stall of a wave, or a saved block that is to come back, which stands before both. -/
inductive Head where
  | queue (q : Nat) (e : LqEntry)
  | wave (st : Stall)
  | saved (v : Saved)
  deriving DecidableEq, Repr
/-- A source of a class: its place in the rotation, weight, context. -/
structure Source where
  key : Nat := 0
  cls : Nat := 0
  weight : Nat := 0
  k : Nat := 0
  head : Head
  deriving DecidableEq, Repr

/-- The saved block at the front of a launch queue of a context, or, where no queue is given, of its wave source of a class: the
first that can be placed now, else the first; a block of a grid that no queue of the package holds stands with the waves, the model's
choice (log 120). -/
def savedHead (s : State) (k : Nat) (q : Option Nat) (c : Nat) : Option Saved :=
  let l := s.saved.filter fun v =>
    let b := s.block v.block
    let g := s.grid b.grid
    v.ready && g.die * 64 + g.ctx == k && g.queue == q && (q.isSome || b.cls == c)
  (l.find? fun v => (restorePlan s v).isSome).orElse fun _ => l.head?
/-- The place of a source in the rotation: context, queue (64: the wave source), class. -/
def sourceKey (k q c : Nat) : Nat := ((k % 64) * 65 + q) * 4 + c
/-- What stands at the head of a launch queue. -/
def queueSource (s : State) (k q : Nat) : Option Head :=
  match savedHead s k (some q) 0 with
  | some v => some (.saved v)
  | none => (queueHead (s.ctx k) q).bind fun e => if eligible (s.ctx k) e && e.grid != 0 then some (.queue q e) else none
/-- What stands at the head of a wave source. -/
def waveSource (s : State) (k c : Nat) : Option Head :=
  match savedHead s k none c with
  | some v => some (.saved v)
  | none => (readyStall s k c).map .wave
/-- Sources of a class on a die, in rotation order. -/
def sources (s : State) (d c : Nat) : List Source :=
  (dieCtxs s d).flatMap fun k =>
    ((List.range 64).filterMap fun q =>
      let (cls, en, w, _) := (s.ctx k).queue q
      if en && cls == c then (queueSource s k q).map fun h => { key := sourceKey k q c, cls := cls, weight := w, k := k, head := h } else none) ++
    ((waveSource s k c).map fun h => { key := sourceKey k 64 c, cls := c, weight := (s.ctx k).wwave, k := k, head := h }).toList

/-- What the controller does when a source wins: a new block, crew or wave at its places, or blocks that come back. -/
inductive Placing where
  | new (g : Grid) (k : Nat) (spots : List Spot)
  | back (l : Plan)
  deriving DecidableEq, Repr
/-- What the head of a source would do now; `any`: on slots that do not issue too. -/
def placing (s : State) (any : Bool) (x : Source) : Option Placing :=
  match x.head with
  | .queue _ e =>
    let g := s.grid e.grid
    (nextSpots s g any).map fun p => .new g p.1 p.2
  | .wave st =>
    (readWave s x.k st).1.bind fun g => (spotOn s (gridNeed g x.k 1) any (st.id / 16)).map fun p => .new g x.k [p]
  | .saved v => (planOn s any v).map .back
/-- Paddocks that a placing uses. -/
def Placing.pdks : Placing → List Nat
  | .new _ _ l => l.flatMap fun z => z.pdks.map (z.core * 4 + ·)
  | .back l => l.flatMap fun p => p.2.2.pdks.map ((p.2.2.die * 48 + p.2.2.core) * 4 + ·)

/-! ### Arbitration (18 R300) -/

def creditOf (x : Die) (y : Source) : Nat := ((x.credit.find? fun p => p.1 == y.key).map (·.2)).getD y.weight
/-- Sources in rotation after the last one placed. -/
def rotation (x : Die) (l : List Source) : List Source :=
  match l with
  | [] => []
  | y :: _ =>
    let last := (x.last.get y.cls).toNat
    l.filter (fun z => decide (last ≤ z.key)) ++ l.filter fun z => decide (z.key < last)
/-- The source of a class that wins, after its credits are renewed where none is left. -/
def pickSource (s : State) (d c : Nat) : Option (Source × Bool) :=
  let x := s.die d
  let l := (rotation x (sources s d c)).filter fun y => (placing s false y).isSome
  match l.find? fun y => decide (0 < creditOf x y) with
  | some y => some (y, false)
  | none => l.head?.map fun y => (y, true)
/-- Effective class. -/
def effClass (x : Die) (c : Nat) : Nat := if c != 0 && decide (2 ^ 20 ≤ (x.age.get c).toNat) then c - 1 else c
/-- Classes in the order in which they compete: promoted before native. -/
def classOrder (x : Die) : List Nat :=
  (List.range 4).flatMap fun e => ([e + 1, e].filter fun c => decide (c < 4) && effClass x c == e)
/-- Wear the winner's credit and note it as the last of its class. -/
def charge (s : State) (d : Nat) (y : Source) (renew : Bool) : State :=
  let l := sources s d y.cls
  s.updDie d fun x =>
    let cr := if renew then l.foldl (fun c z => recPut Prod.fst c z.key (z.key, z.weight)) x.credit else x.credit
    let n := ((cr.find? fun p => p.1 == y.key).map (·.2)).getD y.weight
    { x with credit := recPut Prod.fst cr y.key (y.key, n - 1), last := x.last.set y.cls (BitVec.ofNat 32 (y.key + 1))
             age := x.age.set y.cls 0 }
/-- Places a new block, crew or wave at the head of a source. -/
def placeNew (s : State) (y : Source) (g : Grid) (k : Nat) (spots : List Spot) : State :=
  match y.head with
  | .queue q _ =>
    let s : State := placeCrew s g k g.placed spots [] false
    let s : State := s.updGrid g.id fun h => { h with placed := h.placed + spots.length }
    if g.placed + spots.length ≥ g.total then popQueue s y.k q else s
  | .wave st =>
    match readWave s y.k st with
    | (none, s) => failWave s y.k st
    | (some g, s) =>
      let (id, s) := s.fresh
      let g := { g with id := id, placed := 1 }
      let s : State := placeCrew (s.putGrid g) g k 0 spots ((st.tasks.zipIdx).map fun t => { lane := t.2, task := t.1 }) false
      s.updStall st.id fun y => { id := y.id }
  | .saved _ => s
/-- The source that wins the next opportunity of a die, and whether the credits of its class are renewed first. -/
def winner (s : State) (d : Nat) : Option (Source × Bool) := (classOrder (s.die d)).findSome? (pickSource s d)

/-! ### Pre-emption requests (18 R301) -/

/-- Victims in order: highest class number first, then most recently placed. -/
def insVictim (b : Block) : List Block → List Block
  | [] => [b]
  | c :: t => if c.cls < b.cls || (c.cls == b.cls && decide (c.order < b.order)) then b :: c :: t else c :: insVictim b t
/-- Blocks of higher-numbered classes on a core. -/
def victims (s : State) (core c : Nat) : List Block :=
  ((coreBlocks s core).filter fun b => decide (c < b.cls) && b.run == .running).foldl (fun l b => insVictim b l) []
/-- The state in which the blocks given have left their places. -/
def without (s : State) (bs : List Block) : State :=
  bs.foldl (fun (s : State) b =>
    { s.updBlock b.id fun x => { x with run := .saved } with
        pdks := s.pdks.map fun p => { p with waiters := p.waiters.filter fun w => !(w.members.any fun i => (s.slice i).block == b.id) } }) s
/-- The least prefix of the victims of one core whose leaving makes something fit there. -/
def victimsFor (s : State) (core c : Nat) (fits : State → Bool) : Option (List Block) :=
  let v := victims s core c
  ((List.range (v.length + 1)).map v.take).find? fun l => fits (without s l)
/-- A block or crew of a grid fits on a core. -/
def spotFits (n : Need) (core : Nat) (s : State) : Bool := (spotOn s n false core).isSome
/-- What a new block or crew of a grid asks for. -/
def gridAsks (s : State) (c : Nat) (g : Grid) : List Block :=
  let m := crewAt g g.placed
  ((upDies s g).findSome? fun d => (ctxOnDie s g d).bind fun k =>
    let on := residentCores s k d
    let of := fun core => victimsFor s core c (spotFits (gridNeed g k m) core)
    if m ≤ 1 then on.findSome? of
    else (on.map (· / 4)).eraseDups.findSome? fun q =>
      let l := (List.range 4).filterMap fun i => of (q * 4 + i)
      if m ≤ l.length then some ((l.take m).flatMap id) else none).getD []
/-- What a saved block asks for: at the first place where its plan would stand once the blocks asked have left. -/
def savedAsks (s : State) (c : Nat) (v : Saved) : List Block :=
  ((homesOf s v).findSome? fun l =>
    (l.mapM fun h => victimsFor s h.core c fun t => (movedTo t false h).isSome).map (·.flatMap id)).getD []
/-- What a head of class 0 or 1 that does not fit asks for. -/
def preemptFor (s : State) (y : Source) : List Block :=
  match y.head with
  | .queue _ e => gridAsks s y.cls (s.grid e.grid)
  | .wave st =>
    match (readWave s y.k st).1 with
    | some g => (victimsFor s (st.id / 16) y.cls (spotFits (gridNeed g y.k 1) (st.id / 16))).getD []
    | none => []
  | .saved v => savedAsks s y.cls v
/-- The requests of one dispatch opportunity. -/
def preemptAsks (s : State) (d : Nat) : List Nat :=
  ([0, 1].flatMap fun c => (sources s d c).flatMap fun y => if (placing s false y).isSome then [] else preemptFor s y).filterMap fun b =>
    if b.run == .running && b.preempt.isNone then some b.id else none

/-! ### One opportunity -/

/-- One dispatch opportunity: heads are read, refused or reported; at most one block, crew or wave is placed (a saved block
that wins comes back by `blockRestore`); heads that do not fit may ask for pre-emption. The flag says whether anything was done. -/
def dispatchOnce (s : State) (d : Nat) : State × Bool :=
  if !controllerUp s d then (s, false)
  else
    let (s, b0) := (dieCtxs s d).foldl (fun (r : State × Bool) k =>
      ((r.1.ctx k).lq.map (·.1)).eraseDups.foldl (fun (r : State × Bool) q =>
        if ((r.1.ctx k).queue q).2.1 then
          let (s, b) := prepareHead r.1 k q
          (s, r.2 || b)
        else r) r) (s, false)
    let (s, b1) := (dieCtxs s d).foldl (fun (r : State × Bool) k => (List.range 4).foldl (fun (r : State × Bool) c =>
      let (s, b) := prepareWave r.1 k c
      (s, r.2 || b)) r) (s, b0)
    let (s, again) := relaunchDie s d
    let (s, b2) : State × Bool :=
      if again then (s, true)
      else match winner s d with
      | some (y, renew) =>
        match placing s false y with
        | some (.new g k spots) => (placeNew (charge s d y renew) y g k spots, true)
        | _ => (s, b1)
      | none => (s, b1)
    let asks := preemptAsks s d
    (asks.foldl (fun (s : State) b => askPreempt s b 1) s, b2 || !asks.isEmpty)

def execDispatch (die : Nat) (s : State) : Result := .next (clearKicks (dispatchOnce s die).1 die)

/-- Age of the classes after a number of cycles: it stands still while only slots that do not issue could take the heads (18 R300,
R304). -/
def tickAge (s : State) (d n : Nat) : State :=
  (List.range 4).foldl (fun (s : State) c =>
    let can := fun any => c != 0 && (sources s d c).any fun y => (placing s any y).isSome
    let now := ((s.die d).age.get c).toNat
    let age := if can false then min (now + n) (2 ^ 32 - 1) else if can true then now else 0
    s.updDie d fun x => { x with age := x.age.set c (BitVec.ofNat 32 age) }) s

/-! ### Restores (18 R301, R311, R312) -/

/-- A saved block comes back, with those of its plan, when its source wins. A restore that is refused kills the block (13 R234,
18 R311). -/
def execBlockRestore (image : Nat) (s : State) : Result :=
  match s.saved.find? fun v => v.id == image && v.ready with
  | none => .next s
  | some v =>
    let b := s.block v.block
    let d := (s.grid b.grid).die
    if (s.ctx (b.die * 64 + b.ctx)).killing ≠ 0 ∨ b.run ≠ .saved then .next s
    else if (savedImage s v).isNone then .next (killBlock s v.block [])
    else if imagePoison s v then .next (s.consume v.block none)
    else if !controllerUp s d then .next s
    else match winner s d with
      | none => .next s
      | some (y, renew) =>
        match if y.head = .saved v then placing s false y else none with
        | some (.back l) => .next (l.foldl (fun (s : State) p => restoreBlock s p.1 p.2.1 p.2.2) (charge s d y renew))
        | _ => .next s

/-! ### Duplex switches (18 R304, R305) -/

/-- The context that issues on a paddock has a ready slice there, or a block that can be placed there. -/
def slotWork (s : State) (pk : Nat) : Bool :=
  let p := s.pdk pk
  match slotCtx p p.issuing with
  | none => false
  | some c =>
    (s.slices.any fun x => x.pk == pk && x.ctx == c && readyBase s x) ||
      ((List.range s.part.dies).flatMap fun d => [0, 1, 2, 3].flatMap (sources s d)).any fun y => match placing s false y with
        | some l => l.pdks.contains pk
        | none => false
/-- One of the grounds on which a controller switches by itself holds. -/
def switchDue (s : State) (pk : Nat) : Bool :=
  let p := s.pdk pk
  (slotCtx p (1 - p.issuing)).isSome &&
    slotWork (switched s pk) pk &&
    (decide (256 ≤ p.quiet) ||
      match slotCtx p p.issuing with
      | some c => decide ((s.ctx (pk / 192 * 64 + c)).quant * 1750 ≤ s.clk (pk / 192) - p.since)
      | none => false)
def execDuplexSwitch (pdk : Nat) (s : State) : Result :=
  if switchDue s pdk then
    .next (switched s pdk)
  else .next s

end Sys2Proof.Machine
end

