-- ==== Sys2Proof/Machine/Yard.lean ====
section
/-! DEFINITION. Yard messages as they arrive, their answers, reduction trees, refusals and link errors (09 R171, 10 R174,
R186, 11 R207, 16 R274, R275, 17 R290-R294, R376, 18 R298, 21 R339, 22 R358). -/
namespace Sys2Proof.Machine

/-! ### Arrival (17 R290, 22 R358) -/

/-- Payload bytes that a message's flits can carry. -/
def flitRoom (n : Nat) : Nat := 44 + 60 * n
/-- The types that R292 defines. -/
def typeKnown (t : Byte) : Bool :=
  [mWRITE, mREAD, mDATA, mFATM, mRED, mINVOKE, mANSWER, mLAUNCH, mCOMPLETION, mLOG, mINVAL, mINVALDONE, mPAGERESP, mFAULTNOTE,
    mMARKER, mMGMT, mNACK, mBARRIER].contains t
/-- A message that no port drops for its form. -/
def wellSent (m : Msg) : Bool :=
  decide (bitsOf m.ctl.toNat 5 3 ≤ 4) && decide (m.len.toNat ≤ flitRoom (bitsOf m.ctl.toNat 5 3)) && typeKnown m.type
/-- The cut that holds back a message of its group (22 R358). -/
def cutOf (s : State) (m : Msg) : Option Cut := s.cuts.find? fun c => c.grp == m.grp && c.die == msgDie m
/-- The message is held undelivered; it is channel state until its source's markers have come. -/
def holdMsg (s : State) (m : Msg) (d : Nat) : State :=
  { s with cuts := s.cuts.map fun c =>
      if c.grp == m.grp && c.die == d then
        { c with held := c.held ++ [m], channel := if c.due.contains (m.src, m.die) then c.channel ++ [(s.cc d, m)] else c.channel }
      else c }
/-- A replay of the message's group has begun here, and the message's die has not loaded its section (22 R360). -/
def loading (s : State) (m : Msg) : Bool := s.replays.any fun r => r.grp == m.grp && !r.loaded.contains (msgDie m)
/-- A refusal of a message that the endpoint cannot take now (17 R291). -/
def State.refuse (s : State) (m : Msg) : State :=
  let s : State := s.emit ((mkMsg s m.src mNACK (msgCls m) true m.die m.grp m.tag 0 0 []).ofDie (msgDie m))
  if m.type == mMGMT then s else { s with refused := s.refused ++ [m] }

/-! ### Ports (17 R291, 21 R339, R341) -/

/-- Flits of input buffering of a class (17 R291). -/
def classFlits : Nat := 64
/-- The traffic class of a message: the four request classes, then the answer class. -/
def portCls (m : Msg) : Nat := if m.ctl.getLsbD 2 then 4 else msgCls m
/-- The ports of a package that serve: neither fenced nor under test. -/
def usablePorts (s : State) : List Nat := (List.range s.part.ports).filter fun n => !(s.port n).fenced && !underTest s (.port n)
/-- The port by which a message comes in: of its die where one serves, else of another die; none while none serves (log 104). -/
def inPort (s : State) (m : Msg) : Option Nat :=
  let l := usablePorts s
  let own := l.filter fun n => unitDie s.part (.port n) == msgDie m
  let l := if own.isEmpty then l else own
  if m.src == s.node then some m.port else if l.isEmpty then none else some (l.getD (Config.portOf m.src % l.length) 0)
/-- What stands in the input buffers of the ports: commands that wait for their die, messages behind a marker, and those that a cut
or a replay holds; what a cut records is with its section (log 106). -/
def buffered (s : State) : List Msg :=
  s.mgmtq ++ s.behind ++ (s.cuts.flatMap fun c => c.held.filter fun m => !(c.channel.any fun p => p.2 == m)) ++ s.replays.flatMap Replay.held
/-- Flits that stand in one class of a port. -/
def classUsed (s : State) (port cls : Nat) : Nat :=
  (((buffered s).filter fun q => q.port == port && portCls q == cls).map fun q => flits q.len.toNat).foldl (· + ·) 0
/-- The message's class at its port has room for its flits; answers are taken without condition. -/
def bufferRoom (s : State) (m : Msg) : Bool := portCls m == 4 || decide (classUsed s m.port (portCls m) + flits m.len.toNat ≤ classFlits)

/-- What every arriving message of a context goes through: what is held and not recorded stands in its port's buffer, or is refused. -/
def arrive (f : State → Msg → State) (s : State) : Result :=
  let m := s.msg
  if !wellSent m then .next { s with drops := s.drops + 1 }
  else
    let s : State := { s with refused := s.refused.filter fun r => !(r.src == m.src && r.tag == m.tag && r.type == m.type) }
    match cutOf s m with
    | some c => .next (if c.due.contains (m.src, m.die) || bufferRoom s m then holdMsg s m c.die else s.refuse m)
    | none =>
      if !loading s m then .next (f s m)
      else if !bufferRoom s m then .next (s.refuse m)
      else .next { s with replays := s.replays.map fun r => if r.grp == m.grp then { r with held := r.held ++ [m] } else r }
/-- A management command waits behind the ones of its die, or is refused. -/
def State.queueMgmt (s : State) (m : Msg) : State := if bufferRoom s m then { s with mgmtq := s.mgmtq ++ [m] } else s.refuse m
/-- Requests to a die's controller are refused while its failover lasts (18 R317). -/
def arriveCtl (f : State → Msg → State) (s : State) : Result :=
  if wellSent s.msg && !controllerUp s (msgDie s.msg) then .next (s.refuse s.msg) else arrive f s
/-- Status codes of R275 and R288. -/
def stOK : Nat := 0
def stOVF : Nat := 1
def stHANDLER : Nat := 2
def stBAD : Nat := 2
def stUNREACH : Nat := 5
/-- A fault at the target of a space-5 or space-6 access (log 32). -/
def stREMOTE : Nat := 5

/-- A contribution that its home holds: the answer of its apply comes later (11 R205; log 32). -/
def stHELD : Nat := 6

/-- The context of a die that holds a pod group (18 R296). -/
def ctxOfGrp (s : State) (d : Nat) (g : W16) : Option Nat :=
  (s.ctxs.find? fun c => c.die == d && c.valid && c.grp == g && c.killing == 0).map Ctx.id
/-- The context whose pod window a group's accesses reach: on the lowest die that holds it (10 R174). -/
def podCtx (s : State) (g : W16) : Option Nat := (List.range s.part.dies).findSome? fun d => ctxOfGrp s d g
/-- An access of `n` bytes at an offset of the pod window: its owner and virtual address. -/
def podAccess (s : State) (g : W16) (o n : Nat) : Option (Owner × Nat) :=
  (podCtx s g).bind fun k =>
    let c := s.ctx k
    if c.pwl < o + n then none else some ({ k := k, gen := c.gen }, c.pwb + o)

/-! ### Copy pieces and far atomics at the target (10 R174, 17 R292) -/

def execWrite (s : State) : Result :=
  arrive (fun s m =>
    let bs := m.pay.drop 8
    match podAccess s m.grp (m.at' 0 8) bs.length with
    | none => s.reply m mANSWER stREMOTE []
    | some (o, a) =>
      match writeN s o 0 a bs with
      | (.ok _, s) => (spanPoison s o 0 a bs.length (m.bad.map (· - 8))).reply m mANSWER stOK []
      | (.error _, s) => s.reply m mANSWER stREMOTE []) s
def execRead (s : State) : Result :=
  arrive (fun s m =>
    match if m.at' 8 2 ≤ 256 then podAccess s m.grp (m.at' 0 8) (m.at' 8 2) else none with
    | none => s.reply m mANSWER stREMOTE []
    | some (o, a) =>
      match readN s o 0 a (m.at' 8 2) with
      | (.ok bs, s) => s.reply m mDATA stOK bs (spanMarks s o 0 a (m.at' 8 2))
      | (.error _, s) => s.reply m mANSWER stREMOTE []) s
def execFatm (s : State) : Result :=
  arrive (fun s m =>
    let n := m.at' 16 2
    match podAccess s m.grp (m.at' 0 8) n with
    | none => s.reply m mANSWER stREMOTE []
    | some (o, a) =>
      match locate s o 0 a true true with
      | (.error _, s) => s.reply m mANSWER stREMOTE []
      | (.ok w, s) =>
        let old := leNat (s.rd w.key n)
        let bad := s.marks w.key n
        ((s.wr w.key (leBytes n (old + m.at' 8 8))).putMarks w.key bad).reply m mANSWER stOK (leBytes 8 old) bad) s

/-! ### Answers (16 R275, 17 R290-R292) -/

/-- The answer that a message brings is expected. -/
def awaited (s : State) (m : Msg) : Option Await := s.awaits.find? fun a => a.tag == m.tag && a.node == m.src
/-- A generation older than the current one; they do not wrap (18 R315). -/
def olderGen (s : State) (k : Nat) (g : W16) : Bool := decide (g.toNat < (s.ctx k).gen.toNat)
/-- A command goes on after its message has been answered. -/
def resume (s : State) (c : Command) (off : Nat) : State :=
  let d : Command := { c with off := off }
  if c.dying && !d.inside then dropCmd s c else s.updCmd c.id fun c => { c with stage := 5, status := 1, off := off }
/-- Virtual address at which a command stands. -/
def cmdAddr (c : Command) : Nat :=
  let p := c.pieceAt c.piece
  if c.kind = 6 ∨ c.kind = 7 then c.dstA.toNat else if c.src.space = 5 then (p.src.getD 0) + c.off else p.dst + c.off
/-- A command whose access failed at the target: PAGEX with cause 5 (10 R187). -/
def remoteFault (s : State) (c : Command) : State := cmdPagex s c 5 (cmdAddr c)
/-- The answer to a command's message. -/
def cmdAnswer (s : State) (a : Await) (c : Command) (m : Msg) : State :=
  let arg := m.arg.toNat
  let s : State := s.updCmd c.id fun c => chargeStage s c 4
  -- The cell, or the value that comes back, is poisoned: this command has used it (21 R339).
  if !m.bad.isEmpty then performed s c .poison
  else if c.kind = 7 then
    if arg = 0 then (if c.stage = 2 then s.updCmd c.id fun c => { c with stage := 1 } else heldDone s c.id)
    else if arg = stHELD then { s.updCmd c.id fun c => { c with stage := 1, count := 2 } with awaits := s.awaits ++ [a] }
    else if arg = 1 then s.updCmd c.id fun c => { c with stage := 0, status := 3, due := s.clk c.die + 256, flags := c.flags ||| 2 }
    else remoteFault s c
  else if arg ≠ 0 then remoteFault s c
  else if c.kind = 6 then
    (s.updSlice c.slice (landS c.dreg (extLoad 64 c.ty (m.at' 0 8 % 2 ^ (8 * c.len))))).updCmd c.id fun c => { c with stage := 1 }
  else resume (countBytes s c a.len) c (c.off + a.len)
/-- The answer to an invoke lands in its status register; OVF of the waiting form traps RINVOVF, where
the slice still waits, and is never written (16 R275). -/
def invokeAnswer (s : State) (a : Await) (arg : W16) : State :=
  let x := s.slice a.slice
  if a.kind = 0 && arg == 1 && x.run != .waiting (.answer a.tag) then s
  else if a.kind = 0 && arg == 1 then
    let (w, s) := match fetchAt s x with
      | (.word w, s) => (w, s)
      | (_, s) => ((0 : W64), s)
    takeTrap s a.slice { trapAt s x tRINVOVF a.off (a.node.setWidth 64) with word := w }
  else s.updSlice a.slice (landS a.reg (arg.setWidth 64))
/-- An answer of an older generation than the requesting context's is dropped and counted. -/
def answerIn (f : State → Await → Msg → State) (s : State) (m : Msg) : State :=
  match awaited s m with
  | none => s
  | some a =>
    let s : State := { s with awaits := s.awaits.erase a, resend := s.resend.filter fun r => !(r.sent && r.msg.tag == m.tag && r.msg.dst == m.src) }
    if olderGen s a.ctx m.gen then s.genDrop a.ctx else settle (f s a m)
def execAnswer (s : State) : Result :=
  arrive (answerIn fun s a m =>
    if a.kind < 2 then invokeAnswer s a m.arg
    else match s.cmd a.cmd with
      | some c => cmdAnswer s a c m
      | none => s) s
/-- The bytes of a read of another package are written where the command wants them; a translation fault there is the
command's (10 R187). -/
def dataLand (s : State) (a : Await) (c : Command) (bs : List Byte) (bad : List Nat) : State :=
  let p := c.pieceAt c.piece
  let d := p.dst + a.off
  match locate s c.owner p.dspace d false true with
  | (.error f, s) => performed s { c with stage := 0, status := 1 } (.fault f d (if c.kind = 8 then 6 else 2) p.lane)
  | (.ok w, s) =>
    let n := min bs.length w.left
    resume (countBytes ((s.wr w.key (bs.take n)).putMarks w.key (bad.filter fun i => decide (i < n))) c n) c (a.off + n)
def execData (s : State) : Result :=
  arrive (answerIn fun s a m => match s.cmd a.cmd with
    | some c => if a.kind = 2 then dataLand s a c m.pay m.bad else s
    | none => s) s

/-! ### Reductions (11 R205, 17 R294) -/

/-- The window of a group's context at this home that holds an offset (log 43). -/
def windowAt (s : State) (g : W16) (o : Nat) : Option RedWin :=
  s.windows.find? fun w => decide (o + 8 ≤ w.len) && (s.ctx w.ctx).grp == g && (s.ctx w.ctx).valid
/-- The sum at a tree node: the first child's value, and the others added in child order. -/
def childSum : List W32 → W32
  | [] => 0
  | x :: t => t.foldl redAdd x
/-- The switches between the root of a window and a member. -/
def RedWin.path (w : RedWin) (n : W16) : List Nat := ((w.paths.find? fun p => p.1 == n).map (·.2)).getD []
/-- The child of a node beneath which a member comes: the member itself or the next switch, where it comes beneath the node. -/
def childAt (n : W16) : List Nat → List Nat → Option (Bool × Nat)
  | [], [] => some (true, n.toNat)
  | [], h :: _ => some (false, h)
  | a :: p, b :: q => if a = b then childAt n p q else none
  | _ :: _, [] => none
/-- Inserts a member node in ascending order. -/
def insNode (n : W16) : List W16 → List W16
  | [] => [n]
  | a :: t => if n.toNat < a.toNat then n :: a :: t else a :: insNode n t
/-- Children of a node of a window's tree, in the order of the lowest member beneath each (17 R294). -/
def RedWin.children (w : RedWin) (node : List Nat) : List (Bool × Nat) :=
  ((w.members.foldr insNode []).filterMap fun n => childAt n node (w.path n)).eraseDups
/-- What stands at a node of one window. -/
def atNode (s : State) (h : TreeHeld) : List TreeHeld := s.tree.filter fun x => x.window == h.window && !x.summed && x.node == h.node
/-- Of one cell and index. -/
def sameCell (x h : TreeHeld) : Bool := x.off == h.off && x.index == h.index
/-- The node has no slot left for a new pair of cell and index; a slot is free again when its sum has gone on (17 R294). -/
def nodeFull (s : State) (h : TreeHeld) : Bool :=
  let l := ((atNode s h).map fun x => (x.off, x.index)).eraseDups
  !l.contains (h.off, h.index) && decide (Config.treeSlots + 1 ≤ l.length)
/-- A message between the hops of this package is refused: it is sent again later. -/
def hopRefused (s : State) (m : Msg) (wait : Nat → Nat) : State :=
  if s.resend.any fun r => r.sent && r.msg == m then
    { s with resend := s.resend.map fun r => if r.sent && r.msg == m then { r with refusals := r.refusals + 1, due := s.hopClk + wait (r.refusals + 1), sent := false } else r }
  else { s with resend := s.resend ++ [{ msg := m, refusals := 1, due := s.hopClk + wait 1 }] }
/-- It has been taken. -/
def hopTaken (s : State) (m : Msg) : State := { s with resend := s.resend.filter fun r => !(r.sent && r.msg == m) }
/-- Cycles before the next sending after `n` refusals. -/
def backoff (n : Nat) : Nat := 64 * 2 ^ min n 5
/-- A merged contribution, as the tree's root sends it to the home (log 43). -/
def mergedMsg (s : State) (m : Msg) (o : Nat) (i v : W32) : Msg :=
  (mkMsg s s.node mRED 2 false 0 m.grp 0 0 0x8000 (leBytes 8 o ++ leBytes 4 i.toNat ++ leBytes 4 v.toNat)).ofDie (msgDie m)
/-- The sum of a node as it asks the next node for room again (log 43). -/
def climbMsg (s : State) (m : Msg) (h : TreeHeld) : Msg :=
  (mkMsg s s.node mRED 2 false 0 m.grp 0 0 0x8001 (leBytes 8 h.off ++ leBytes 8 h.id)).ofDie (msgDie m)
/-- The sum of a node as a contribution to the next one. -/
def TreeHeld.up (h : TreeHeld) : TreeHeld := { h with node := h.node.dropLast, child := (false, h.node.getLastD 0), whole := false }
/-- A contribution or a sum is taken at a node that has room. With the last child, the node sums in child order, and sends the sum
on: from the root to the home, from another node to the next, which may refuse it. -/
def nodeTake (w : RedWin) (m : Msg) : Nat → State → TreeHeld → State
  | 0, s, _ => s
  | n + 1, s, h =>
    let l := (atNode s h).filter (sameCell · h) ++ [h]
    let kids := (w.children h.node).map fun c => l.find? fun x => x.child == c
    if kids.any Option.isNone then { s with tree := s.tree ++ [h] }
    else
      let ks := kids.filterMap id
      let sum := { h with value := childSum (ks.map TreeHeld.value), msgs := ks.flatMap TreeHeld.msgs, whole := true }
      let t : State := { s with tree := s.tree.filter fun x => !l.contains x }
      if h.node.isEmpty then ({ t with tree := t.tree ++ [{ sum with summed := true }] }).send (mergedMsg s m h.off h.index sum.value)
      else if nodeFull t sum.up then hopRefused { t with tree := t.tree ++ [sum] } (climbMsg s m sum) backoff
      else nodeTake w m n t sum.up
/-- A sum that a node had refused comes again. -/
def climbAgain (s : State) (m : Msg) : State :=
  match s.tree.find? fun h => h.whole && !h.summed && h.id == m.at' 8 8 with
  | none => hopTaken s m
  | some h =>
    match s.windows.find? fun w => w.index == h.window with
    | none => hopTaken s m
    | some w =>
      if nodeFull s h.up then hopRefused s m backoff
      else nodeTake w m (h.node.length + 1) (hopTaken { s with tree := s.tree.erase h } m) h.up
/-- The tree of a window takes a member's contribution at its switch. -/
def execReductionTreeNode (s : State) : Result :=
  arrive (fun s m =>
    let o := m.at' 0 8
    let i : W32 := BitVec.ofNat 32 (m.at' 8 4)
    if m.src == s.node && m.arg == 0x8001 then climbAgain s m
    else match windowAt s m.grp o with
    | none => s.reply m mANSWER stREMOTE []
    | some w =>
      let h : TreeHeld := { window := w.index, off := o, index := i, value := BitVec.ofNat 32 (m.at' 12 4), node := w.path m.src, child := (true, m.src.toNat), msgs := [m] }
      if !w.members.contains m.src || s.tree.any fun x => x.window == w.index && sameCell x h && x.msgs.any fun y => y.src == m.src then
        { s with windows := s.windows.map fun v => if v.index = w.index then { v with drops := v.drops + 1 } else v }
      else if nodeFull s h then s.refuse m
      else
        let (id, s) := s.fresh
        nodeTake w m (h.node.length + 1) s { h with id := id }) s
/-- Every member of a round is told that its contribution is held at the home. -/
def roundHeld (s : State) (m : Msg) : State := ((roundOf s m).flatMap TreeHeld.msgs).foldl (fun (s : State) x => s.reply x mANSWER stHELD []) s
/-- A contribution at its home: applied, held, refused for now or dropped as stale (11 R205). -/
def execRed (s : State) : Result :=
  arrive (fun s m =>
    let merged : Bool := m.arg == 0x8000
    let fin := fun (s : State) (st : Nat) => if merged then roundOver (hopTaken s m) m st else s.reply m mANSWER st []
    match windowAt s m.grp (m.at' 0 8) with
    | none => fin s stREMOTE
    | some w =>
      match locate s { k := w.ctx, gen := (s.ctx w.ctx).gen } 0 (w.base + m.at' 0 8) false true with
      | (.error _, s) => fin s stREMOTE
      | (.ok x, s) =>
        if s.poisoned x.key 8 then (if merged then roundOver (hopTaken s m) m stOK [0] else s.reply m mANSWER stOK [] [0])
        else match redApply s w.ctx x.key (BitVec.ofNat 32 (m.at' 8 4)) (BitVec.ofNat 32 (m.at' 12 4)) 0 (some m) with
        | (s, .held) => if merged then roundHeld (hopTaken s m) m else s.reply m mANSWER stHELD []
        | (s, .nack) =>
          if merged then hopRefused s m (fun _ => 256) else s.reply m mANSWER 1 []
        | (s, _) => fin s stOK) s

/-! ### Invokes and launches (16 R274, 18 R298) -/

/-- The record of an invoke's task (16 R276). -/
def invokeTask (m : Msg) (n : Nat) : Task :=
  { bytes := recHeader (m.len.toNat / 16 + 1) 0 (msgCls m) false 0 n ++ m.pay
    ack := if m.arg.getLsbD 15 then some { node := m.src, tag := m.tag, grp := m.grp, gen := m.gen, cls := msgCls m, die := msgDie m } else none }
/-- Every invoke is answered once; with the request for acknowledgement, OK comes when the task retires. -/
def execInvoke (s : State) : Result :=
  arriveCtl (fun s m =>
    let n := m.arg.toNat % 256
    let p := msgCls m
    if s.part.dies ≤ msgDie m then s.reply m mANSWER stUNREACH []
    else match ctxOfGrp s (msgDie m) m.grp with
      | none => s.reply m mANSWER stHANDLER []
      | some k =>
        let c := s.ctx k
        if !(c.handler n).valid then s.reply m mANSWER stHANDLER []
        else if c.iqd ≤ (c.invokes.filter fun v => v.cls == p).length ∨ (c.handler n).quota ≤ (c.outstanding.get n).toNat then
          (s.count k 0x30 1).reply m mANSWER stOVF []
        else
          let (i, s) := s.fresh
          let s : State := s.updCtx k fun c =>
            { c with invokes := c.invokes ++ [{ order := i, hnd := n, cls := p, task := invokeTask m n }]
                     outstanding := c.outstanding.set n (c.outstanding.get n + 1) }
          let s : State := s.kick k 1
          if m.arg.getLsbD 15 then s else s.reply m mANSWER stOK []) s

/-- `res0` bits of a LAUNCH that are not 0. -/
def launchRes (m : Msg) : Bool :=
  m.arg.toNat / 64 != 0 || bitsOf (m.at' 0xA 1) 4 3 != 0 || bitsOf (m.at' 0xB 1) 4 3 != 0 || m.at' 0xE 2 != 0 || m.at' 0x18 8 != 0 ||
    (m.at' 9 1 == 1 && m.at' 0xC 2 != 0)
/-- A counter that a WAIT or SIG byte enables. -/
def counterOf (b : Nat) : Option Nat := if bitsOf b 7 1 = 1 then some (b % 16) else none
def execLaunchMessage (s : State) : Result :=
  arriveCtl (fun s m =>
    let k := msgDie m * 64 + m.at' 8 1 % 64
    let c := s.ctx k
    let q := m.arg.toNat % 64
    let form := m.at' 9 1
    let pkt := (m.pay.drop 0x20 ++ List.replicate 32 0).take 32
    let bad := fun (s : State) => s.reply m mANSWER stBAD []
    if s.part.dies ≤ msgDie m ∨ 64 ≤ m.at' 8 1 then bad s
    else if olderGen s k m.gen then s.genDrop k
    else if !c.valid ∨ c.killing ≠ 0 ∨ launchRes m ∨ 1 < form ∨ (form = 0 ∧ c.launchTable.length ≤ m.at' 0xC 2) ∨ !(c.queue q).2.1 ∨ m.len.toNat ≠ (if form = 0 then 32 else 64) then bad s
    else match if form = 1 then packetBad pkt else none with
      | some o => bad (s.complete k (BitVec.ofNat 64 (m.at' 0 8)) 4 o 0 0)
      | none =>
        if (c.queue q).2.2.2 ≤ (c.lq.filter fun p => p.1 == q).length then s.reply m mANSWER stOVF []
        else
          let e : LqEntry := {
            htag := BitVec.ofNat 64 (m.at' 0 8), lrec := if form = 1 then packetRec pkt else c.launchTable.getD (m.at' 0xC 2) {}
            wait := counterOf (m.at' 0xA 1), wval := BitVec.ofNat 64 (m.at' 0x10 8), sig := counterOf (m.at' 0xB 1), inline := form == 1 }
          ((s.updCtx k fun c => { c with lq := c.lq ++ [(q, e)] }).kick k 0).reply m mANSWER stOK []) s

/-! ### Invalidation and page responses (09 R171, 10 R186, 17 R376) -/

def execInval (s : State) : Result :=
  arriveCtl (fun s m =>
    let k := msgDie m * 64 + m.arg.toNat % 64
    let va := m.at' 0 8
    let n := m.at' 8 8
    if olderGen s k m.gen then s.genDrop k
    else if m.arg.toNat / 64 ≠ 0 ∨ 2 ^ 57 ≤ va ∨ n = 0 ∨ 2 ^ 57 < va + n then s.post k m.src mINVALDONE m.tag 1 [] (some m.gen)
    else
      let hit := fun (e : TlbEntry) => e.die == msgDie m && e.ctx == k % 64 && decide (e.base < va + n) && decide (va < e.base + e.size)
      ({ s with tlb := s.tlb.filter fun e => !hit e }).post k m.src mINVALDONE m.tag 0 [] (some m.gen)) s

/-- The command that is parked under a record of a context. -/
def parkedUnder (s : State) (k : Nat) (seq : W32) : Option Command := s.cmds.find? fun c => c.ctx == k && c.status == 2 && c.seq == seq
/-- A valid response has the command retried, in the order of the responses; a swapped-out block may come back. -/
def execPageResp (s : State) : Result :=
  arriveCtl (fun s m =>
    let k := msgDie m * 64 + m.arg.toNat % 64
    if m.gen ≠ (s.ctx k).gen then s.genDrop k
    else match parkedUnder s k (BitVec.ofNat 32 (m.at' 0 4)) with
      | none => s.updCtx k fun c => { c with staleResp := c.staleResp + 1 }
      | some c =>
        let (i, s) := s.fresh
        let s : State := s.updCmd c.id fun c => chargeStage s { c with status := 4, due := i } 1
        { s with saved := s.saved.map fun v => if v.block == c.block then { v with ready := true } else v }) s

/-! ### Pod barriers (11 R207) -/

/-- Both barriers of a join. -/
def joinBars (s : State) (j : PodJoin) : List Nat := (s.bars.filter fun b => b.level == .pod && b.owner == j.key).map Bar.id
def execBarrier (s : State) : Result :=
  arrive (fun s m =>
    match s.joins.find? fun j => j.grp == m.grp && j.j.toNat == m.at' 2 2 with
    | none => s
    | some j =>
      let n := m.at' 4 4
      let one := (s.bars.find? fun b => b.level == .pod && b.owner == j.key && b.num == m.at' 1 1).map Bar.id
      match m.at' 0 1, one with
      | 0, _ =>
        let s : State := { s with joins := s.joins.map fun y => if y.key == j.key then { y with registered := y.registered ++ [n] } else y }
        (joinBars s j).foldl (fun (s : State) i => barCheck (s.updBar i fun b => { b with expected := b.expected + n }) i) s
      | 1, some i => barCheck (s.updBar i fun b => { b with arrivals := b.arrivals + n }) i
      | 2, some i => barCheck (s.updBar i fun b => { b with expected := b.expected - 1, arrivals := if b.phase = m.at' 8 8 then b.arrivals - n else b.arrivals }) i
      | 3, some i => barComplete s i
      | 4, some i => barCheck (s.updBar i fun b => { b with expected := b.expected - n }) i
      | _, _ => s) s

/-! ### Refusals and links (17 R291, 21 R339, R341) -/

/-- A NACK of a message is counted in the contexts of its pod group on the die that had sent it, and marks its command (22 R361, R363). -/
def nacked (s : State) (m : Msg) : State :=
  let s : State := ((s.ctxs.filter fun c => c.valid && c.grp == m.grp && c.die == m.die).map Ctx.id).foldl (fun (s : State) k => s.count k 0x13 1) s
  match s.awaits.find? fun a => a.tag == m.tag && a.node == m.dst && a.kind == 2 with
  | some a => s.updCmd a.cmd fun c => { c with flags := c.flags ||| 2 }
  | none => s
/-- The refused message stays with this hop, which sends it again later. -/
def execNack (s : State) : Result :=
  let m := s.msg
  if !wellSent m then .next { s with drops := s.drops + 1 }
  else
    let mine := fun (x : Msg) => x.dst == m.src && x.tag == m.tag && x.type != mNACK
    match s.awaits.find? fun a => a.tag == m.tag && a.node == m.src && (s.ctx a.ctx).killing != 0 with
    | some a => .next { s with awaits := s.awaits.erase a, resend := s.resend.filter (fun r => !mine r.msg), outbox := s.outbox.filter fun x => !mine x }
    | none =>
    match s.resend.find? fun r => r.sent && mine r.msg, s.outbox.find? mine with
    | some r, _ =>
      let s : State := nacked s r.msg
      .next { s with
        resend := s.resend.map fun q => if q = r then { q with refusals := q.refusals + 1, due := s.hopClk + backoff (q.refusals + 1), sent := false } else q
        outbox := s.outbox.erase r.msg }
    | none, some x =>
      let s : State := nacked s x
      .next { s with resend := s.resend ++ [{ msg := x, refusals := 1, due := s.hopClk + backoff 1 }], outbox := s.outbox.erase x }
    | none, none => .next s
/-- Whether a message that waits is due: a marker that has not gone out yet waits for the messages before it on its way, and a
message behind a marker for the marker (22 R359). -/
def resendDue (s : State) (n : Nat) : Bool :=
  match s.resend[n]? with
  | some r => !r.sent && decide (r.due ≤ s.hopClk) &&
      (r.refusals != 0 || !((s.resend.take n).any fun q => !q.sent && sameWay q.msg r.msg && (r.msg.type == mMARKER || q.msg.type == mMARKER)))
  | none => false
def execYardResend (n : Nat) (s : State) : Result :=
  match s.resend[n]? with
  | some r =>
    -- It went out before any cut that its die has recorded since: that cut's markers wait for it (22 R359).
    if resendDue s n then .next ({ s with resend := s.resend.set n { r with sent := true } }.emit r.msg) else .next s
  | none => .next s

/-- Ports of the part, and after them the links over its die-to-die boundaries (00 R1). -/
def portCount (p : Part) : Nat := p.ports + p.boundaries
/-- A flit is sent again from the replay buffer: a corrected error; after 8 failures the link or port retrains (21 R339). -/
def execFlitCrcFail (port : Nat) (s : State) : Result :=
  if portCount s.part ≤ port ∨ (s.port port).fenced ∨ underTest s (.port port) then .next s
  else
    let t : State := corrected s (.port port)
    if 8 ≤ (s.port port).fails + 1 then .next (beginTest (t.updPort port fun p => { p with fails := 0 }) (.port port))
    else .next (t.updPort port fun p => { p with fails := p.fails + 1 })

/-! ### Behind a marker (22 R359) -/

/-- The die that sent a message; a marker names it. -/
def srcDie (m : Msg) : Nat := if m.type == mMARKER then m.at' 4 1 else m.die
/-- Two messages that came from one die for one die, of one pod group. -/
def sameFrom (a b : Msg) : Bool := a.grp == b.grp && a.src == b.src && srcDie a == srcDie b && msgDie a == msgDie b
/-- A marker of the message's way waits here; the message itself has not been refused before the marker came. -/
def behindMarker (s : State) (m : Msg) : Bool :=
  m.type != mMGMT && m.type != mNACK && (s.behind.any fun x => sameFrom x m) &&
    !(s.refused.any fun r => r.src == m.src && r.tag == m.tag && r.type == m.type)
/-- The marker waits for messages of its way that this die has refused. -/
def markerWaits (s : State) (m : Msg) : Bool := s.refused.any fun r => sameFrom r m && r.type != mMARKER
/-- The first of those that wait behind markers which can go on. -/
def nextBehind (s : State) : Option Msg :=
  (s.behind.zipIdx.find? fun p => !((s.behind.take p.2).any fun x => sameFrom x p.1) && (p.1.type != mMARKER || !markerWaits s p.1)).map (·.1)

/-- A message that a cut held back, or that a replay brings, reaches its target (22 R358, R360). -/
def deliverMsg (s : State) (m : Msg) : State :=
  let s : State := { s with msg := m }
  let t := m.type
  stateOf s (
    if t == mWRITE then execWrite s else if t == mREAD then execRead s else if t == mDATA then execData s
    else if t == mFATM then execFatm s else if t == mRED then (if m.arg == 0x8000 then execRed s else execReductionTreeNode s)
    else if t == mINVOKE then execInvoke s else if t == mANSWER then execAnswer s else if t == mLAUNCH then execLaunchMessage s
    else if t == mINVAL then execInval s else if t == mPAGERESP then execPageResp s else if t == mBARRIER then execBarrier s
    else .next s)

end Sys2Proof.Machine
end

