-- ==== Sys2Proof/Machine/Finalise.lean ====
section
/-! DEFINITION. The finaliser: kernels, runs and leaders of a code section, and the scheduling bytes that it writes
(03 R57, R58, 20 R321-R324). -/
namespace Sys2Proof.Machine

/-- Words of class BR (03 R68). -/
def brClass : Instr → Bool
  | .br _ _ _ _ => true
  | .brS _ _ _ _ => true
  | .brKz _ _ => true
  | .brKnz _ _ => true
  | .brKf _ _ => true
  | .call _ _ => true
  | .ret _ => true
  | .loop _ _ _ => true
  | .loopi _ _ _ => true
  | _ => false
/-- The word that a displacement in words reaches from word `n` of a section, if it lies in it. -/
def wordAt (n : Nat) (off : BitVec 26) : Option Nat :=
  let t := (n : Int) + off.toInt
  if 0 ≤ t then some t.toNat else none
/-- The leaders that a word of a section makes (20 R323). -/
def leadersOf (n : Nat) (i : Instr) : List Nat :=
  match i with
  | .br _ _ _ o => (wordAt n o).toList ++ [n + 1]
  | .brS _ _ _ o => (wordAt n o).toList ++ [n + 1]
  | .brKz _ o => (wordAt n o).toList ++ [n + 1]
  | .brKnz _ o => (wordAt n o).toList ++ [n + 1]
  | .brKf _ o => (wordAt n o).toList ++ [n + 1]
  | .call _ o => (wordAt n o).toList ++ [n + 1]
  | .ret _ => [n + 1]
  | .loop _ _ o => [n + 1] ++ (wordAt n o).toList.map (· + 1)
  | .loopi _ _ o => [n + 1] ++ (wordAt n o).toList.map (· + 1)
  | _ => []

/-- A word of a code section as the finaliser takes it: its instruction if it is legal in its kernel, whether it is a
header word, a leader, and of a kernel of generation 7. -/
structure FinWord where
  word : Nat := 0
  instr : Option Instr := none
  header : Bool := false
  leader : Bool := false
  deriving DecidableEq, Repr

/-- The entry at or below a word that is the highest. -/
def kernelOf (entries : List Nat) (n : Nat) : Option Nat :=
  (entries.filter fun e => decide (e ≤ n)).foldl (fun b e => match b with
    | none => some e
    | some m => some (max m e)) none
/-- What a word says in the kernel that it belongs to; one below every entry, which belongs to none, as under a header that
declares nothing (20 R322; log 103). -/
def wordIn (ws : List Nat) (entries : List Nat) (n : Nat) : Option Instr :=
    let h : W64 := match kernelOf entries n with
      | some e => BitVec.ofNat 64 (if e = 0 then 0 else ws.getD (e - 1) 0)
      | none => 0
    match decode { gen7 := hGen h == 7, bb := hBb h, cbar := hCbar h } (ws.getD n 0) with
    | .ok (.unassignedOpcode _) => none
    | .ok i => some i
    | .error _ => none
/-- The words of a section with their roles. -/
def finWords (ws : List Nat) (entries : List Nat) : List FinWord :=
  let heads := (entries.filter (· != 0)).map (· - 1)
  let is := (List.range ws.length).map fun n => if heads.contains n then none else wordIn ws entries n
  let leads := entries ++ (is.zipIdx).flatMap fun p => match p.1 with
    | some i => leadersOf p.2 i
    | none => []
  ((ws.zip is).zipIdx).map fun p =>
    { word := p.1.1, instr := p.1.2, header := heads.contains p.2, leader := leads.contains p.2 }

/-- Registers that the finaliser takes an instruction to read: every vector register from the base of a run on, whose
length is not in the word. -/
def finSrcs (i : Instr) : List Reg :=
  match i with
  | .xvRun _ b _ _ _ => srcRegs i ++ (List.range (256 - b.toNat)).map fun j => .v (b.toNat + j)
  | i => srcRegs i
/-- What is under way in a run: fixed-latency writes with the cycle of their availability, variable-latency results. -/
structure FinRun where
  t : Nat := 0
  fixed : List (Reg × Nat) := []
  var : List Reg := []
  deriving DecidableEq, Repr
/-- The run with the writes of an instruction that issues now. -/
def FinRun.write (r : FinRun) (i : Instr) : FinRun :=
  let ds := dstRegs i
  match latency i with
  | some l => { r with fixed := r.fixed ++ ds.map fun d => (d, r.t + l), var := r.var.filter fun v => !ds.contains v }
  | none => { r with var := r.var ++ ds }
/-- Cycles by which the writes that a predicate takes are available later than `n` cycles after this issue. -/
def FinRun.left (r : FinRun) (n : Nat) (p : Reg → Bool) : Nat :=
  ((r.fixed.filter fun w => p w.1).map fun w => w.2 - (r.t + n)).foldl max 0
/-- The finaliser writes the scheduling byte of a word: it is legal and not native yet (20 R322). -/
def FinWord.rewritten (b : FinWord) : Bool := b.instr.isSome && b.word % 4 != 1
/-- What the words behind a word ask of its STALL: each consumer up to the next word that is rewritten, which sees to those behind
it; `n` cycles lie between the two words without it (20 R323). -/
def finNeeds (r : FinRun) : Nat → List FinWord → Nat
  | _, [] => 0
  | n, b :: rest =>
    if b.leader || b.header then 0
    else
      let need := match b.instr with
        | some j => r.left n fun x => (finSrcs j).contains x
        | none => 0
      if b.rewritten then need else max need (finNeeds r (n + 1 + (if b.instr.isSome then bitsOf b.word 2 4 else 0)) rest)
/-- The run ends with this word (20 R323). -/
def runEnds (i : Instr) (rest : List FinWord) : Bool :=
  brClass i || match rest with
    | [] => true
    | b :: _ => b.leader || b.header
/-- STALL of a word before the words `rest` (20 R323). -/
def finStall (r : FinRun) (i : Instr) (rest : List FinWord) : Nat := min 15 (if runEnds i rest then r.left 1 fun _ => true else finNeeds r 1 rest)
/-- The word with a native scheduling byte (03 R58). -/
def nativeWord (w stall : Nat) (sb : Bool) : Nat := w / 256 * 256 + 128 * b2n sb + 64 * bitsOf w 6 1 + 4 * stall + 1

/-- Rewrites the words of a section in order: the new words, and how many were rewritten. -/
def finaliseWords : FinRun → List FinWord → List Nat × Nat
  | _, [] => ([], 0)
  | r, a :: rest =>
    let r : FinRun := if a.leader then {} else r
    match a.instr with
    | none =>
      let (ws, n) := finaliseWords { r with t := r.t + 1 } rest
      (a.word :: ws, n)
    | some i =>
      let srcs := finSrcs i
      let sb := (a.leader && !srcs.isEmpty) || srcs.any fun x => r.var.contains x
      let q := r.write i
      if a.word % 4 = 1 then
        let (ws, n) := finaliseWords { q with t := q.t + 1 + bitsOf a.word 2 4 } rest
        (a.word :: ws, n)
      else
        let st := finStall q i rest
        let (ws, n) := finaliseWords { q with t := q.t + 1 + st } rest
        (nativeWord a.word st sb :: ws, n + 1)

/-- A finalised section: its words, the words rewritten, those left unchanged and the kernels found (20 R321). -/
structure Finalised where
  words : List Nat := []
  rewritten : Nat := 0
  unchanged : Nat := 0
  kernels : Nat := 0
  deriving DecidableEq, Repr
/-- The finaliser on a section and the word numbers of its kernels' entries. -/
def finaliseSection (ws : List Nat) (entries : List Nat) : Finalised :=
  let es := (entries.filter fun e => decide (e < ws.length)).eraseDups
  let (out, n) := finaliseWords {} (finWords ws es)
  { words := out, rewritten := n, unchanged := ws.length - n, kernels := es.length }

end Sys2Proof.Machine
end

