-- ==== Sys2Proof/Machine/Mgmt.lean ====
section
/-! DEFINITION. Management commands of contexts, residency, loads, migration, virtual devices, windows and joins, and
the kill of a context (11 R207, 17 R294, 18 R296, R297, R301-R304, R311-R317, 20 R321, R333, 22 R352, 23 R371-R375). -/
namespace Sys2Proof.Machine

/-! ### Requests and answers (23 R372, R374) -/

/-- Answer statuses of management (23 R372). -/
def mgOK : Nat := 0
def mgREFUSED : Nat := 1
def mgDENIED : Nat := 2
def mgBUSY : Nat := 3
def mgUNKNOWN : Nat := 4
/-- The answer to a management command. -/
def State.mgmtAns (s : State) (m : Msg) (status : Nat) (payload : List Byte := []) : State :=
  s.emit ((mkMsg s m.src mANSWER (msgCls m) true 0 m.grp m.tag m.gen (BitVec.ofNat 16 status) payload).ofDie (msgDie m))
/-- The sender is a management node of the die. -/
def mgmtNode (s : State) (m : Msg) : Bool :=
  let w := (s.die (msgDie m)).mgmtNodes.toNat
  w == 2 ^ 64 - 1 || (List.range 4).any fun i => bitsOf w (16 * i) 16 == m.src.toNat && m.src != 0xFFFF
/-- A command of the die, a kill, a stop, a step, a pre-emption or a cut, still has its effect ahead. -/
def mgmtBusy (s : State) (d : Nat) : Bool :=
  (s.mgmt.any fun p => msgDie p.1 == d) || (s.replays.any fun r => r.waiting.any fun w => msgDie w.2.2 == d) || (s.asked.any fun p => msgDie p.1 == d) || (s.cuts.any fun c => !c.told && c.asked.any fun m => msgDie m == d) ||
    s.blocks.any fun b => b.die == d && (b.stop.bind StopReq.msg).isSome
/-- What every management command goes through; `open'` for those that any node may send, `always` for those that a die
in recovery answers. A command waits while an earlier one of its die is in progress. -/
def mgmt (open' always : Bool) (f : State → Msg → State) (s : State) : Result :=
  let m := s.msg
  let d := s.die (msgDie m)
  if !wellSent m then .next { s with drops := s.drops + 1 }
  else if s.part.dies ≤ msgDie m then .next (s.mgmtAns m mgREFUSED)
  else if !controllerUp s (msgDie m) then .next (s.refuse m)
  else if d.recov && !always then .next s
  else if mgmtBusy s (msgDie m) then .next (s.queueMgmt m)
  else if !open' && !mgmtNode s m then .next (s.mgmtAns m mgDENIED)
  else .next (f s m)
/-- The payload holds at least `n` bytes, nothing beyond them, and 0 in the bytes listed; a nonzero `res0` byte is REFUSED, the
model's choice (log 99). -/
def payOk (m : Msg) (n : Nat) (res : List (Nat × Nat)) : Bool :=
  decide (n ≤ m.len.toNat) && (m.pay.drop n).all (· == 0) && res.all fun r => m.at' r.1 r.2 == 0
/-- The key of the context that a command names, where it is one of the die. -/
def ctxArg (m : Msg) (off : Nat) : Option Nat := if m.at' off 1 < 64 then some (msgDie m * 64 + m.at' off 1) else none
/-- A valid context that no kill is ending, or the status that refuses it. -/
def liveCtx (s : State) (m : Msg) (off : Nat) : Except Nat Nat :=
  match ctxArg m off with
  | none => .error mgREFUSED
  | some k => if !(s.ctx k).valid then .error mgREFUSED else if (s.ctx k).killing ≠ 0 then .error mgBUSY else .ok k

/-! ### Registers and attestation (23 R370, R371, R375) -/

/-- Mask of the dies that a predicate takes. -/
def dieMask (s : State) (p : Nat → Bool) : Nat := (List.range s.part.dies).foldl (fun n d => n + 2 ^ d * b2n (p d)) 0
/-- The STATUS register. -/
def statusReg (s : State) (d : Nat) : Nat :=
  let x := s.die d
  b2n s.bootReady + 2 * b2n x.recov + 4 * b2n x.slotB + 8 * b2n x.derated + 16 * b2n (!x.finaliserOk) +
    2 ^ 8 * dieMask s (fun _ => true) + 2 ^ 12 * s.fenced.toNat
def execStatus (s : State) : Result := mgmt true true (fun s m => s.mgmtAns m mgOK (leBytes 8 (statusReg s (msgDie m)))) s

/-- The measurement of a die's firmware; 0 where none has been made, which a die in recovery is taken to report (log 117). -/
def measured (s : State) (d : Nat) : List Byte :=
  let x := s.die d
  if s.part.dies ≤ d ∨ x.recov then List.replicate 32 0
  else (Config.sha3 (if x.slotB then s.flash.slotB else s.flash.slotA) ++ List.replicate 32 0).take 32
/-- The bytes of the report that its signature covers (23 R371). -/
def reportBody (s : State) (nonce : List Byte) : List Byte :=
  leBytes 2 1 ++ leBytes 2 s.node.toNat ++
    [BitVec.ofNat 8 (dieMask s fun _ => true),
     BitVec.ofNat 8 ((List.range s.part.dies).foldl (fun n d => n + 4 ^ d * (if (s.die d).recov then 2 else b2n (s.die d).slotB)) 0)] ++
    List.replicate 26 0 ++ (nonce ++ List.replicate 32 0).take 32 ++ (List.range 4).flatMap (measured s) ++
    (Config.dieKey 0 (measured s 0) ++ List.replicate 1312 0).take 1312
def report (s : State) (nonce : List Byte) : List Byte :=
  let b := reportBody s nonce
  b ++ (Config.dieSign 0 (measured s 0) b ++ List.replicate 2420 0).take 2420
/-- Die 0 answers with the report in 16 fragments. -/
def execAttest (s : State) : Result :=
  mgmt true true (fun s m =>
    if msgDie m ≠ 0 ∨ !payOk m 32 [] then s.mgmtAns m mgREFUSED
    else
      let r := report s (m.pay.take 32)
      (List.range 16).foldl (fun (s : State) i => s.mgmtAns m (i + if i = 15 then 0x8000 else 0) ((r.drop (256 * i)).take 256)) s) s

/-- ERRCNT: the entries of the error log. -/
def Die.errcnt (d : Die) : W64 := BitVec.ofNat 64 d.errlog.length
/-- A management register; none where the number is not listed. The sensors' readings are free values (log 44). -/
def mgmtReg (s : State) (d n : Nat) : Option (Nat × State) :=
  match n with
  | 0 => some (s.part.code + 2 ^ 16 * d, s)
  | 1 => some (statusReg s d, s)
  | 2 => some ((s.die d).mgmtNodes.toNat, s)
  | 3 => some (s.flash.node.toNat, s)
  | 4 => some ((Config.sensor 4 d s.free).toNat, { s with free := s.free + 1 })
  | 5 => some ((Config.sensor 5 d s.free).toNat, { s with free := s.free + 1 })
  | 6 => some ((s.die d).errcnt.toNat, s)
  | _ => none
def execRegrd (s : State) : Result :=
  mgmt false false (fun s m =>
    match if payOk m 8 [(2, 6)] then mgmtReg s (msgDie m) (m.at' 0 2) else none with
    | some (v, s) => s.mgmtAns m mgOK (leBytes 8 v)
    | none => s.mgmtAns m mgREFUSED) s
/-- REGWR (23 R374, R375); NODE with a value of more than 16 bits is REFUSED, the model's choice (log 99). -/
def execRegwr (s : State) : Result :=
  mgmt false false (fun s m =>
    let v := m.at' 8 8
    if !payOk m 16 [(2, 6)] then s.mgmtAns m mgREFUSED
    else match m.at' 0 2 with
      | 2 => (s.updDie (msgDie m) fun d => { d with mgmtNodes := BitVec.ofNat 64 v }).mgmtAns m mgOK
      | 3 => if v < 2 ^ 16 then ({ s with flash := { s.flash with node := BitVec.ofNat 16 v } }).mgmtAns m mgOK else s.mgmtAns m mgREFUSED
      | _ => s.mgmtAns m mgREFUSED) s

/-! ### The end of a session's part (22 R352) -/

/-- Drops the oldest unread record: the session's head past it, and whether it was one. -/
def dropOldest (s : State) (x : Session) : Session × Nat :=
  let o := x.ringBase + 16 * (x.head.toNat % 2 ^ x.ringK)
  let pad : Bool := s.rd o 1 == [8]
  ({ x with head := x.head + BitVec.ofNat 32 (max 1 (leNat (s.rd (o + 1) 1))) }, if pad then 0 else 1)
/-- Drops unread records until a record of three units fits. -/
def makeRoom (s : State) : Nat → Session → Nat → Session × Nat
  | 0, x, n => (x, n)
  | f + 1, x, n =>
    if x.need 3 ≤ x.room then (x, n)
    else
      let (y, k) := dropOldest s x
      makeRoom s f y (n + k)
/-- The part ends: a RESET record with its cause stands last. -/
def sessionEnd (s : State) (i cause : Nat) : State :=
  let lost := (s.session i).dropped
  let s : State := if lost ≠ 0 && decide ((s.session i).need 3 ≤ (s.session i).room) then ringRecord s i 7 {} (leBytes 4 lost ++ List.replicate 12 0) else s
  let (x, n) := makeRoom s 16 (s.session i) 0
  let s : State := s.updSession i fun _ => x
  let s : State := ringRecord s i 6 {} (leBytes 8 cause ++ leBytes 4 n ++ leBytes 4 0)
  { s with sessions := s.sessions.filter fun y => y.key != i }

/-! ### Killing a context (17 R274, 18 R316) -/

/-- The descriptors of a context, on every die that holds one. -/
def ctxKeys (s : State) (k : Nat) : List Nat :=
  k :: (s.ctxs.filter fun d => d.id != k && d.valid && d.grp == (s.ctx k).grp && d.killing == 0).map Ctx.id
/-- Key of the context of a block. -/
def Block.ck (b : Block) : Nat := b.die * 64 + b.ctx
/-- Key of the context of a unit. -/
def PUnit.ck (u : PUnit) : Nat := u.id / 64 / 192 * 64 + u.id % 64
/-- Key of the context of a stall. -/
def Stall.ck (y : Stall) : Nat := y.id / 768 * 64 + y.ctx
/-- Answers FAULT to the invokes of a context whose tasks have not retired, those that are about to among them, before its ports stop. -/
def killAnswers (s : State) (k : Nat) : State :=
  let waves := (s.blocks.filter fun b => b.ck == k).flatMap fun b => (b.wave.filter fun t => !t.done && !t.answered).map LaneTask.task
  let stalled := (s.stalls.filter fun y => y.state != 0 && y.ck == k).flatMap Stall.tasks
  let queued := (s.ctx k).invokes.map Invoke.task ++ (s.ctx k).away.flatMap Stall.tasks
  let leaving := (s.retiring.filter fun r => r.ctx == k && r.ackOk).map Retiring.task
  (waves ++ stalled ++ queued ++ leaving).foldl (fun (s : State) t => match t.ack with
    | some a => s.ackTask a 3
    | none => s) s
/-- Slices of a context's joined grids that their registration counts and that have no place: of blocks not placed yet, and
of crews to be relaunched. -/
def unplacedMembers (s : State) (k : Nat) (b : Bar) : Nat :=
  ((s.grids.filter fun g => g.registered && !g.finished && g.die * 64 + g.ctx == k && g.lrec.pj + 65536 * (s.ctx k).grp.toNat == b.owner).map fun g =>
    (g.total - g.placed + (g.relaunch.map fun p => p.2.1).foldl (· + ·) 0) * g.lrec.gangs * hGang g.header).foldl (· + ·) 0
/-- They leave the barrier. -/
def lowerUnplaced (s : State) (k : Nat) (b : Bar) : State :=
  let n := unplacedMembers s k b
  if n = 0 then s
  else match s.joins.find? fun j => j.key == b.owner with
    | some j =>
      if j.home == s.node then barCheck (s.updBar b.id fun y => { y with expected := y.expected - n }) b.id
      else s.send (barrierMsg s k j.home j.grp (barrierPayload 4 b.num j.j.toNat n))
    | none => s
/-- The slices of a context that have not retired leave the pod barriers (11 R207). -/
def killPods (s : State) (k : Nat) : State :=
  (s.bars.filter fun b => b.level == .pod).foldl (fun (s : State) b =>
    let mine := s.slices.filter fun x => x.ck == k && !x.handler && x.run != .retired && (barBlocks s b).any fun y => y.id == x.block
    lowerUnplaced (mine.foldl (fun (s : State) x => barLower s b.id x.id) s) k b) s
/-- Everything that a context has waiting is dropped; what is under way at a port stays until it is answered. -/
def dropWork (s : State) (k : Nat) : State :=
  let unsent := fun (r : Resend) => !r.sent && s.awaits.any fun a => a.ctx == k && a.tag == r.msg.tag && a.node == r.msg.dst
  let held := fun (m : Msg) => (s.awaits.find? fun a => a.ctx == k && a.tag == m.tag && a.node == m.dst).isSome
  let off := (s.resend.filter unsent).map Resend.msg ++ (s.cuts.flatMap Cut.out).filter held
  { s with
    cmds := s.cmds.filter fun c => c.ctx != k
    red := s.red.filter fun r => !(s.cmds.any fun c => c.id == r.cmd && c.ctx == k)
    stalls := s.stalls.map fun y => if y.ck == k then { id := y.id } else y
    retiring := s.retiring.filter fun r => r.ctx != k
    pushbuf := s.pushbuf.filter fun r => r.ctx != k
    saved := s.saved.filter fun v => (s.block v.block).ck != k
    windows := s.windows.filter fun w => w.ctx != k
    awaits := s.awaits.filter fun a => !(off.any fun m => m.tag == a.tag && m.dst == a.node)
    resend := s.resend.filter fun r => !unsent r
    cuts := s.cuts.map fun c =>
      let mine : Bool := c.die == k / 64 && c.grp == (s.ctx k).grp
      { c with out := c.out.filter (fun m => !held m), held := if mine then [] else c.held, channel := if mine then [] else c.channel }
    blocks := s.blocks.map fun b => if b.ck == k && b.run != .ended then { unask b with run := .stopped, stepping := false } else b
    pdks := s.pdks.map fun p => if p.id / 192 == k / 64 then { p with waiters := p.waiters.filter fun w => w.ctx != k % 64 } else p
    units := s.units.map fun u =>
      if u.ck == k then { u with mq := [], traps := [], late := [], service := none, proxy := none, holder := none, takers := [] } else u }
/-- Contributions held at the trees of a context's windows are answered; their windows are gone. -/
def dropTrees (s : State) (k : Nat) : State :=
  let mine := fun (h : TreeHeld) => s.windows.any fun w => w.index == h.window && w.ctx == k
  ((s.tree.filter mine).flatMap TreeHeld.msgs).foldl (fun (s : State) x => s.reply x mANSWER stREMOTE []) { s with tree := s.tree.filter fun h => !mine h }
/-- Steps 1 to 3 on one die: the context stops, its generation rises and what it has waiting is dropped. -/
def beginKill (s : State) (k : Nat) : State :=
  if (s.ctx k).killing ≠ 0 then s
  else
    let s : State := dropWork (dropTrees (killPods (killAnswers s k) k) k) k
    let s : State := ((sessionsOf s k).map Session.key).foldl (fun (s : State) i => sessionEnd s i 2) s
    s.updCtx k fun c => { c.setFld 4 2 (c.gen.toNat + 1) with killing := 1, lq := [], invokes := [], away := [], outstanding := [] }
/-- A kill begins on every die of a context. -/
def killContext (s : State) (k : Nat) : State := (ctxKeys s k).foldl beginKill s
/-- Step 5 on one die: every reservation of the context is free, and the index is as new but for its generation. -/
def freeCtx (s : State) (k : Nat) : State :=
  let mine := fun (b : Block) => b.ck == k
  let gone := fun (b : Nat) => s.blocks.any fun x => x.id == b && mine x
  let grids := (s.grids.filter fun g => g.die * 64 + g.ctx == k).map Grid.id
  { s with
    slices := s.slices.filter fun x => x.ck != k
    bars := s.bars.filter fun b => !((b.level == .core && gone b.owner) || (b.level == .quad && s.blocks.any fun x => x.crewBase == b.owner && mine x) ||
      ((b.level == .die || b.level == .pkg) && grids.contains b.owner))
    bbs := s.bbs.filter fun b => !gone b.block
    blocks := s.blocks.filter fun b => !mine b
    grids := s.grids.filter fun g => !grids.contains g.id
    units := s.units.filter fun u => u.ck != k
    pdks := s.pdks.map fun p =>
      if p.id / 192 == k / 64 && (slotOf p (k % 64)).isSome then
        let n : Bool := slotCtx p p.issuing == some (k % 64)
        { p with slot0 := p.slot0.filter (fun c => c != k % 64), slot1 := p.slot1.filter fun c => c != k % 64
                 shares := p.shares.filter fun c => c.1 != k % 64
                 since := if n then s.clk (k / 64) else p.since, quiet := if n then 0 else p.quiet }
      else p
    dies := s.dies.map fun x => if x.id == k / 64 then { x with credit := x.credit.filter fun p => p.1 / 260 != k % 64 } else x
    ctxs := s.ctxs.map fun c => if c.id == k then { (Ctx.fresh k).setFld 4 2 c.gen.toNat with last := c.vdev } else c }
/-- Nothing that the context sent is still unanswered. -/
def quiescent (s : State) (keys : List Nat) : Bool := s.awaits.all fun a => !keys.contains a.ctx

/-! ### CTXWR (18 R296, R297) -/

/-- Parts of a context and their lengths. -/
def partLen (p : Nat) : Option Nat := [256, 512, 8192, 128][p]?
/-- Bytes of the descriptor that only the device writes: GEN, FQT and SC. -/
def deviceByte (o : Nat) : Bool := o == 4 || o == 5 || o == 0x3C || o == 0x3D || (0x68 ≤ o && o < 0x70)
/-- Writes of a part, byte by byte. -/
def writePart (c : Ctx) (part o : Nat) (bs : List Byte) : Ctx :=
  let at' := bs.zipIdx.map fun p => (o + p.2, p.1)
  match part with
  | 0 => { c with desc := at'.foldl (fun (d : Cells 8) p => if deviceByte p.1 then d else d.set p.1 p.2) c.desc }
  | 1 => { c with lqt := c.lqt.setList o bs }
  | 2 => { c with ht := c.ht.setList o bs }
  | _ =>
    let all' := (List.range 16).flatMap fun i => leBytes 8 (c.counters.get i).toNat
    let new := all'.take o ++ bs ++ all'.drop (o + bs.length)
    { c with counters := Cells.setList [] 0 ((List.range 16).map fun i => BitVec.ofNat 64 (leAt new (8 * i) 8)) }
/-- The `res0` bits of the descriptor are 0. -/
def descRes (c : Ctx) : Bool := decide (c.fld 0 4 < 16) && (c.desc.getList 0xC0 64).all (· == 0)
/-- A grant in the layout of R176: unused, or with its reserved bits 0 and a space that grants name. -/
def grantOk (c : Ctx) (i : Nat) : Bool :=
  let g : Cap := { bits := BitVec.ofNat 128 (c.grant i), tag := true }
  g.lenG == 0 || (Cap.tagOk g.bits && (g.space == 1 || g.space == 5 || g.space == 6))
/-- Paddocks of a die that a virtual device owns. -/
def vdevPdks (s : State) (d v : Nat) : Nat := (s.pdks.filter fun p => p.id / 192 == d && p.vdev == some v).length
/-- Numbers that some stretches cover, each given by its base and end. -/
def unionLen (l : List (Nat × Nat)) : Nat :=
  let ins := fun (l : List (Nat × Nat)) (p : Nat × Nat) => l.takeWhile (fun q => decide (q.1 ≤ p.1)) ++ p :: l.dropWhile fun q => decide (q.1 ≤ p.1)
  ((l.foldl ins []).foldl (fun (r : Nat × Nat) p => (max r.1 p.2, r.2 + (p.2 - max r.1 p.1))) (0, 0)).2
/-- The die copy queues and scratchpad that the descriptors of a device's contexts grant together lie within its shares of the
dies: at most as many queues, and of each die's scratchpad at most as many bytes (18 R313; log 102). -/
def withinShares (s : State) (c : Ctx) : Bool :=
  let mates := s.ctxs.filter fun d => d.id != c.id && d.valid && d.vdev == c.vdev
  let caps := ((c :: mates).flatMap fun c => (List.range 4).map fun i => ({ bits := BitVec.ofNat 128 (c.grant i), tag := true } : Cap)).filter fun g => g.lenG != 0 && g.space == 1
  decide ((bits64 (BitVec.ofNat 64 (mates.foldl (fun m d => if d.die = c.die then m ||| d.dqg else m) c.dqg))).length ≤ max 1 (32 * vdevPdks s c.die c.vdev / 192)) &&
    (List.range s.part.dies).all fun d =>
      decide (unionLen ((caps.filter fun g => g.base / 2 ^ 29 == d).map fun g => (g.base, g.base + g.len)) ≤ 512 * vdevPdks s d c.vdev / 192 * 2 ^ 20)
/-- Every field of a descriptor is in range. -/
def descOk (s : State) (c : Ctx) : Bool :=
  descRes c && decide (c.vdev < 32) && (c.hangh == 0 || (decide (16 ≤ c.hangh) && decide (c.hangh ≤ 40))) &&
    decide (10 ≤ c.park) && decide (c.park ≤ 30) && decide (1 ≤ c.preto) && c.top % 2 ^ 15 == 0 && decide (c.codeb < 2 ^ 57) && c.codel % 8 == 0 &&
    c.fqb % 4096 == 0 && decide (6 ≤ c.fqk) && decide (c.fqk ≤ 16) && decide (1 ≤ c.spill) && decide (c.spill ≤ 16) &&
    decide (256 ≤ c.iqd) && decide (c.iqd ≤ 4096) && decide (c.arenab < 2 ^ 57) && decide (1 ≤ c.pool) && decide (c.pool ≤ 63) && decide (1 ≤ c.wwave) &&
    decide (1 ≤ c.quant) && (List.range 4).all (grantOk c) && c.pwb % 2 ^ 15 == 0 && decide (c.pwb < 2 ^ 57) && c.pwl % 2 ^ 15 == 0 &&
    decide (c.pwl ≤ 2 ^ 41) && !(s.ctxs.any fun d => d.id != c.id && d.die == c.die && d.valid && d.grp == c.grp)
/-- Entries of a launch-queue table are well formed. -/
def lqtOk (c : Ctx) : Bool :=
  (List.range 64).all fun q =>
    let x := leNat (c.lqt.getList (8 * q) 8)
    bitsOf x 3 5 == 0 && x / 2 ^ 28 == 0 && (bitsOf x 2 1 == 0 || (bitsOf x 8 8 != 0 && bitsOf x 16 12 != 0))
/-- Reserved bytes of a handler table. -/
def htRes (c : Ctx) : Bool := (List.range 256).all fun n => (c.ht.getList (32 * n + 0x17) 9).all (· == 0)
/-- The context as it would stand after a write, where the write is not refused. -/
def ctxWritten (s : State) (k part o : Nat) (bs : List Byte) : Option Ctx :=
  let c := s.ctx k
  let n := writePart c part o bs
  let ok := match part with
    | 0 => if c.valid || n.valid then descOk s n && (!n.valid || withinShares s n) && !(n.valid && !c.valid && c.gen == 0xFFFF) else descRes n
    | 1 => lqtOk n
    | 2 => htRes n
    | _ => true
  if ok then some n else none
/-- The fields of a CTXWR: context key, part, offset and data; none where one is out of range. -/
def ctxwrArgs (m : Msg) : Option (Nat × Nat × Nat × List Byte) :=
  let n := m.len.toNat - 8
  match ctxArg m 0, partLen (m.at' 1 1) with
  | some k, some l =>
    if m.at' 4 4 = 0 ∧ 8 ≤ n ∧ n ≤ 256 ∧ m.at' 2 2 + n ≤ l then some (k, m.at' 1 1, m.at' 2 2, m.pay.drop 8) else none
  | _, _ => none
def execCtxwr (s : State) : Result :=
  mgmt false false (fun s m =>
    match ctxwrArgs m with
    | none => s.mgmtAns m mgREFUSED
    | some (k, part, o, bs) =>
      if (s.ctx k).killing ≠ 0 then s.mgmtAns m mgBUSY
      else match ctxWritten s k part o bs with
        | none => s.mgmtAns m mgREFUSED
        | some n =>
          if (s.ctx k).valid && !n.valid then
            let keys := ctxKeys s k
            let s : State := killContext s k
            { s with mgmt := s.mgmt ++ [(m, keys)] }
          else if n.valid && !(s.ctx k).valid then
            -- A new context has a key of its own (18 R311).
            let (i, s) := s.fresh
            (s.updCtx k fun _ => { n with born := i }).mgmtAns m mgOK
          else (s.updCtx k fun _ => n).mgmtAns m mgOK) s

/-! ### CTXKILL and the end of kills (18 R315, R316) -/

def execCtxkill (s : State) : Result :=
  mgmt false false (fun s m =>
    if !payOk m 8 [(1, 7)] then s.mgmtAns m mgREFUSED
    else match liveCtx s m 0 with
      | .error e => s.mgmtAns m e
      | .ok k =>
        let keys := ctxKeys s k
        let s : State := killContext s k
        { s with mgmt := s.mgmt ++ [(m, keys)] }) s
/-- Paddocks of a die in a mask of 24 bytes. -/
def maskPdks (m : Msg) (off : Nat) : List Nat :=
  let x := m.at' off 24
  ((List.range 192).filter fun i => bitsOf x i 1 == 1).map fun i => msgDie m * 192 + i
/-- Assigns the paddocks of a mask, and no others of the die, to a virtual device (18 R313). -/
def assignVdev (s : State) (v d : Nat) (ps : List Nat) : State :=
  let s : State := s.updVdev v fun x => x
  let s : State := { s with pdks := s.pdks.map fun p => if p.id / 192 == d && p.vdev == some v && !ps.contains p.id then { p with vdev := none } else p }
  ps.foldl (fun (s : State) i => s.updPdk i fun p => { p with vdev := some v }) s
/-- What a command that waited for kills does when they have ended. -/
def mgmtFinish (s : State) (m : Msg) : State :=
  match m.arg.toNat with
  | 0x10 =>
    match ctxwrArgs m with
    | some (k, part, o, bs) => (s.updCtx k fun c => writePart c part o bs).mgmtAns m mgOK
    | none => s.mgmtAns m mgOK
  | 0x18 => (assignVdev s (m.at' 0 1) (msgDie m) (maskPdks m 8)).mgmtAns m mgOK
  | _ => s.mgmtAns m mgOK
/-- Commands whose kills have all ended are finished, in the order of their arrival. -/
def mgmtSettle (s : State) (done : List Nat) : State :=
  let l := s.mgmt.map fun p => (p.1, p.2.filter fun k => !done.contains k)
  (l.filter fun p => p.2.isEmpty).foldl (fun (s : State) p => mgmtFinish s p.1) { s with mgmt := l.filter fun p => !p.2.isEmpty }
/-- The descriptors that are being killed with a context. -/
def killKeys (s : State) (k : Nat) : List Nat := (s.ctxs.filter fun c => c.killing != 0 && c.grp == (s.ctx k).grp).map Ctx.id
/-- Every unit is quiet: the reservations are freed, and the host learns of the end and of the new generation. -/
def execKillQuiescence (ctx : Nat) (s : State) : Result :=
  if (s.ctx ctx).killing = 0 then .next s
  else
    let keys := killKeys s ctx
    if !quiescent s keys then .next s
    else
      let s : State := s.complete ctx 0 3 (s.ctx ctx).gen.toNat 0 0
      .next (mgmtSettle (keys.foldl freeCtx s) keys)

/-! ### Residency, switches and pre-emption (18 R301, R303, R304) -/

/-- Register blocks that residency on a paddock commits: both pools, and a base block for each handler slice. -/
def slotNeed (s : State) (pk : Nat) (c : Option Nat) : Nat := match c with | some i => (s.ctx (pk / 192 * 64 + i)).pool + 1 | none => 0
/-- The number under which a context's record table holds the matrix and stall state that left a paddock (18 R311): no
block's. -/
def leavingUnit (pk : Nat) : Nat := 2 ^ 64 + pk
/-- A slot of a paddock begins to hold another context, or none: issue times are settled (21 R345). -/
def setSlot (s : State) (pk n : Nat) (c : Option Nat) : State :=
  let now := s.clk (pk / 192)
  s.updPdk pk fun p =>
    let p : Pdk := if n = p.issuing then { p with shares := issueTimes s p, since := now, quiet := 0 } else p
    if n = 0 then { p with slot0 := c } else { p with slot1 := c }
/-- The unit of the matrix and stall state of a protected context that leaves a paddock, sealed: a header without a kind, the
section of R271 without tiles, and the stalls that leave with it (18 R311; log 100). -/
def leavingBytes (s : State) (k pk : Nat) (sc : W64) (l : List Stall) : List Byte :=
  let b : Block := { die := pk / 192, core := pk / 4 % 48, ctx := k % 64, flip := (s.punit (pk * 64 + k % 64)).flip }
  let stall := fun (y : Stall) => leBytes 8 y.id ++ [BitVec.ofNat 8 y.state, BitVec.ofNat 8 y.hnd, BitVec.ofNat 8 y.cls, BitVec.ofNat 8 y.fill] ++
    leBytes 4 y.timer ++ leBytes 8 y.entry.toNat ++ leBytes 8 y.started ++ leBytes 8 y.readyAt ++ leBytes 8 y.tasks.length ++ y.tasks.flatMap Task.bytes
  let body := matrixBytes s b (pk % 4) ++ l.flatMap stall
  let n := body.length + 16
  let h := leBytes 2 0 ++ leBytes 2 1 ++ leBytes 4 (ctxId s.node (k / 64) (k % 64)) ++ leBytes 8 sc.toNat ++ leBytes 8 (64 + n) ++ List.replicate 40 0
  h ++ (Config.gcmSeal (Config.contextKey (k / 64) (s.ctx k).born) (sealNonce sc (ctxId s.node (k / 64) (k % 64))) h body ++ List.replicate n 0).take n
/-- Matrix state comes back to a paddock from its sealed unit, where there is one; none where its counter or its tag is not the
unit's. -/
def unitReturns (s : State) (k pk : Nat) : Option State :=
  let c := s.ctx k
  match c.left.find? fun e => e.1 == pk, c.recs.find? fun r => r.1 == leavingUnit pk with
  | some e, some r =>
    let bs := s.rd e.2.1 e.2.2
    if leAt bs 8 8 ≠ r.2.toNat then none
    else (Config.gcmOpen (Config.contextKey (k / 64) c.born) (sealNonce r.2 (leAt bs 4 4)) (bs.take 64) (bs.drop 64)).bind fun body =>
      (readMatrix 0 (body.take 0x4240)).map fun m =>
        (s.updUnit (pk * 64 + k % 64) fun u => { u with perm := m.u.perm, active := m.u.active, activeFmt := m.u.activeFmt, shadow := m.u.shadow, shadowFmt := m.u.shadowFmt }).updCtx k
          fun c => { c with recs := c.recs.filter (fun r => r.1 != leavingUnit pk), left := c.left.filter fun e => e.1 != pk }
  | _, _ => some s
/-- The context becomes resident on a paddock, or the reasons against it hold. Its matrix and stall state come back. -/
def makeResident (s : State) (k pk : Nat) : Option State :=
  let p := s.pdk pk
  if (slotOf p (k % 64)).isSome then some s
  else if p.vdev != some (s.ctx k).vdev || !pdkServes s pk ||
      decide (64 < slotNeed s pk p.slot0 + slotNeed s pk p.slot1 + (s.ctx k).pool + 1) then none
  else if p.slot0.isSome && p.slot1.isSome then none
  else (unitReturns s k pk).map fun s => setSlot s pk (if p.slot0.isNone then 0 else 1) (some (k % 64))
/-- Blocks of a context that still stand on a paddock. -/
def blocksOn (s : State) (k pk : Nat) : List Block :=
  s.blocks.filter fun b => b.ck == k && holdsPlace b && b.pdks.any fun p => (b.die * 48 + b.core) * 4 + p == pk
/-- Stalls of a context on a core whose paddocks it has all left go with it, exactly (17 R282; log 100). -/
def stallsLeave (s : State) (k core : Nat) : State :=
  if (residentCores s k (k / 64)).contains core then s
  else
    let mine := fun (y : Stall) => y.id / 16 == core && y.state != 0 && y.ctx == k % 64
    let s : State := s.updCtx k fun c => { c with away := c.away ++ s.stalls.filter mine }
    { s with stalls := s.stalls.map fun y => if mine y then { id := y.id } else y }
/-- A stall that went with its context comes back to its core, once the context is resident there and a stall of its device's share
is free (18 R313). -/
def stallBack (s : State) (k : Nat) (y : Stall) : State :=
  let core := y.id / 16
  let room : Bool := (residentCores s k (k / 64)).contains core && decide (stallsUsed s core (s.ctx k).vdev < 4 * ownedPdks s core (s.ctx k).vdev)
  match if room then ((List.range 16).map (core * 16 + ·)).find? (fun i => (s.stall i).state == 0) else none with
  | some i =>
    let s : State := (s.updStall i fun _ => { y with id := i }).updCtx k fun c => { c with away := c.away.erase y }
    if y.state = 2 then s.kick k 2 else s
  | none => s
def stallsBack (s : State) : State :=
  (s.ctxs.filter fun c => !c.away.isEmpty).foldl (fun (s : State) c => c.away.foldl (fun (s : State) y => stallBack s c.id y) s) s
/-- Residency ends where no block of the context is left. The matrix and stall state of a protected context is a saved unit
with its own record, sealed in its save area; a save that has no room there or would need SC = 2^64 is refused (18 R308, R311;
log 100). -/
def endResident (s : State) (k pk : Nat) : Option State :=
  let p := s.pdk pk
  let c := s.ctx k
  match slotOf p (k % 64) with
  | none => none
  | some n =>
    if !(blocksOn s k pk).isEmpty || (c.prot && c.sc == 2 ^ 64 - 1) then none
    else
      let sc : W64 := BitVec.ofNat 64 (c.sc + 1)
      let t : State := stallsLeave (setSlot s pk n none) k (pk / 4)
      if !c.prot then some t
      else
        let img := leavingBytes s k pk sc ((t.ctx k).away.drop c.away.length)
        (firstFit (saveAreas s k) 64 c.savel img.length).map fun o =>
          (t.wr (c.saveb + o) img).updCtx k fun c =>
            { c.setFld 0x68 8 sc.toNat with recs := recPut Prod.fst c.recs (leavingUnit pk) (leavingUnit pk, sc), left := c.left ++ [(pk, c.saveb + o, img.length)] }
/-- Applies an operation to every paddock of a mask: the state, and the mask of those where it succeeded. -/
def overMask (s : State) (ps : List Nat) (f : State → Nat → Option State) : State × Nat :=
  ps.foldl (fun (r : State × Nat) p => match f r.1 p with
    | some s => (s, r.2 + 2 ^ (p % 192))
    | none => r) (s, 0)
/-- Both forms of RESIDE. -/
def reside (op : Nat) (f : Nat → State → Nat → Option State) (s : State) : Result :=
  mgmt false false (fun s m =>
    if !payOk m 32 [(2, 6)] ∨ m.at' 1 1 ≠ op then s.mgmtAns m mgREFUSED
    else match liveCtx s m 0 with
      | .error e => s.mgmtAns m e
      | .ok k =>
        let (s, n) := overMask s (maskPdks m 8) (f k)
        s.mgmtAns m mgOK (leBytes 24 n)) s
def execResideMake (s : State) : Result := reside 1 (fun k s p => makeResident s k p) s
def execResideEnd (s : State) : Result := reside 0 (fun k s p => endResident s k p) s
/-- The other slot of a paddock issues from now on. -/
def execSwitch (s : State) : Result :=
  mgmt false false (fun s m =>
    if !payOk m 8 [(2, 6)] ∨ 48 ≤ m.at' 0 1 ∨ 4 ≤ m.at' 1 1 then s.mgmtAns m mgREFUSED
    else
      let pk := msgDie m * 192 + 4 * m.at' 0 1 + m.at' 1 1
      (switched s pk).mgmtAns m mgOK) s

/-- The blocks on which a command waits have stopped, been saved or ended, or their requests have ended. -/
def askedSettle (s : State) : State :=
  let open' := fun (b : Nat) => let x := s.block b; x.run == .running && (x.preempt.isSome || x.stepping)
  let done := s.asked.filter fun p => !(p.2.any open')
  done.foldl (fun (s : State) p => s.mgmtAns p.1 mgOK) { s with asked := s.asked.filter fun p => p.2.any open' }
/-- Asks the blocks that a predicate takes; the command is answered once their requests have ended. -/
def preempt (kind : Nat) (p : State → Msg → Block → Bool) (s : State) : Result :=
  mgmt false false (fun s m =>
    if !payOk m 24 [(2, 6), (22, 2)] ∨ m.at' 1 1 ≠ kind then s.mgmtAns m mgREFUSED
    else match liveCtx s m 0 with
      | .error e => s.mgmtAns m e
      | .ok k =>
        match s.blocks.filter fun b => b.ck == k && b.run != .ended && p s m b with
        | [] => s.mgmtAns m mgREFUSED
        | l =>
          let s : State := l.foldl (fun (s : State) b => askPreempt s b.id 1) s
          { s with asked := s.asked ++ [(m, l.map Block.id)] }) s
/-- The grid that a host tag names. -/
def ofTag (s : State) (m : Msg) (b : Block) : Bool := (s.grid b.grid).htag.toNat == m.at' 8 8
def execPreemptBlock (s : State) : Result := preempt 0 (fun s m b => ofTag s m b && b.blk.toNat == m.at' 16 6) s
def execPreemptGrid (s : State) : Result := preempt 1 ofTag s
def execPreemptContext (s : State) : Result := preempt 2 (fun _ _ _ => true) s

/-! ### Loads (20 R321, R322, 23 R373) -/

/-- A relocation: section, offset in it, kind. -/
structure Reloc where
  code : Bool := false
  off : Nat := 0
  kind : Nat := 0
  deriving DecidableEq, Repr
/-- What a LOAD has read of an image. -/
structure LoadImg where
  calign : Nat := 0
  dalign : Nat := 0
  code : List Byte := []
  data : List Byte := []
  kernels : List Nat := []
  launches : List (List Byte) := []
  handlers : List (List Byte) := []
  relocs : List Reloc := []
  deriving DecidableEq, Repr
/-- Reads a stretch of a context's main memory. -/
def loadBytes (s : State) (k a n : Nat) : Option (List Byte) × State :=
  match readN s { k := k, gen := (s.ctx k).gen } 0 a n with
  | (.ok b, s) => (some b, s)
  | (.error _, s) => (none, s)
def readReloc (bs : List Byte) (codeLen dataLen : Nat) : Option Reloc :=
  let x := leNat bs
  let code : Bool := bitsOf x 32 1 == 1
  let r : Reloc := { code := code, off := x % 2 ^ 32, kind := bitsOf x 33 3 }
  if x / 2 ^ 36 ≠ 0 ∨ r.kind = 0 ∨ 3 < r.kind ∨ (if code then codeLen else dataLen) < r.off + (if r.kind = 2 then 16 else 8) then none else some r
/-- The data section needs 16-byte alignment: it holds a capability, or an argument record that a launch or a valid handler
entry names (01 R13, 23 R373). -/
def needsAlign16 (rs : List Reloc) (launches : Nat) (handlers : List (List Byte)) : Bool :=
  (rs.any fun r => !r.code && r.kind == 2) || launches != 0 || handlers.any fun b => leAt b 0 8 != 0
/-- Reads and checks an image at a virtual address; none where a rule of R373 is broken. -/
def readLoad (s : State) (k a : Nat) : Option LoadImg × State :=
  match loadBytes s k a 64 with
  | (none, s) => (none, s)
  | (some h, s) =>
    let n := leAt h
    let clen := n 0xC 4
    let dlen := n 0x14 4
    if n 0 4 ≠ 0x4D494255 ∨ n 4 2 ≠ 1 ∨ n 6 1 < 3 ∨ 27 < n 7 1 ∨ clen % 8 ≠ 0 ∨ 256 < n 0x28 2 ∨ n 0x2A 2 ≠ 0 ∨ !zeroAt h 0x34 12 then (none, s)
    else
      let (code, s) := loadBytes s k (a + n 8 4) clen
      let (data, s) := loadBytes s k (a + n 0x10 4) dlen
      let (kt, s) := loadBytes s k (a + n 0x18 4) (8 * n 0x1C 2)
      let (lt, s) := loadBytes s k (a + n 0x20 4) (32 * n 0x1E 2)
      let (ht, s) := loadBytes s k (a + n 0x24 4) (32 * n 0x28 2)
      let (rl, s) := loadBytes s k (a + n 0x2C 4) (8 * n 0x30 4)
      match code, data, kt, lt, ht, rl with
      | some code, some data, some kt, some lt, some ht, some rl =>
        let ks := (chunks kt (n 0x1C 2) 8).map leNat
        match (chunks rl (n 0x30 4) 8).mapM fun r => readReloc r clen dlen with
        | none => (none, s)
        | some rs =>
          if ks.any (fun e => decide (e % 8 ≠ 0) || decide (clen ≤ e)) then (none, s)
          else if needsAlign16 rs (n 0x1E 2) (chunks ht (n 0x28 2) 32) && decide (n 7 1 < 4) then (none, s)
          else (some { calign := n 6 1, dalign := n 7 1, code := code, data := data, kernels := ks, launches := chunks lt (n 0x1E 2) 32
                       handlers := chunks ht (n 0x28 2) 32, relocs := rs }, s)
      | _, _, _, _, _, _ => (none, s)

/-- Adds a base to the 8 bytes at an offset. -/
def relocAdd (bs : List Byte) (o base : Nat) : List Byte := bs.take o ++ leBytes 8 (leAt bs o 8 + base) ++ bs.drop (o + 8)
/-- A packet or handler entry with its offsets made virtual addresses. -/
def rebase (codeb datab : Nat) (bs : List Byte) : List Byte := relocAdd (relocAdd bs 0 codeb) 8 datab
/-- A packet of a launch table has every field in range, its kernel in the code section and its record in the data. -/
def launchOk (g : LoadImg) (b : List Byte) : Bool :=
  (packetBad b).isNone && leAt b 0 8 % 8 == 0 && decide (8 ≤ leAt b 0 8) && decide (leAt b 0 8 < g.code.length) && decide (leAt b 8 8 ≤ g.data.length)
/-- A handler entry of an image, with its index aside. -/
def handlerOk (g : LoadImg) (b : List Byte) : Bool :=
  leAt b 0 8 % 8 == 0 && decide (leAt b 0 8 < g.code.length) && decide (leAt b 8 8 ≤ g.data.length) && zeroAt b 0x18 8
/-- Whether the pages of a stretch are mapped for reading and writing. -/
def mappedRW (s : State) (k : Nat) : Nat → Nat → Nat → Bool × State
  | 0, _, n => (n == 0, s)
  | f + 1, a, n =>
    if n = 0 then (true, s)
    else match translate s k (s.ctx k).gen a true true with
      | (.error _, s) => (false, s)
      | (.ok w, s) => mappedRW s k f (a + min n w.left) (n - min n w.left)
/-- Relocates a section; the relocations of capabilities are for its tags. -/
def relocate (bs : List Byte) (rs : List Reloc) (codeb datab : Nat) : List Byte :=
  rs.foldl (fun b r => relocAdd b r.off (if r.kind = 3 then codeb else datab)) bs
/-- Tags a capability that a load has written: one of space 0 that may carry a tag; those of other spaces reach a kernel only by its
controller (10 R176, R181). -/
def tagCap (s : State) (k a : Nat) : State :=
  match translate s k (s.ctx k).gen a true false with
  | (.error _, s) => s
  | (.ok w, s) =>
    let c : Cap := { bits := BitVec.ofNat 128 (leNat (s.rd w.key 16)) }
    if w.tg && c.space == 0 && Cap.tagOk c.bits then s.setTag w.key (tagByte true (c.has pK) (k % 64)) else s
/-- Words of a section. -/
def sectionWords (bs : List Byte) : List Nat := (chunks bs (bs.length / 8) 8).map leNat
/-- Word numbers of the kernels' entries that a load knows of: its kernel table and its launch and handler tables. -/
def loadEntries (g : LoadImg) : List Nat :=
  (g.kernels ++ g.launches.map (fun b => leAt b 0 8) ++ (g.handlers.filter fun b => leAt b 0 8 != 0).map fun b => leAt b 0 8).map (· / 8)
/-- The code section as it is written, with the counts of the answer. -/
def treated (g : LoadImg) (code : List Byte) (fin : Bool) : Finalised :=
  let ws := sectionWords code
  let es := loadEntries g
  if fin then finaliseSection ws es
  else { words := ws, rewritten := 0, unchanged := ws.length, kernels := (es.filter fun e => decide (e < ws.length)).eraseDups.length }
/-- What the finaliser makes of a section, from the cache of its die where that holds it under the running firmware, else by
finalising it, which fills the cache (20 R324). -/
def cachedFinal (s : State) (d : Nat) (g : LoadImg) (code : List Byte) : Finalised × State :=
  let key := (Config.sha3 code, measured s d)
  match (s.die d).cache.find? fun e => (e.digest, e.version) == key with
  | some e => ({ words := e.words, rewritten := e.rewritten, unchanged := e.unchanged, kernels := e.kernels }, s)
  | none =>
    let f := treated g code true
    (f, s.updDie d fun x => { x with cache := x.cache ++ [
      { digest := key.1, version := key.2, words := f.words, rewritten := f.rewritten, unchanged := f.unchanged, kernels := f.kernels }] })
/-- A load that breaks no rule is performed as a whole. -/
def performLoad (s : State) (k : Nat) (g : LoadImg) (fin : Bool) (codeb datab : Nat) : Finalised × State :=
  let o : Owner := { k := k, gen := (s.ctx k).gen }
  let code := relocate g.code (g.relocs.filter fun r => r.code) codeb datab
  let data := relocate g.data (g.relocs.filter fun r => !r.code) codeb datab
  let (f, s) := if fin then cachedFinal s (k / 64) g code else (treated g code false, s)
  let (_, s) := writeN s o 0 codeb (f.words.flatMap (leBytes 8))
  let (_, s) := writeN s o 0 datab data
  let s : State := (g.relocs.filter fun r => r.kind == 2).foldl (fun (s : State) r => tagCap s k ((if r.code then codeb else datab) + r.off)) s
  let s : State := s.updCtx k fun c =>
    let c := (c.setFld 0x18 8 codeb).setFld 0x20 8 code.length
    { c with
      launchTable := g.launches.map fun b => packetRec (rebase codeb datab b)
      ht := g.handlers.foldl (fun (h : Cells 8) b =>
        h.setList (32 * leAt b 0x17 1) ((if leAt b 0 8 = 0 then b else rebase codeb datab b).take 0x17 ++ List.replicate 9 0)) []
      kernels := g.kernels.map fun e => BitVec.ofNat 64 (codeb + e) }
  (f, s)
def execLoad (s : State) : Result :=
  mgmt false false (fun s m =>
    let codeb := m.at' 16 8
    let datab := m.at' 24 8
    if !payOk m 32 [(2, 6)] ∨ 1 < m.at' 1 1 then s.mgmtAns m mgREFUSED
    else match liveCtx s m 0 with
      | .error e => s.mgmtAns m e
      | .ok k =>
        match readLoad s k (m.at' 8 8) with
        | (none, s) => s.mgmtAns m mgREFUSED
        | (some g, s) =>
          let caps := (g.relocs.filter fun r => r.kind == 2).all fun r => ((if r.code then codeb else datab) + r.off) % 16 == 0
          if !g.launches.all (launchOk g) ∨ !g.handlers.all (handlerOk g) ∨ !caps ∨ codeb % 2 ^ g.calign ≠ 0 ∨ datab % 2 ^ g.dalign ≠ 0 ∨
              2 ^ 57 < codeb + g.code.length ∨ 2 ^ 57 < datab + g.data.length then s.mgmtAns m mgREFUSED
          else
            let (ok1, s) := mappedRW s k g.code.length codeb g.code.length
            let (ok2, s) := mappedRW s k g.data.length datab g.data.length
            if !ok1 ∨ !ok2 then s.mgmtAns m mgREFUSED
            else
              let (f, s) := performLoad s k g (m.at' 1 1 == 1 && (s.die (msgDie m)).finaliserOk) codeb datab
              s.mgmtAns m mgOK (leBytes 4 f.rewritten ++ leBytes 4 f.unchanged ++ leBytes 4 f.kernels ++ leBytes 4 0)) s

/-! ### Migration (20 R332, R333) -/

/-- Rewrites CTXID and GEN of an image in memory. -/
def rewriteImage (s : State) (addr id : Nat) (gen : W16) : State := (s.wr (addr + 4) (leBytes 4 id)).wr (addr + 0x1E) (leBytes 2 gen.toNat)
/-- A block whose image leaves this package ends here: its grid no longer waits for it. -/
def blockLeaves (s : State) (b : Nat) : State :=
  let x := s.block b
  let s : State := { s with
    cmds := s.cmds.filter fun c => c.block != b
    saved := s.saved.filter fun v => v.block != b
    slices := s.slices.map fun y => if y.block == b && !y.handler then { y with run := .retired, alive := 0 } else y }
  let s : State := s.updBlock b fun y => { y with run := .ended }
  gridEnd (s.updGrid x.grid fun g => { g with ended := g.ended + 1 }) x.grid
/-- What a context's sessions count goes with it (22 R364). -/
def carryOut (s : State) (k id : Nat) : State :=
  match sessionsOf s k with
  | [] => s
  | l => { s with carried := recPut Carried.id s.carried id { id := id, parts := l.map fun x => (x.events, x.counters), opens := (recGet Carried.id { id := id } s.carried id).opens } }
/-- A session's counters as they arrive: those of events that the part lacks restart from 0 (22 R364). -/
def takeCounters (p : Part) (x : Session) (c : List Nat × Cells 64) : Session :=
  { x with events := c.1, counters := Cells.setList [] 0 ((List.range 16).map fun n => if eventKnown p (c.1.getD n 0) then c.2.get n else 0) }
/-- The sessions of a context take over the counters that have come with it. -/
def carryIn (s : State) (k : Nat) : State :=
  let id := ctxId s.node (k / 64) (k % 64)
  match s.carried.find? fun c => c.id == id, sessionsOf s k with
  | some c, x :: l =>
    ((x :: l).zip c.parts).foldl (fun (s : State) p => s.updSession p.1.key fun y => takeCounters s.part y p.2) { s with carried := s.carried.map fun y => if y.id == id then { y with parts := [] } else y }
  | _, _ => s
def execMigrateExport (s : State) : Result :=
  mgmt false false (fun s m =>
    if !payOk m 32 [(2, 6), (28, 4)] ∨ m.at' 1 1 ≠ 0 ∨ 4 ≤ m.at' 26 1 ∨ 64 ≤ m.at' 27 1 then s.mgmtAns m mgREFUSED
    else match liveCtx s m 0 with
      | .error e => s.mgmtAns m e
      | .ok k =>
        match s.saved.find? fun v => v.addr == m.at' 8 8 && (s.block v.block).ck == k with
        | none => s.mgmtAns m mgREFUSED
        | some v =>
          if (s.ctx k).prot ∨ m.at' 16 8 < v.len then s.mgmtAns m mgREFUSED
          else
            let t : State := rewriteImage s v.addr (ctxId (BitVec.ofNat 16 (m.at' 24 2)) (m.at' 26 1) (m.at' 27 1)) (s.ctx k).gen
            let t : State := carryOut t k (ctxId (BitVec.ofNat 16 (m.at' 24 2)) (m.at' 26 1) (m.at' 27 1))
            (blockLeaves t v.block).mgmtAns m mgOK (leBytes 8 v.len)) s

/-- An image in clear from elsewhere, which does not say how many barriers above the core level its launch has: on one die
or over the package, with or without those of a join (log 41). -/
def importBars (h body : List Byte) : Option (Img × Bool × Bool) :=
  [(16, false, false), (12, true, false), (18, false, true), (14, true, true)].findSome? fun f => (readImage h body f.1).map fun g => (g, f.2)
/-- Base and length of the area that a capability of space 2 covers on its core. -/
def areaOf (x : Slice) (n : Nat) : Nat × Nat := let c := x.rc (BitVec.ofNat 4 n); if c.tag && c.space == 2 then (c.base % 2 ^ 19, c.len) else (0, 0)
/-- Paddocks of the gangs of an image: those of its matrix sections in turn, else in turn from 0 (log 41). -/
def importPdks (g : Img) : List Nat :=
  let l := match g.mats.map MatrixImg.pdk with | [] => [0, 1, 2, 3] | l => l
  (List.range g.ngang).map fun i => l.getD (i % l.length) 0
/-- The grid of an imported block: one of imported blocks of the same kernel and shape that has no block of its `%blk`, else
a new one; the image does not name its grid (log 41). -/
def importGrid (s : State) (k : Nat) (g : Img) (pkg pod : Bool) : Nat × State :=
  let pj := if pod then ((s.joins.find? fun j => j.grp == (s.ctx k).grp).map fun j => j.j.toNat).getD 0 else 0
  match s.grids.find? fun y => y.imported && !y.finished && y.die * 64 + y.ctx == k && y.header == g.header && y.lrec.entry == g.entry &&
      y.lrec.gangs == g.ngang && y.lrec.span == b2n pkg && y.lrec.pj == pj && !(s.blocks.any fun b => b.grid == y.id && b.blk == g.blk) with
  | some y => (y.id, s.updGrid y.id fun y => { y with total := y.total + 1, placed := y.placed + 1 })
  | none =>
    let (i, s) := s.fresh
    let s : State := { s with joins := s.joins.map fun j => if pj != 0 && j.grp == (s.ctx k).grp && j.j.toNat == pj then { j with registered := j.registered ++ [0] } else j }
    (i, s.putGrid { id := i, ctx := k % 64, die := k / 64, header := g.header, placed := 1, imported := true, registered := true
                    lrec := { entry := g.entry, gangs := g.ngang, span := b2n pkg, pj := pj } })
/-- An image that comes from elsewhere, at an address: a saved block, ready to be restored; blocks of one grid with one crew
number are a crew. `hold` for a replay; `from'`: the CTXID of the image as it came. -/
def importBlock (s : State) (k : Nat) (g : Img) (pkg pod : Bool) (addr len from' : Nat) (hold : Bool) : State :=
  let (gid, s) := importGrid s k g pkg pod
  let (b, s) := s.fresh
  let (v, s) := s.fresh
  let x := ((g.slices.find? fun y => y.st != 4).map SliceImg.x).getD {}
  let crew := s.blocks.filter fun y => y.grid == gid && y.crew.toNat % 2 ^ 16 == g.crew.toNat % 2 ^ 16
  let base := (crew.head?.map Block.crewBase).getD b
  let blk : Block := { id := b, grid := gid, ctx := k % 64, die := k / 64, core := g.lcore, lcore := g.lcore, blk := g.blk, crew := g.crew, crewBase := base
                       header := g.header, entry := g.entry, sharedBase := (areaOf x 13).1, argBase := (areaOf x 14).1, argBytes := (areaOf x 14).2
                       sharedAt := (areaOf x 13).1, argAt := (areaOf x 14).1, ngang := g.ngang, pdks := importPdks g, bph := g.bph, run := .saved, order := s.uid
                       hold := hold }
  let s : State := { s with blocks := (s.blocks ++ [blk]).map fun y => if y.crewBase == base && y.grid == gid then { y with crewSize := crew.length + 1 } else y }
  let s : State := startSlices (blockBars s (s.grid gid) (s.block b)) (s.block b) (-1)
  let l := slotOrder s (s.block b)
  let s : State := ((blockBarList s (s.block b)).zip g.bars).foldl (fun (s : State) p => s.updBar p.1.id fun y =>
    { y with expected := p.2.expected, arrivals := p.2.arrivals, phase := p.2.phase
             who := y.who ++ (l.filter fun x => bitsOf p.2.who (4 * x.gid + x.idx) 1 == 1).map Slice.id }) s
  { s with saved := s.saved ++ [{ id := v, block := b, addr := addr, len := len, since := s.clk (k / 64)
                                  opens := if hold then (recGet Carried.id {} s.carried from').opens.filter (fun o => o.blk == g.blk && o.entry == g.entry) else [] }] }
/-- An image in clear at a physical address becomes a saved block of a context; one that is sealed or malformed is refused. -/
def importImage (s : State) (k addr len : Nat) (hold : Bool) : Option State :=
  let bs := s.rd addr len
  if s.part.hbmBytes < addr + len ∨ (s.ctx k).prot ∨ leAt bs 8 8 ≠ 0 ∨ leAt bs 0x10 8 ≠ bs.length then none
  else match importBars (bs.take 64) (bs.drop 64) with
    | none => none
    | some (g, pkg, pod) => some (importBlock (rewriteImage s addr (ctxId s.node (k / 64) (k % 64)) (s.ctx k).gen) k g pkg pod addr len (leAt bs 4 4) hold)
/-- A sealed image that the context itself wrote: it is restored at most once, as its counter is known only once (18 R311). -/
def importSealed (s : State) (k addr len : Nat) : Option State :=
  let bs := s.rd addr len
  let c := s.ctx k
  let counter : W64 := BitVec.ofNat 64 (leAt bs 8 8)
  match c.recs.find? fun r => r.2 == counter with
  | none => none
  | some r =>
    if s.part.hbmBytes < addr + len ∨ leAt bs 0x10 8 ≠ bs.length then none
    else (Config.gcmOpen (Config.contextKey (k / 64) c.born) (sealNonce counter (leAt bs 4 4)) (bs.take 64) (bs.drop 64)).bind fun body =>
      (importBars (bs.take 64) body).map fun f =>
        let t : State := importBlock s k f.1 f.2.1 f.2.2 addr len (leAt bs 4 4) true
        let id := (t.blocks.getLast?.map Block.id).getD 0
        t.updCtx k fun c => { c with recs := c.recs.map fun q => if q == r then (id, q.2) else q }
def execMigrateImport (s : State) : Result :=
  mgmt false false (fun s m =>
    if !payOk m 32 [(2, 6), (28, 4)] ∨ m.at' 1 1 ≠ 1 then s.mgmtAns m mgREFUSED
    else match liveCtx s m 0 with
      | .error e => s.mgmtAns m e
      | .ok k =>
        match importImage s k (m.at' 8 8) (m.at' 16 8) false with
        | some s => (carryIn s k).mgmtAns m mgOK (leBytes 8 (m.at' 16 8))
        | none => s.mgmtAns m mgREFUSED) s

/-! ### Virtual devices (18 R313-R315) -/

/-- Contexts of a virtual device. -/
def ctxsOfVdev (s : State) (v : Nat) : List Nat := (s.ctxs.filter fun c => c.valid && c.vdev == v).map Ctx.id
/-- Kills contexts; the command is answered when all of the kills have ended. -/
def killThen (s : State) (m : Msg) (ks : List Nat) : State :=
  let keys := (ks.flatMap (ctxKeys s)).eraseDups
  let s : State := ks.foldl (fun (s : State) k => if (s.ctx k).killing = 0 then killContext s k else s) s
  match keys with
  | [] => mgmtFinish s m
  | _ => { s with mgmt := s.mgmt ++ [(m, keys)] }
/-- Devices whose set of paddocks on a die an assignment changes after it had been made. -/
def reassigned (s : State) (v d : Nat) (ps : List Nat) : List Nat :=
  let owned := fun (w : Nat) => (s.pdks.filter fun p => p.id / 192 == d && p.vdev == some w).map Pdk.id
  (List.range 32).filter fun w =>
    !(owned w).isEmpty && (if w = v then !((owned w).all ps.contains && ps.all (owned w).contains) else (owned w).any ps.contains)
def execVdev (s : State) : Result :=
  mgmt false false (fun s m =>
    if !payOk m 32 [(1, 7)] ∨ 32 ≤ m.at' 0 1 then s.mgmtAns m mgREFUSED
    else killThen s m ((reassigned s (m.at' 0 1) (msgDie m) (maskPdks m 8)).flatMap (ctxsOfVdev s))) s
/-- The forms of VDRES share their fields. -/
def vdres (op : Nat) (f : State → Msg → State) (s : State) : Result :=
  mgmt false false (fun s m => if !payOk m 16 [(3, 5)] ∨ 32 ≤ m.at' 0 1 ∨ m.at' 1 1 ≠ op then s.mgmtAns m mgREFUSED else f s m) s
def execVdresClearResident (s : State) : Result :=
  vdres 0 (fun s m => (s.updVdev (m.at' 0 1) fun v => { v with resident := false }).mgmtAns m mgOK) s
def execVdresSetResident (s : State) : Result :=
  vdres 1 (fun s m => (s.updVdev (m.at' 0 1) fun v => { v with resident := true }).mgmtAns m mgOK) s
def execVdresReset (s : State) : Result := vdres 2 (fun s m => killThen s m (ctxsOfVdev s (m.at' 0 1))) s
def execVdresSetLog (s : State) : Result :=
  vdres 3 (fun s m =>
    let k := m.at' 2 1
    let base := m.at' 8 8
    if k < 4 ∨ 12 < k ∨ base % 4096 ≠ 0 ∨ s.part.hbmBytes < base + 64 * 2 ^ k then s.mgmtAns m mgREFUSED
    else (s.updVdev (m.at' 0 1) fun v => { v with logBase := base, logK := k, head := 0, tail := 0, drops := 0 }).mgmtAns m mgOK) s

/-! ### Reduction windows and pod joins (11 R207, 17 R294) -/

/-- Node numbers at the end of a payload. -/
def nodesAt (m : Msg) (off n : Nat) : List W16 := (List.range n).map fun i => BitVec.ofNat 16 (m.at' (off + 2 * i) 2)
/-- Where the tree of a window puts its members. -/
def pathsOf (s : State) (l : List W16) : List (W16 × List Nat) := l.map fun n => (n, Config.redPath s.node l n)
def execRedwin (s : State) : Result :=
  mgmt false false (fun s m =>
    let n := m.at' 2 1
    if !payOk m (24 + 2 * n) [(4, 4)] ∨ n < 2 ∨ 64 < n ∨ 2 ^ 57 < m.at' 8 8 + m.at' 16 8 then s.mgmtAns m mgREFUSED
    else match liveCtx s m 3 with
      | .error e => s.mgmtAns m e
      | .ok k =>
        let w : RedWin := { index := m.at' 0 2, ctx := k, base := m.at' 8 8, len := m.at' 16 8, members := nodesAt m 24 n, paths := pathsOf s (nodesAt m 24 n) }
        ({ s with windows := recPut RedWin.index s.windows w.index w, tree := s.tree.filter fun h => h.window != w.index }).mgmtAns m mgOK) s
/-- Both barriers of a join begin with no member and no arrival. -/
def joinSetup (s : State) (j : PodJoin) : State :=
  let s : State := { s with
    joins := (s.joins.filter fun y => y.key != j.key) ++ [j]
    bars := s.bars.filter fun b => !(b.level == .pod && b.owner == j.key) }
  newBars s .pod j.key 2 0
def execPodjoin (s : State) : Result :=
  mgmt false false (fun s m =>
    let n := m.at' 6 1
    if !payOk m (8 + 2 * n) [] ∨ m.at' 0 2 = 0 ∨ m.at' 4 2 = 0 ∨ 1024 < m.at' 4 2 ∨ n = 0 then s.mgmtAns m mgREFUSED
    else match liveCtx s m 7 with
      | .error e => s.mgmtAns m e
      | .ok k =>
        let j : PodJoin := { grp := (s.ctx k).grp, j := BitVec.ofNat 16 (m.at' 0 2), home := BitVec.ofNat 16 (m.at' 2 2), m := m.at' 4 2, members := nodesAt m 8 n }
        if s.joins.any fun y => y.key == j.key && !y.registered.isEmpty then s.mgmtAns m mgREFUSED
        else (joinSetup s j).mgmtAns m mgOK) s

/-! ### Firmware, reset and unknown codes (23 R370, R372) -/

/-- Bytes of a firmware slot (log 45). -/
def slotBytes : Nat := 2 ^ 24
/-- A slot with bytes written at an offset; its last fragment ends it. -/
def slotWrite (l : List Byte) (o : Nat) (bs : List Byte) (last : Bool) : List Byte :=
  (l ++ List.replicate (o - l.length) 0).take o ++ bs ++ (if last then [] else l.drop (o + bs.length))
def execFwwrite (s : State) : Result :=
  mgmt false true (fun s m =>
    let bs := m.pay.drop 8
    let o := m.at' 0 4
    let last : Bool := m.at' 4 1 == 1
    if 1 < m.at' 4 1 ∨ m.at' 5 3 ≠ 0 ∨ bs.length < 8 ∨ 256 < bs.length ∨ slotBytes < o + bs.length then s.mgmtAns m mgREFUSED
    else
      let d := s.die (msgDie m)
      let fl := if d.slotB || d.recov then { s.flash with slotA := slotWrite s.flash.slotA o bs last } else { s.flash with slotB := slotWrite s.flash.slotB o bs last }
      -- New firmware empties the finaliser caches (20 R324).
      let dies := if last then s.dies.map fun (d : Die) => { d with cache := [] } else s.dies
      ({ s with flash := fl, dies := dies }).mgmtAns m mgOK) s
/-- What a package keeps over a reset: its memory, its flash, its clocks, what its paddocks have worn, and which data pins
its channels have lost. -/
def packageReset (s : State) : State :=
  { State.reset with
    part := s.part, mem := s.mem, tags := s.tags, flash := s.flash, node := s.flash.node, free := s.free, uid := s.uid, agenda := s.agenda
    -- The clocks run on (00 R3).
    dies := s.dies.map fun (d : Die) => { id := d.id, cc := d.cc, rest := d.rest, tick := d.tick }
    recordAt := s.recordAt, unitErrs := s.unitErrs, bankRows := s.bankRows, chans := s.chans, outbox := s.outbox
    pdks := s.pdks.map fun p => { id := p.id, wear := p.wear, peaks := p.peaks, wstate := p.wstate, rows := p.rows } }
def execReset (s : State) : Result := mgmt false false (fun s m => packageReset (s.mgmtAns m mgOK)) s
def execMgmtUnknownCode (s : State) : Result := mgmt false false (fun s m => s.mgmtAns m mgUNKNOWN) s

end Sys2Proof.Machine
end

