-- ==== Sys2Proof/Machine/Debug.lean ====
section
/-! DEFINITION. Debug sessions, marks, precise stops, breakpoints, steps, cuts and replay (04 R101, 22 R349-R360). -/
namespace Sys2Proof.Machine

/-! ### Marks (22 R353) -/

/-- Each member writes a TMARK record where a session takes them. -/
def execTmark (tag : W16) (a : SReg) (s : State) : Result :=
  .next (issue (.tmark tag a) s fun s => seqOp s fun s x =>
    (traceAll s x.ck 0 1 (srcOf s x) (leBytes 8 x.pc.toNat ++ leBytes 8 (x.rs a).toNat ++ leBytes 2 tag.toNat ++ List.replicate 14 0)).updSlice
      x.id advance)
def execRdpc (d : SReg) (s : State) : Result := regOp (.rdpc d) (fun x => x.ws d x.pc) s

/-! ### Sessions (22 R349, R352, 23 R374) -/

/-- A breakpoint's word: an address that is a multiple of 8, with the enable in bit 0. -/
def breakOk (w : Nat) : Bool := bitsOf w 1 2 == 0
/-- The part of a session that a request describes; none where a field is out of range. -/
def sessionOf (s : State) (m : Msg) (k id : Nat) : Option Session :=
  let ring := m.at' 3 1
  let n := m.at' 4 1
  let base := m.at' 8 8
  let breaks := (List.range 8).map fun i => m.at' (16 + 8 * i) 8
  if !payOk m 112 [] ∨ ring < 12 ∨ 24 < ring ∨ n < 4 ∨ 20 < n ∨ 32 ≤ m.at' 5 1 ∨ base % 4096 ≠ 0 ∨ s.part.hbmBytes < base + 16 * 2 ^ ring ∨
      !breaks.all breakOk then none
  else some { die := msgDie m, id := id, ctx := k % 64, ringBase := base, ringK := ring, mask := BitVec.ofNat 32 (m.at' 5 1), sample := n
              breaks := breaks.map (BitVec.ofNat 64), events := (List.range 16).map fun i => m.at' (80 + 2 * i) 2, node := BitVec.ofNat 16 (m.at' 6 2) }
/-- The forms of SESSION share the check of their context. -/
def session (op : Nat) (f : State → Msg → Nat → State) (s : State) : Result :=
  mgmt false false (fun s m =>
    if m.at' 1 1 ≠ op then s.mgmtAns m mgREFUSED
    else match liveCtx s m 0 with
      | .error e => s.mgmtAns m e
      | .ok k => f s m k) s
/-- The open part of a session that a command names. -/
def namedSession (s : State) (m : Msg) (k : Nat) : Option Session := (sessionsOf s k).find? fun x => x.id == m.at' 2 1
def execSessionOpen (s : State) : Result :=
  session 0 (fun s m k =>
    match (List.range 4).find? fun i => !(s.sessions.any fun x => x.key == msgDie m * 4 + i) with
    | none => s.mgmtAns m mgREFUSED
    | some i =>
      match sessionOf s m k i with
      | none => s.mgmtAns m mgREFUSED
      | some x =>
        let (u, s) := s.fresh
        (carryIn { s with sessions := s.sessions ++ [{ x with uid := u }] } k).mgmtAns m mgOK [BitVec.ofNat 8 i]) s
/-- What a configuration leaves of a part: its ring where that is unchanged, and the counters whose events are. -/
def configured (x y : Session) : Session :=
  let same : Bool := x.ringBase == y.ringBase && x.ringK == y.ringK
  let counters := Cells.setList [] 0 ((List.range 16).map fun j => if x.events.getD j 0 = y.events.getD j 0 then x.counters.get j else 0)
  { y with uid := x.uid, head := if same then x.head else 0, tail := if same then x.tail else 0, seq := x.seq, dropped := x.dropped, counts := x.counts, counters := counters }
def execSessionConfigure (s : State) : Result :=
  session 1 (fun s m k =>
    match namedSession s m k with
    | none => s.mgmtAns m mgREFUSED
    | some x =>
      match sessionOf s m k x.id with
      | none => s.mgmtAns m mgREFUSED
      | some y => (s.updSession x.key fun _ => configured x y).mgmtAns m mgOK [BitVec.ofNat 8 x.id]) s
/-- A part ends with a cause. -/
def endSession (op cause : Nat) (s : State) : Result :=
  session op (fun s m k =>
    match namedSession s m k with
    | none => s.mgmtAns m mgREFUSED
    | some x => (sessionEnd s x.key cause).mgmtAns m mgOK [BitVec.ofNat 8 x.id]) s
def execSessionResetQueue (s : State) : Result := endSession 2 1 s
def execSessionClose (s : State) : Result := endSession 3 3 s

/-! ### Stops (22 R354, R355) -/

/-- A running block is asked to stop: its slices issue no more than an instruction under way needs. -/
def askStop (s : State) (b : Nat) (r : StopReq) : State :=
  s.updBlock b fun x => if x.run == .running && x.stop.isNone then { unask x with stop := some r } else x
/-- Every slice and every command of the block stands at a boundary, every invoke is answered, and no service of it is in progress; at
a cut a message that is out stays in its channel (02 R50, 22 R354, R358; log 72). -/
def stopReady (s : State) (b : Nat) (cut : Bool) : Bool :=
  !blockService s b && (s.blockSlices b).all (fun x => !midway x && (cut || openInvokes s x == 0)) && s.cmds.all fun c => c.block != b || !underWay c || (cut && c.stage == 2)
/-- Program counter of the first live slice of a block, and the slice. -/
def firstPc (s : State) (b : Nat) : Addr × Nat :=
  match (slotOrder s (s.block b)).find? Slice.isAlive with
  | some x => (x.pc, x.id)
  | none => ((s.block b).entry, 0)
/-- The image of a stopped block; under a protected context sealed with a new counter (18 R311). -/
def stopImage (s : State) (b : Nat) : List Byte × State :=
  let x := s.block b
  let c := s.ctx x.ck
  if !c.prot then (imageBytes s x 4 (fun _ => false) none, s)
  else
    let sc : W64 := BitVec.ofNat 64 (c.sc + 1)
    (imageBytes s x 4 (fun _ => false) (some sc), s.updCtx x.ck fun c => { c.setFld 0x68 8 sc.toNat with recs := recPut Prod.fst c.recs b (b, sc) })
/-- The record that names a stop: BREAK for a breakpoint, STOP for every other cause. -/
def stopRecord (s : State) (b : Nat) (r : StopReq) : State :=
  let x := s.block b
  let src := if s.slices.any fun y => y.id == r.slice then srcOf s (s.slice r.slice) else srcOfBlock x
  let brk : Bool := r.cause.toNat % 16 == 2
  traceAll s x.ck (if brk then 3 else 2) (if brk then 4 else 3) src (leBytes 8 r.pc.toNat ++ [r.cause] ++ List.replicate 23 0)
/-- Where the dump of a stop goes: to the session whose breakpoint or HBRK bit it is, else to the context's first (log 123). -/
def dumpNode (s : State) (k : Nat) (r : StopReq) : Nat :=
  match r.node, sessionsOf s k with
  | some n, _ => n.toNat
  | none, x :: _ => x.node.toNat
  | none, [] => 0xFFFF
/-- A stop that is ready takes place: what has been issued completes, the dump is written, the command is answered. The
images of a cut stand in its section. -/
def finishStop (s : State) (b : Nat) : State :=
  match (s.block b).stop with
  | none => s
  | some r =>
    let answer := fun (s : State) => match r.msg with | some m => s.mgmtAns m mgOK | none => s
    if (s.block b).run != .running then answer (s.updBlock b fun x => { x with stop := none })
    else if !stopReady s b (r.cause == 5) then s
    else
      let s : State := settleBlock s b
      let c := s.ctx (s.block b).ck
      if (s.block b).run != .running then answer (s.updBlock b fun x => { x with stop := none })
      else if c.prot && c.sc == 2 ^ 64 - 1 then answer (killBlock (s.updBlock b fun x => { x with stop := none }) b [])
      else
        let s : State := s.updBlock b fun x => { x with run := .stopped, stop := none, stepping := false, since := s.clk x.die }
        let s : State := s.mapSlices fun y => if y.block == b then { y with steps := none } else y
        let s : State := { s with pdks := s.pdks.map fun p => { p with waiters := p.waiters.filter fun w => !(w.members.any fun i => (s.slice i).block == b) } }
        let s : State :=
          if r.cause == 5 then s
          else
            let (bs, s) := stopImage s b
            { s with dumps := s.dumps ++ [(dumpNode s (s.block b).ck r, bs)] }
        answer (stopRecord s b r)
/-- Every stop that can take place does. -/
def finishStops (s : State) : State := ((s.blocks.filter fun b => b.stop.isSome).map Block.id).foldl finishStop s

/-- `hbrk` while no session of the context stops at it: BRK, resumed at the next instruction (04 R101). -/
def brkTrap (s : State) (id : Nat) : State :=
  let x := s.slice id
  takeTrap s id { trapAt s x tBRK 0 0 with rpc := x.pc + 8 }
/-- The session of the context that stops its blocks at `hbrk`. -/
def hbrkSession (s : State) (x : Slice) : Option Session := (sessionsOf s x.ck).find? fun y => y.on 4
/-- One at a breakpoint that has stopped its block does not stop it again (22 R356). -/
def execHbrk (s : State) : Result :=
  .next (issue .hbrk s fun s => seqOp s fun s x =>
    match hbrkSession s x with
    | none => brkTrap s x.id
    | some y =>
      let s : State := if x.bpDone == some x.pc then s else askStop s x.block { cause := 1, pc := x.pc, slice := x.id, node := some y.node }
      s.updSlice x.id fun x => { advance x with run := .ready })

/-- An enabled breakpoint of a session of the context at an address: where the session's dumps go, and its index. -/
def breakAt (s : State) (k : Nat) (a : Addr) : Option (W16 × Nat) :=
  (sessionsOf s k).findSome? fun x =>
    ((List.range 8).find? fun i => let w := x.breaks.getD i 0; w.getLsbD 0 && w &&& ~~~1 == a).map fun i => (x.node, i)
/-- A slice stands at a breakpoint that it has not passed (22 R356). -/
def breakDue (s : State) (x : Slice) : Bool :=
  x.bpDone != some x.pc && (s.block x.block).run == .running && (s.block x.block).stop.isNone && !x.pc.getLsbD 0 && (breakAt s x.ck x.pc).isSome
/-- A slice about to issue a breakpoint's word stops its block; when it continues, its group passes the word once. A handler
slice finishes its service first (22 R354, R356). -/
def execBreakpointStop (slice : Nat) (s : State) : Result :=
  let x := s.slice slice
  match breakAt s x.ck x.pc with
  | none => .next s
  | some (n, i) =>
    if !breakDue s x then .next s
    else
      let ids := formGroup s x
      let s : State := s.mapSlices fun y => if ids.contains y.id then { y with bpDone := some y.pc } else y
      .next (finishStop (askStop s x.block { cause := BitVec.ofNat 8 (2 + 16 * i), pc := x.pc, slice := slice, node := some n }) x.block)

/-! ### Stop, step, continue and kill by command (22 R354-R357, 23 R374) -/

/-- A block of a context that has not ended, by its `%blk`. -/
def blockNamed (s : State) (k blk : Nat) : Option Block := s.blocks.find? fun b => b.ck == k && b.run != .ended && b.blk.toNat == blk
/-- The forms of STOP, STEP and CONT share their fields. -/
def debugOp (op : Nat) (f : State → Msg → Block → State) (s : State) : Result :=
  mgmt false false (fun s m =>
    if !payOk m 16 [(10, 6)] ∨ m.at' 1 1 ≠ op then s.mgmtAns m mgREFUSED
    else match liveCtx s m 0 with
      | .error e => s.mgmtAns m e
      | .ok k =>
        match blockNamed s k (m.at' 4 6) with
        | none => s.mgmtAns m mgREFUSED
        | some b => if (sessionsOf s k).isEmpty then s.mgmtAns m mgREFUSED else f s m b) s
def execDebugStop (s : State) : Result :=
  debugOp 0 (fun s m b =>
    if b.run != .running then s.mgmtAns m mgREFUSED
    else if b.stop.isSome then s.mgmtAns m mgBUSY
    else
      let p := firstPc s b.id
      finishStop (askStop s b.id { cause := 3, pc := p.1, slice := p.2, msg := some m }) b.id) s
/-- Commands of a block that goes on are entered again at the ends of their queues; the time it was stopped counts in none of
their stages (18 R312, 22 R355, R361). -/
def reenter (s : State) (b : Nat) : State :=
  let n := s.clk (s.block b).die - (s.block b).since
  let late := fun (c : Command) => { c with entered := c.entered + n, since := c.since + n, due := if c.status = 3 then c.due + n else c.due }
  let again := fun (c : Command) => c.block == b && c.stage != 2 && c.stage != 3
  let f := fun (c : Command) =>
    { late c with flags := if c.status = 0 then c.flags else c.flags ||| 4, stage := if c.stage = 1 ∨ c.stage = 4 then c.stage else 0 }
  { s with cmds := ((s.cmds.filter fun c => !again c).map fun c => if c.block == b then late c else c) ++ (s.cmds.filter again).map f }
/-- Slices of a stopped block go on, each as a group of its own with eight interlocked instructions; an `alloc` is issued
again, and every other wait stands where it was (18 R312). -/
def resumeBlock (s : State) (b : Nat) (steps : Option Nat) : State :=
  let s : State := (reenter s b).updBlock b fun x => { x with run := .running, stepping := steps.isSome }
  settle (s.mapSlices fun x =>
    if x.block == b && !x.handler && x.run != .retired then
      { x with
        gm := (1 : BitVec 4) <<< x.idx, interlock := 8, nextIssue := s.clk x.die, steps := steps
        run := match x.run with
          | .waiting (.alloc _) => .ready
          | r => r }
    else x)
/-- The slices whose lanes have all exited leave when their block goes on by single slices. -/
def contBlock (s : State) (b : Nat) (steps : Option Nat) : State :=
  let gone := (s.blockSlices b).filter fun x => x.run != .retired && x.alive == 0
  gone.foldl (fun (s : State) x => retireSlice s x.id) (resumeBlock s b steps)
def execDebugContinue (s : State) : Result :=
  debugOp 2 (fun s m b => if b.run != .stopped then s.mgmtAns m mgREFUSED else (contBlock s b.id none).mgmtAns m mgOK) s
def execDebugStep (s : State) : Result :=
  debugOp 1 (fun s m b =>
    if b.run != .stopped ∨ m.at' 2 2 = 0 then s.mgmtAns m mgREFUSED
    else
      let s : State := contBlock s b.id (some (m.at' 2 2))
      { s with asked := s.asked ++ [(m, [b.id])] }) s
def execDebugKill (s : State) : Result :=
  debugOp 3 (fun s m b => if b.run != .stopped then s.mgmtAns m mgREFUSED else (killBlock s b.id []).mgmtAns m mgOK) s

/-- A slice that a step no longer moves: it has issued its count, or it holds. -/
def stepOver (s : State) (x : Slice) : Bool :=
  x.steps == some 0 ||
    match x.run with
    | .ready => false
    | .waiting (.yield _) => false
    | .waiting w => !waitMet s x w
    | _ => true
/-- The step of a block is over. -/
def stepDue (s : State) (b : Nat) : Bool :=
  (s.block b).stepping && (s.block b).run == .running && (s.block b).stop.isNone && (s.blockSlices b).all fun x => !x.isAlive || (stepOver s x && !midway x)
/-- The block stops again with cause 4 and writes a new dump. -/
def execStepEnd (block : Nat) (s : State) : Result :=
  if !stepDue s block then .next s
  else
    let p := firstPc s block
    .next (finishStop (askStop s block { cause := 4, pc := p.1, slice := p.2 }) block)

/-! ### Cuts (22 R358, R359) -/

/-- What a cut names: its number, members and destination, as its command and this model's markers carry them (log 46). -/
structure CutArgs where
  num : W32 := 0
  dest : W16 := 0
  members : List W16 := []
  deriving DecidableEq, Repr
/-- A MARKER's payload, whose layout the manual does not give (log 46): number 4; source die 1; member count 1;
destination 2; member nodes 2 each. -/
def markerPayload (a : CutArgs) (d : Nat) : List Byte :=
  leBytes 4 a.num.toNat ++ [BitVec.ofNat 8 d, BitVec.ofNat 8 a.members.length] ++ leBytes 2 a.dest.toNat ++ a.members.flatMap fun n => leBytes 2 n.toNat
/-- Every die of every member but the one given. -/
def cutPeers (s : State) (a : CutArgs) (d : Nat) : List (W16 × Nat) :=
  (a.members.flatMap fun n => (List.range s.part.dies).map fun e => (n, e)).filter fun p => p != (s.node, d)
/-- Contexts of a pod group on a die. -/
def groupCtxs (s : State) (d : Nat) (g : W16) : List Nat := (s.ctxs.filter fun c => c.die == d && c.valid && c.grp == g).map Ctx.id
/-- Blocks of a pod group on a die. -/
def groupBlocks (s : State) (d : Nat) (g : W16) : List Block := s.blocks.filter fun b => b.die == d && (groupCtxs s d g).contains b.ck && b.run != .ended
/-- A die's marker goes to a die, behind the messages that the die had sent there before (22 R359). -/
def sendMarker (g : W16) (a : CutArgs) (d : Nat) (s : State) (p : W16 × Nat) : State :=
  let t := s.tagSeq
  let m := (mkMsg s p.1 mMARKER 0 false p.2 g t 0 0 (markerPayload a d)).ofDie d
  let s : State := { s with tagSeq := t + 1 }
  if s.resend.any fun r => !r.sent && sameWay r.msg m then { s with resend := s.resend ++ [{ msg := m, refusals := 0, due := s.hopClk }] } else s.emit m
/-- A die records a cut: its markers go out, its blocks stop, and its messages of the group are held back. -/
def recordCut (s : State) (d : Nat) (g : W16) (a : CutArgs) (asked : Option Msg) : State :=
  let s : State := (groupCtxs s d g).foldl (fun (s : State) k => (sessionsOf s k).foldl (fun (s : State) x =>
    traceOne s x.key 5 {} (leBytes 4 a.num.toNat ++ leBytes 2 g.toNat ++ List.replicate 10 0)) s) s
  let peers := cutPeers s a d
  let s : State := peers.foldl (sendMarker g a d) s
  let s : State := { s with cuts := s.cuts ++ [
    { die := d, cc := s.cc d, grp := g, num := a.num, due := peers, members := a.members, dest := a.dest, asked := asked }] }
  (groupBlocks s d g).foldl (fun (s : State) b =>
    let p := firstPc s b.id
    finishStop (askStop s b.id { cause := 5, pc := p.1, slice := p.2 }) b.id) s
/-- A channel record: source node 2, source die 1, arrival, header, payload, padded to 16 bytes. -/
def channelRecord (p : W64 × Msg) : List Byte :=
  let b := leBytes 2 p.2.src.toNat ++ [BitVec.ofNat 8 p.2.die] ++ leBytes 5 0 ++ leBytes 8 p.1.toNat ++ msgHdr p.2 ++ p.2.pay
  b ++ List.replicate ((16 - b.length % 16) % 16) 0
/-- The images of the stopped blocks of a cut, in the order of the blocks. -/
def cutImages (s : State) : List Block → List Byte × State
  | [] => ([], s)
  | b :: t =>
    let (i, s) := stopImage s b.id
    let (r, s) := cutImages s t
    (i ++ r, s)
/-- The section of a die (22 R359). -/
def cutSection (s : State) (c : Cut) : List Byte × State :=
  let bs := (groupBlocks s c.die c.grp).filter fun b => b.run == .stopped
  let (imgs, s) := cutImages s bs
  (leBytes 4 c.num.toNat ++ leBytes 2 c.grp.toNat ++ leBytes 2 s.node.toNat ++ [BitVec.ofNat 8 c.die] ++ List.replicate 7 0 ++ leBytes 8 c.cc.toNat ++
    leBytes 4 bs.length ++ leBytes 4 c.channel.length ++ List.replicate 32 0 ++ imgs ++ c.channel.flatMap channelRecord, s)
def updCut (s : State) (d : Nat) (g : W16) (f : Cut → Cut) : State :=
  { s with cuts := s.cuts.map fun c => if c.die == d && c.grp == g then f c else c }
/-- What a slice or a command of a block awaits, with its place in the block's image (log 124). -/
def openReq (s : State) (a : Await) : Option OpenReq :=
  let id := if a.kind < 2 then a.slice else ((s.cmd a.cmd).map Command.slice).getD 0
  (s.slices.find? fun x => x.id == id).map fun x =>
    let b := s.block x.block
    { blk := b.blk, entry := b.entry, gid := x.gid, idx := x.idx
      cmd := if a.kind < 2 then none else (blockCmds s b.id).findIdx? fun y => y.id == a.cmd
      wait := a }
/-- The answers that the blocks of a section await are kept under the CTXIDs of its images. -/
def keepOpens (s : State) (c : Cut) : State :=
  (groupCtxs s c.die c.grp).foldl (fun (s : State) k =>
    let id := ctxId s.node (k / 64) (k % 64)
    let c : Carried := recGet Carried.id {} s.carried id
    { s with carried := recPut Carried.id s.carried id { c with id := id, opens := (s.awaits.filter fun a => a.ctx == k).filterMap (openReq s) } }) s
/-- Once every marker has come and every block has stopped, the die's section is written; the command, which may come later, is
answered. -/
def cutSettle (s : State) (c : Cut) : State :=
  let s : State :=
    if c.written || !c.due.isEmpty || (groupBlocks s c.die c.grp).any (fun b => b.run == .running) then s
    else
      let (bs, s) := cutSection (keepOpens s c) c
      updCut { s with dumps := s.dumps ++ [(c.dest.toNat, bs)] } c.die c.grp fun c => { c with written := true }
  match c.asked, s.cuts.find? fun y => y.die == c.die && y.grp == c.grp with
  | some m, some y => if y.written && !y.told then (updCut s c.die c.grp fun c => { c with told := true }).mgmtAns m mgOK else s
  | _, _ => s
def cutsSettle (s : State) : State := s.cuts.foldl cutSettle s
/-- The forms of CUT share their fields. -/
def cutOp (op : Nat) (f : State → Msg → W16 → CutArgs → State) (s : State) : Result :=
  mgmt false false (fun s m =>
    let n := m.at' 6 1
    if !payOk m (16 + 2 * n) [(10, 6)] ∨ m.at' 7 1 ≠ op then s.mgmtAns m mgREFUSED
    else f s m (BitVec.ofNat 16 (m.at' 4 2)) { num := BitVec.ofNat 32 (m.at' 0 4), dest := BitVec.ofNat 16 (m.at' 8 2), members := nodesAt m 16 n }) s
def execCutStart (s : State) : Result :=
  cutOp 0 (fun s m g a =>
    let d := msgDie m
    match s.cuts.find? fun c => c.die == d && c.grp == g with
    | none => if (groupCtxs s d g).isEmpty || !a.members.contains s.node then s.mgmtAns m mgREFUSED else cutsSettle (recordCut s d g a (some m))
    | some c =>
      if c.num != a.num || c.asked.isSome then s.mgmtAns m mgBUSY
      else cutsSettle (updCut s d g fun c => { c with asked := some m, dest := if c.written then c.dest else a.dest })) s
/-- The cut is over: what was held is delivered in the order of arrival, the blocks go on, and the die's own messages leave. -/
def releaseCut (s : State) (c : Cut) : State :=
  let s : State := { s with cuts := s.cuts.filter fun x => !(x.die == c.die && x.grp == c.grp) }
  let s : State := c.held.foldl deliverMsg s
  let s : State := ((groupBlocks s c.die c.grp).filter fun b => b.run == .stopped).foldl (fun (s : State) b => contBlock s b.id none) s
  c.out.foldl State.send s
/-- Both ends of a cut. -/
def endCut (op : Nat) (s : State) : Result :=
  cutOp op (fun s m g a =>
    match s.cuts.find? fun c => c.die == msgDie m && c.grp == g && c.num == a.num with
    | none => s.mgmtAns m mgREFUSED
    | some c => if !c.told then s.mgmtAns m mgBUSY else (releaseCut s c).mgmtAns m mgOK) s
def execCutContinue (s : State) : Result := endCut 1 s
def execCutEnd (s : State) : Result := endCut 2 s
/-- A marker closes the channel from its source, and has a die record that had not; it waits for the messages before it that
this die has refused, and what comes behind it waits for it (22 R359). -/
def execMarker (s : State) : Result :=
  let m := s.msg
  let d := msgDie m
  if !wellSent m then .next { s with drops := s.drops + 1 }
  else if markerWaits s m then .next { s with behind := s.behind ++ [m] }
  else
    let a : CutArgs := { num := BitVec.ofNat 32 (m.at' 0 4), dest := BitVec.ofNat 16 (m.at' 6 2), members := nodesAt m 8 (m.at' 5 1) }
    let s : State := if s.cuts.any fun c => c.die == d && c.grp == m.grp then s else if s.part.dies ≤ d then s else recordCut s d m.grp a none
    .next (cutsSettle (updCut s d m.grp fun c => if c.num = a.num then { c with due := c.due.erase (m.src, m.at' 4 1) } else c))

/-! ### Replay (22 R360) -/

/-- A message as its header and payload give it. -/
def readMsg (bs : List Byte) : Msg :=
  let w := fun o => (BitVec.ofNat 16 (leAt bs o 2) : W16)
  { dst := w 0, src := w 2, type := BitVec.ofNat 8 (leAt bs 4 1), ctl := BitVec.ofNat 8 (leAt bs 5 1), grp := w 6, tag := w 8, gen := w 10, len := w 12
    arg := w 14, payload := (bs.drop 16).take (leAt bs 12 2) }
/-- Channel records one after another, each from its source die. -/
def readChannel : Nat → List Byte → List Msg
  | 0, _ => []
  | n + 1, bs =>
    let m := (readMsg (bs.drop 16)).ofDie (leAt bs 2 1)
    let len := (32 + m.len.toNat + 15) / 16 * 16
    m :: readChannel n (bs.drop len)
/-- The images of a section, each at its place, become saved blocks of the context, which are held. -/
def importImages (k : Nat) : Nat → Nat → State → Option (State × Nat)
  | 0, a, s => some (s, a)
  | n + 1, a, s =>
    let len := leNat (s.rd (a + 0x10) 8)
    if len < 64 then none
    else match (if (s.ctx k).prot then importSealed s k a len else importImage s k a len true) with
      | none => none
      | some s => importImages k n (a + len) s
/-- Blocks of a replayed group on a die that have not come back yet. -/
def stillAway (s : State) (d : Nat) (g : W16) : Bool :=
  s.saved.any fun v => let b := s.block v.block; b.hold && b.die == d && (s.ctx b.ck).grp == g
/-- A die whose blocks have come back has loaded its section: its channel records are delivered, then what came meanwhile, and the
command is answered. -/
def sectionLoaded (g : W16) (s : State) (w : Nat × List Msg × Msg) : State :=
  if stillAway s w.1 g then s
  else
    let mine := (s.replays.filter fun r => r.grp == g).flatMap fun r => r.held.filter fun m => msgDie m == w.1
    let s : State := { s with replays := s.replays.map fun r => if r.grp == g then
      { r with loaded := w.1 :: r.loaded, waiting := r.waiting.erase w, held := r.held.filter fun m => msgDie m != w.1 } else r }
    ((w.2.1 ++ mine).foldl deliverMsg s).mgmtAns w.2.2 mgOK
/-- With the last die of the package that holds a context of the group, issue is released (log 96). -/
def replaySettle (s : State) (r : Replay) : State :=
  let s : State := r.waiting.foldl (sectionLoaded r.grp) s
  if (List.range s.part.dies).all fun e => (ctxOfGrp s e r.grp).isNone || s.replays.any fun q => q.grp == r.grp && q.loaded.contains e then
    { s with replays := s.replays.filter (fun q => q.grp != r.grp)
             blocks := s.blocks.map fun b => if (s.ctx b.ck).grp == r.grp then { b with hold := false } else b }
  else s
def replaysSettle (s : State) : State := s.replays.foldl replaySettle s
/-- The section of a die: its images become saved blocks, which come back under R312; the command is answered once the section is
loaded. -/
def execReplay (s : State) : Result :=
  mgmt false false (fun s m =>
    let a := m.at' 8 8
    let len := m.at' 16 8
    let h := s.rd a 64
    if !payOk m 24 [(2, 6)] ∨ len < 64 ∨ s.part.hbmBytes < a + len ∨ leAt h 4 2 ≠ m.at' 0 2 then s.mgmtAns m mgREFUSED
    else match ctxOfGrp s (msgDie m) (BitVec.ofNat 16 (m.at' 0 2)) with
      | none => s.mgmtAns m mgREFUSED
      | some k =>
        match importImages k (leAt h 0x18 4) (a + 64) s with
        | none => s.mgmtAns m mgREFUSED
        | some (t, b) =>
          if a + len < b then s.mgmtAns m mgREFUSED
          else
            let g : W16 := BitVec.ofNat 16 (m.at' 0 2)
            let r := (t.replays.find? fun r => r.grp == g).getD { grp := g }
            { t with replays := t.replays.filter (fun r => r.grp != g) ++
                [{ r with waiting := r.waiting ++ [(msgDie m, readChannel (leAt h 0x1C 4) (t.rd b (a + len - b)), m)] }] }) s

end Sys2Proof.Machine
end

