-- ==== Sys2Proof/Machine/Power.lean ====
section
/-! DEFINITION. Self-tests, failover, wear, clock and rails, bring-up (18 R317, 21 R341-R347, 23 R367-R370). -/
namespace Sys2Proof.Machine

/-! ### Wear (21 R344-R347) -/

/-- A wear unit in the 2^-40 wu in which wear is kept. -/
def wuOne : Nat := 2 ^ 40
/-- The state that a paddock's wear gives it. -/
def wearStateOf (w : Nat) : WearState :=
  if w < 212500000 * wuOne then .nominal else if w < 242500000 * wuOne then .derated else if w < 250000000 * wuOne then .drained else .retired
/-- States move one way; a paddock that a fault has retired stays so. -/
def wearMoves (p : Pdk) : WearState := if p.wstate == .retired then .retired else wearStateOf p.wear
/-- An entry of the management error log of a die, by which management reports it. -/
def logError (s : State) (d : Nat) (e : ErrEntry) : State := s.updDie d fun x => { x with errlog := x.errlog ++ [e] }
/-- Blocks on a paddock that is retired are asked to leave it. -/
def emptyPdk (s : State) (pk : Nat) : State :=
  ((s.blocks.filter fun b => holdsPlace b && b.pdks.any fun p => (b.die * 48 + b.core) * 4 + p == pk).map Block.id).foldl
    (fun (s : State) b => askPreempt s b 1) s
/-- The growth of a paddock's wear in 1 ms at a rate in 2^-8, to the nearest 2^-40 wu (log 47). -/
def wearStep (a : Nat) : Nat := (a * 2 ^ 32 + 500) / 1000
/-- Charges wear to a context; `%wu` shows what has accumulated, truncated to 2^-20 wu. -/
def chargeCtx (s : State) (k x : Nat) : State :=
  s.updCtx k fun c => { c with wu := c.wu + BitVec.ofNat 64 ((c.wuLow + x) / 2 ^ 20), wuLow := (c.wuLow + x) % 2 ^ 20 }
/-- The peak rate of each day, of 86 400 s of the die's clock (21 R346; log 81). -/
def dayPeak (l : List (Nat × Nat)) (now a : Nat) : List (Nat × Nat) :=
  let d := now / (86400 * 1750000000)
  recPut Prod.fst l d (d, max (((l.find? fun p => p.1 == d).map (·.2)).getD 0) a)
/-- One paddock's millisecond: its wear, and the charge of each context in proportion to its issue time. -/
def wearPdk (s : State) (d : Nat) (r : Nat × Nat) : State :=
  let pk := d * 192 + r.1 % 192
  let p := s.pdk pk
  let n := wearStep r.2
  let t := s.clk d - (s.die d).tick
  let s : State := (issueTimes s p).foldl (fun (s : State) c => if t = 0 then s else chargeCtx s (d * 64 + c.1) (n * c.2 / t)) s
  let q : Pdk := { p with wear := p.wear + n, peaks := dayPeak p.peaks (s.clk d) r.2, shares := [] }
  let q := { q with wstate := wearMoves q }
  let s : State := s.updPdk pk fun _ => q
  if q.wstate == .retired && p.wstate != .retired then emptyPdk (logError s d (.retired pk)) pk else s
/-- A millisecond of a die's time has gone by since its last tick. -/
def wearDue (s : State) (die : Nat) : Bool := decide (die < s.part.dies) && decide ((s.die die).tick + 1750000 ≤ s.clk die)
/-- What the monitors of a die report: rates up to 4, in 2^-8 (21 R344, R346). -/
def readRates (s : State) (die : Nat) : List (Nat × Nat) := (List.range 192).map fun i => (i, min 1024 (Config.ageRate die i (s.clk die)))
/-- A millisecond of a die: the rates of its paddocks are read from their monitors; an unlisted one has rate 0. -/
def execWearTick (die : Nat) (rates : List (Nat × Nat)) (s : State) : Result :=
  let s : State := rates.foldl (fun (s : State) r => wearPdk s die r) s
  let s : State := { s with pdks := s.pdks.map fun (p : Pdk) => if p.id / 192 == die then { p with shares := [] } else p }
  .next (s.updDie die fun d => { d with tick := s.clk die })
/-- The lifetime record of the paddocks and the error counts of the dies. -/
def writeRecord (s : State) (closed : Bool) : State :=
  { s with flash := { s.flash with
      record := s.pdks.map fun (p : Pdk) => { id := p.id, wear := p.wear, wstate := p.wstate, peaks := p.peaks }
      errs := s.dies.map fun (d : Die) => (d.id, d.errcnt)
      closed := closed } }
/-- 60 s have gone by since the last write, by the clock of die 0 (log 81). -/
def recordDue (s : State) : Bool := decide (s.recordAt + 60 * 1750000000 ≤ s.clk 0)
def execLifetimeRecordWrite (s : State) : Result := .next { writeRecord s false with recordAt := s.clk 0 }

/-! ### Self-tests (21 R341, R343) -/

/-- A paddock is retired: fenced, and its blocks leave; management reports it (21 R341, R347). -/
def retirePdk (s : State) (pk : Nat) : State :=
  emptyPdk (logError (s.updPdk pk fun p => { p with wstate := .retired }) (pk / 192) (.retired pk)) pk
/-- A failed row of a paddock's quadrant is replaced by one of its two spares; without one the paddock is retired (15 R269). -/
def repairRow (s : State) (pk : Nat) : State :=
  if (s.pdk pk).rows = 0 then retirePdk s pk else s.updPdk pk fun p => { p with rows := p.rows - 1 }
/-- The paddocks of a bank's core are retired. -/
def retireCore (s : State) (core : Nat) : State := [0, 1, 2, 3].foldl (fun (s : State) p => retirePdk s (core * 4 + p)) s
/-- A failed row of a bank is replaced by a spare one; without one the bank's core is retired (21 R341; log 105). -/
def repairBank (s : State) (core : Nat) : State :=
  let n := ((s.bankRows.find? fun p => p.1 == core).map (·.2)).getD 0
  if Config.bankSpares core ≤ n then retireCore s core else { s with bankRows := recPut Prod.fst s.bankRows core (core, n + 1) }
def State.chan (s : State) (n : Nat) : Chan := recGet Chan.id { id := n } s.chans n
def State.updChan (s : State) (n : Nat) (f : Chan → Chan) : State := { s with chans := recPut Chan.id s.chans n (f (s.chan n)) }
/-- A failed data pin is swapped for a redundant lane while the channel pauses; without one, the channel runs on, and
management reports it. -/
def repairPin (s : State) (n : Nat) : State :=
  let d := n % s.part.dies
  if (s.chan n).lanes = 0 then (logError s d (.bare n)).updChan n fun c => { c with bare := true }
  else s.updChan n fun c => { c with lanes := c.lanes - 1, paused := true, since := s.clk d }
/-- A link or port that cannot be trained again is fenced; with a die-to-die boundary, the two dies that it joins show it
(21 R339, 23 R375; log 104). -/
def fencePort (s : State) (n : Nat) : State :=
  let s : State := s.updPort n fun p => { p with fenced := true }
  if n < s.part.ports then s
  else
    let d := n - s.part.ports
    { s with fenced := s.fenced ||| (1 : BitVec 4) <<< d ||| (1 : BitVec 4) <<< ((d + 1) % s.part.dies) }
/-- What the outcome of a unit's test does: repair, retirement or fencing. -/
def testOutcome (s : State) (unit : TestUnit) (r : TestResult) : State :=
  match unit, r with
  | .paddock pk, .lasting => (retirePdk s pk)
  | .paddock pk, .repaired => (repairRow s pk)
  | .bank core, .repaired => repairBank s core
  | .bank core, .lasting => retireCore s core
  | .channel n, .repaired => (repairPin s n)
  | .channel n, .lasting => (repairPin s n)
  | .port n, .lasting => (if n < portCount s.part then fencePort s n else s)
  | .port n, _ => (s.updPort n fun p => { p with fails := 0 })
  | _, _ => s
/-- A targeted self-test ends; its outcome goes to the error log. A unit that passes returns to service. -/
def execSelfTestDone (unit : TestUnit) (r : TestResult) (s : State) : Result :=
  .next (testOutcome (logError { s with tests := s.tests.filter fun t => t.unit != unit } (unitDie s.part unit) (.test unit r)) unit r)
/-- A test has run its time. -/
def testDue (s : State) (t : SelfTest) : Bool := decide (t.due ≤ s.clk (unitDie s.part t.unit))
/-- A unit that the part has. -/
def unitKnown (p : Part) : TestUnit → Bool
  | .paddock n => decide (n < 192 * p.dies)
  | .bank n => decide (n < 48 * p.dies)
  | .channel _ => true
  | .port n => decide (n < portCount p)
/-- A unit finds an error: a corrected one is counted, after another it is tested (21 R339, R341). -/
def unitError (s : State) (u : TestUnit) (ok : Bool) : State :=
  if !unitKnown s.part u then s else if ok then corrected s u else beginTest s u
/-- The pause of a channel has lasted its 2 ms. -/
def chanDue (s : State) (c : Chan) : Bool := c.paused && decide (c.since + 3500000 ≤ s.clk (c.id % s.part.dies))
/-- A paused channel resumes. -/
def execHbmChannelResume (channel : Nat) (s : State) : Result := .next (s.updChan channel fun c => { c with paused := false })

/-! ### Failover (18 R317) -/

/-- An uncorrectable error in the active core's instruction memory begins a takeover, or leaves the die without a
controller; the next such step ends the takeover, and what was held back is sent. -/
def execFailover (die : Nat) (s : State) : Result :=
  let d := s.die die
  if s.part.dies ≤ die ∨ d.failed then .next s
  else if d.failover then
    let s : State := s.updDie die fun x => { x with failover := false, held := [] }
    .next (d.held.foldl State.send s)
  else if d.standby then .next ((logError s die .controller).updDie die fun x => { x with failover := true, standby := false })
  else
    let s : State := (logError s die .controller).updDie die fun x => { x with failed := true }
    let s : State := { s with fenced := s.fenced ||| (1 : BitVec 4) <<< die }
    .next (((s.ctxs.filter fun c => c.die == die && c.valid).map Ctx.id).foldl killContext s)

/-! ### Clock and rails (23 R367, R369) -/

def execThermalDerate (die : Nat) (s : State) : Result := .next (s.updDie die fun d => { d with derated := true })
def execThermalRestore (die : Nat) (s : State) : Result := .next (s.updDie die fun d => { d with derated := false })
/-- Every rail is down: all work and all memory is lost; flash keeps what it holds. -/
def railsDown (s : State) : State :=
  { State.reset with part := s.part, flash := s.flash, node := s.flash.node, free := s.free, uid := s.uid, agenda := s.agenda, powered := false }
def execThermalShutdown (s : State) : Result := .next (railsDown s)
def execRailFault (s : State) : Result := .next (railsDown s)
/-- An orderly power-down closes the lifetime record and lowers the rails. -/
def execPowerDown (s : State) : Result := .next (railsDown (writeRecord s true))

/-! ### Bring-up (23 R370) -/

/-- Wear of the paddocks as bring-up reads it: 240 wu more each where no orderly power-down closed the record. -/
def readRecord (s : State) : List Pdk :=
  let f := s.flash
  let of := fun (r : WearRec) => ({ id := r.id, wear := r.wear, peaks := r.peaks, wstate := r.wstate } : Pdk)
  if f.closed then f.record.map of
  else (List.range (192 * s.part.dies)).map fun i =>
    let p := of (recGet WearRec.id { id := i } f.record i)
    let q : Pdk := { p with wear := p.wear + 240 * wuOne }
    { q with wstate := wearMoves q }
/-- A die's firmware: slot A, else slot B, else recovery. -/
def bootDie (s : State) (finaliserOk : BitVec 4) (d : Nat) : Die :=
  let a := Config.firmwareOk d s.flash.slotA
  let b := Config.firmwareOk d s.flash.slotB
  let x := s.die d
  -- The clock runs on while the rails stay up; it starts anywhere when they come up (00 R3; log 93).
  let now := if s.powered then x.cc else Config.clockStart d s.free
  { x with cc := now, tick := if s.powered then x.tick else now, slotB := !a && b, recov := !a && !b, finaliserOk := finaliserOk.getLsbD d }
/-- Step 4 of bring-up: the units of a die that fail their tests are repaired or taken out of service. -/
def bootTests (s : State) (d : Nat) : State :=
  if (s.die d).recov then s
  else
    let l := (Config.bootFaults d s.free).filter fun p => unitKnown s.part p.1 && unitDie s.part p.1 == d
    let s : State := l.foldl (fun (s : State) p => testOutcome s p.1 p.2) s
    { s with chans := s.chans.map fun c => { c with paused := false } }
/-- Every die boots, once after the rails rise or a reset; the package is ready when none is in recovery. Bit `d` of the mask: the
finaliser firmware verifies on die `d`. The rails rise here, as one bit (log 116). -/
def execBringUp (finaliserOk : BitVec 4) (s : State) : Result :=
  if s.powered && s.booted then .next s
  else
    let pdks := if s.powered then s.pdks else readRecord s
    let dies := (List.range s.part.dies).map (bootDie s finaliserOk)
    let t : State := { s with
      powered := true, booted := true, pdks := pdks, dies := dies, flash := { s.flash with closed := false }
      recordAt := if s.powered then s.recordAt else (dies.head?.map Die.cc).getD 0
      bootReady := dies.all fun d => !d.recov }
    .next ((List.range s.part.dies).foldl bootTests t)

end Sys2Proof.Machine
end

