-- ==== Sys2Proof/Machine/Scalar.lean ====
section
/-! DEFINITION. Scalar, mask and capability instructions (04 R80-R87). -/
namespace Sys2Proof.Machine

/-- `D := f A B` of a scalar word (04 R81). -/
def binS (d a : SReg) (b : SrcB) (f : W64 → W64 → W64) (x : Slice) : Slice := x.ws d (f (x.rs a) (x.rb b))
/-- `D := f A`. -/
def unS (d a : SReg) (f : W64 → W64) (x : Slice) : Slice := x.ws d (f (x.rs a))

/-- High half of the product (04 R81). -/
def mulHigh (signed : Bool) (a b : W64) : W64 :=
  if signed then BitVec.ofInt 64 (a.toInt * b.toInt / 2 ^ 64) else BitVec.ofNat 64 (a.toNat * b.toNat / 2 ^ 64)
/-- Quotient and remainder (04 R82). -/
def divS (signed : Bool) (a b : W64) : W64 :=
  if b = 0 then -1
  else if signed then BitVec.ofInt 64 (a.toInt.tdiv b.toInt) else BitVec.ofNat 64 (a.toNat / b.toNat)
def remS (signed : Bool) (a b : W64) : W64 :=
  if b = 0 then a
  else if signed then BitVec.ofInt 64 (a.toInt.tmod b.toInt) else BitVec.ofNat 64 (a.toNat % b.toNat)
/-- Shifts by a whole 64-bit count (04 R81). -/
def shlS (a b : W64) : W64 := if b.toNat < 64 then a <<< b.toNat else 0
def shrS (a b : W64) : W64 := if b.toNat < 64 then a >>> b.toNat else 0
def sraS (a b : W64) : W64 := a.sshiftRight (min b.toNat 64)
/-- Lesser and greater. -/
def minS (signed : Bool) (a b : W64) : W64 := if condS .lt signed b a then b else a
def maxS (signed : Bool) (a b : W64) : W64 := if condS .gt signed b a then b else a
/-- The low bits of a value extended as the type says. -/
def extendS (t : Ty) (a : W64) : W64 := BitVec.ofInt 64 (elemInt t.signed t.width (a.toNat % 2 ^ t.width))
/-- A bit field (04 R81). -/
def bfeS (signed : Bool) (pos w : Nat) (a : W64) : W64 := BitVec.ofInt 64 (elemInt signed w (bitsOf a.toNat pos w))
def bfiS (pos w : Nat) (d a : W64) : W64 :=
  let m : W64 := BitVec.ofNat 64 (2 ^ w - 1) <<< pos
  (d &&& ~~~m) ||| ((a <<< pos) &&& m)
/-- Index of the lowest 1 bit, or 32 (04 R84). -/
def firstOne (a : W32) : Nat := ((List.range 32).find? fun i => a.getLsbD i).getD 32

def execSadd (d a : SReg) (b : SrcB) (s : State) : Result := regOp (.sadd d a b) (binS d a b (· + ·)) s
def execSsub (d a : SReg) (b : SrcB) (s : State) : Result := regOp (.ssub d a b) (binS d a b (· - ·)) s
def execSmul (d a : SReg) (b : SrcB) (s : State) : Result := regOp (.smul d a b) (binS d a b (· * ·)) s
def execSmulh (g : Bool) (d a : SReg) (b : SrcB) (s : State) : Result := regOp (.smulh g d a b) (binS d a b (mulHigh g)) s
def execSdiv (g : Bool) (d a : SReg) (b : SrcB) (s : State) : Result := regOp (.sdiv g d a b) (binS d a b (divS g)) s
def execSrem (g : Bool) (d a : SReg) (b : SrcB) (s : State) : Result := regOp (.srem g d a b) (binS d a b (remS g)) s
def execSand (d a : SReg) (b : SrcB) (s : State) : Result := regOp (.sand d a b) (binS d a b (· &&& ·)) s
def execSor (d a : SReg) (b : SrcB) (s : State) : Result := regOp (.sor d a b) (binS d a b (· ||| ·)) s
def execSxor (d a : SReg) (b : SrcB) (s : State) : Result := regOp (.sxor d a b) (binS d a b (· ^^^ ·)) s
def execSshl (d a : SReg) (b : SrcB) (s : State) : Result := regOp (.sshl d a b) (binS d a b shlS) s
def execSshr (d a : SReg) (b : SrcB) (s : State) : Result := regOp (.sshr d a b) (binS d a b shrS) s
def execSsra (d a : SReg) (b : SrcB) (s : State) : Result := regOp (.ssra d a b) (binS d a b sraS) s
def execSmin (g : Bool) (d a : SReg) (b : SrcB) (s : State) : Result := regOp (.smin g d a b) (binS d a b (minS g)) s
def execSmax (g : Bool) (d a : SReg) (b : SrcB) (s : State) : Result := regOp (.smax g d a b) (binS d a b (maxS g)) s
def execScmp (c : Cond) (g : Bool) (d a : SReg) (b : SrcB) (s : State) : Result :=
  regOp (.scmp c g d a b) (binS d a b fun p q => b2w (condS c g p q)) s
/-- D is read before it is written (04 R81). -/
def execSsel (d a b : SReg) (s : State) : Result :=
  regOp (.ssel d a b) (fun x => x.ws d (if x.rs d ≠ 0 then x.rs a else x.rs b)) s
def execSmov (d a : SReg) (s : State) : Result := regOp (.smov d a) (unS d a id) s
def execSli (d : SReg) (imm : W32) (s : State) : Result := regOp (.sli d imm) (fun x => x.ws d (imm.signExtend 64)) s
def execSlih (d : SReg) (imm : W32) (s : State) : Result :=
  regOp (.slih d imm) (fun x => x.ws d (imm.setWidth 64 <<< 32 ||| ((x.rs d).setWidth 32).setWidth 64)) s
def execSext (t : Ty) (d a : SReg) (s : State) : Result := regOp (.sext t d a) (unS d a (extendS t)) s
def execSbfe (g : Bool) (d a : SReg) (pos w : BitVec 6) (s : State) : Result :=
  regOp (.sbfe g d a pos w) (unS d a (bfeS g pos.toNat (w.toNat + 1))) s
def execSbfi (d a : SReg) (pos w : BitVec 6) (s : State) : Result :=
  regOp (.sbfi d a pos w) (fun x => x.ws d (bfiS pos.toNat (w.toNat + 1) (x.rs d) (x.rs a))) s
def execSpopc (d a : SReg) (s : State) : Result := regOp (.spopc d a) (unS d a fun v => BitVec.ofNat 64 (popc v)) s
def execSclz (d a : SReg) (s : State) : Result := regOp (.sclz d a) (unS d a fun v => BitVec.ofNat 64 (lzc v)) s

/-! ### Masks (04 R84) -/

def execKand (d a b : KReg) (s : State) : Result := regOp (.kand d a b) (fun x => x.wk d (x.rk a &&& x.rk b)) s
def execKor (d a b : KReg) (s : State) : Result := regOp (.kor d a b) (fun x => x.wk d (x.rk a ||| x.rk b)) s
def execKxor (d a b : KReg) (s : State) : Result := regOp (.kxor d a b) (fun x => x.wk d (x.rk a ^^^ x.rk b)) s
def execKandn (d a b : KReg) (s : State) : Result := regOp (.kandn d a b) (fun x => x.wk d (x.rk a &&& ~~~x.rk b)) s
def execKnot (d a : KReg) (s : State) : Result := regOp (.knot d a) (fun x => x.wk d (~~~x.rk a)) s
def execKmov (d a : KReg) (s : State) : Result := regOp (.kmov d a) (fun x => x.wk d (x.rk a)) s
def execKmovImm (d : KReg) (imm : BitVec 17) (s : State) : Result :=
  regOp (.kmovImm d imm) (fun x => x.wk d (imm.signExtend 32)) s
def execKmovFromScalar (d : KReg) (a : SReg) (s : State) : Result :=
  regOp (.kmovFromScalar d a) (fun x => x.wk d ((x.rs a).setWidth 32)) s
def execKmovToScalar (d : SReg) (a : KReg) (s : State) : Result :=
  regOp (.kmovToScalar d a) (fun x => x.ws d ((x.rk a).setWidth 64)) s
def execKpopc (d : SReg) (a : KReg) (s : State) : Result :=
  regOp (.kpopc d a) (fun x => x.ws d (BitVec.ofNat 64 (popc (x.rk a)))) s
def execKfirst (d : SReg) (a : KReg) (s : State) : Result :=
  regOp (.kfirst d a) (fun x => x.ws d (BitVec.ofNat 64 (firstOne (x.rk a)))) s

/-! ### Capabilities (04 R85-R87) -/

/-- The checks of `cset`, `coff` and `cperm` in order (04 R86). -/
def deriveFail (bounds : Bool) (c : Cap) (b : W64) : Option CapFail :=
  if !c.tag then some { code := tCAPTAG, info := BitVec.ofNat 64 c.base }
  else if !c.has pD then some { code := tCAPPERM, info := BitVec.ofNat 64 c.base }
  else if bounds && (b.toNat % 2 ^ c.gran != 0 || decide (c.len < b.toNat)) then some { code := tCAPBND, info := b }
  else none

/-- A derivation: members whose check fails trap, and the others write the result (04 R86). -/
def deriveOp (i : Instr) (bounds : Bool) (d a : CReg) (b : SrcB) (f : Cap → W64 → Cap) (s : State) : Result :=
  trapOp i (fun s x => (deriveFail bounds (x.rc a) (x.rb b)).map (failTrap s x))
    (fun s => s.mapGroup fun x => advance (x.wc d (f (x.rc a) (x.rb b)))) s

/-- Length := B ÷ 2^G granules. -/
def capSet (c : Cap) (b : W64) : Cap := Cap.mk' c.space c.gran c.perm c.base (b.toNat / 2 ^ c.gran)
/-- Base := base + B in its 57 bits, length := length − B ÷ 2^G; untagged where the base has bits that its space reads as
zero (10 R173; log 94). -/
def capOff (c : Cap) (b : W64) : Cap :=
  (Cap.mk' c.space c.gran c.perm ((c.base + b.toNat) % 2 ^ 57) (c.lenG - b.toNat / 2 ^ c.gran)).checked
/-- Permissions := permissions & B[10:0]. -/
def capPerm (c : Cap) (b : W64) : Cap := Cap.mk' c.space c.gran (c.perm &&& b.toNat % 2 ^ 11) c.base c.lenG

def execCset (d a : CReg) (b : SrcB) (s : State) : Result := deriveOp (.cset d a b) true d a b capSet s
def execCoff (d a : CReg) (b : SrcB) (s : State) : Result := deriveOp (.coff d a b) true d a b capOff s
def execCperm (d a : CReg) (b : SrcB) (s : State) : Result := deriveOp (.cperm d a b) false d a b capPerm s

/-- A field of a capability, tagged or not (04 R87). -/
def capField (d : SReg) (a : CReg) (f : Cap → Nat) (x : Slice) : Slice := x.ws d (BitVec.ofNat 64 (f (x.rc a)))

def execCgetBase (d : SReg) (a : CReg) (s : State) : Result := regOp (.cgetBase d a) (capField d a Cap.base) s
def execCgetLen (d : SReg) (a : CReg) (s : State) : Result := regOp (.cgetLen d a) (capField d a Cap.len) s
def execCgetGran (d : SReg) (a : CReg) (s : State) : Result := regOp (.cgetGran d a) (capField d a Cap.gran) s
def execCgetSpace (d : SReg) (a : CReg) (s : State) : Result := regOp (.cgetSpace d a) (capField d a Cap.space) s
def execCgetPerm (d : SReg) (a : CReg) (s : State) : Result := regOp (.cgetPerm d a) (capField d a Cap.perm) s
def execCtag (d : SReg) (a : CReg) (s : State) : Result := regOp (.ctag d a) (capField d a fun c => b2n c.tag) s
def execCmov (d a : CReg) (s : State) : Result := regOp (.cmov d a) (fun x => x.wc d (x.rc a)) s

end Sys2Proof.Machine
end

