-- ==== Sys2Proof/Machine/Dispatch.lean ====
section
/-! DEFINITION. Every instruction and step of the opcode table, and its meaning. -/
namespace Sys2Proof.Machine

def exec (i : Instr) (s : State) : Host.Outcome State Fault Refusal :=
  match i with
  | .br c a b off => Sys2Proof.Machine.execBr c a b off s
  | .brS c a b off => Sys2Proof.Machine.execBrS c a b off s
  | .brKz a off => Sys2Proof.Machine.execBrKz a off s
  | .brKnz a off => Sys2Proof.Machine.execBrKnz a off s
  | .brKf a off => Sys2Proof.Machine.execBrKf a off s
  | .call a off => Sys2Proof.Machine.execCall a off s
  | .ret a => Sys2Proof.Machine.execRet a s
  | .loop l a off => Sys2Proof.Machine.execLoop l a off s
  | .loopi l count off => Sys2Proof.Machine.execLoopi l count off s
  | .rgn sMask vMask => Sys2Proof.Machine.execRgn sMask vMask s
  | .exit p => Sys2Proof.Machine.execExit p s
  | .rdsr d n => Sys2Proof.Machine.execRdsr d n s
  | .rdsrV p d n => Sys2Proof.Machine.execRdsrV p d n s
  | .wrsr n a => Sys2Proof.Machine.execWrsr n a s
  | .frWrite a => Sys2Proof.Machine.execFrWrite a s
  | .lfmWrite a => Sys2Proof.Machine.execLfmWrite a s
  | .lcWrite l a => Sys2Proof.Machine.execLcWrite l a s
  | .fmt imm => Sys2Proof.Machine.execFmt imm s
  | .alloc e => Sys2Proof.Machine.execAlloc e s
  | .trap n => Sys2Proof.Machine.execTrap n s
  | .sysc n => Sys2Proof.Machine.execSysc n s
  | .syscAnswer slice => Sys2Proof.Machine.execSyscAnswer slice s
  | .idleTimeout slice => Sys2Proof.Machine.execIdleTimeout slice s
  | .sadd d a b => Sys2Proof.Machine.execSadd d a b s
  | .ssub d a b => Sys2Proof.Machine.execSsub d a b s
  | .smul d a b => Sys2Proof.Machine.execSmul d a b s
  | .smulh signed d a b => Sys2Proof.Machine.execSmulh signed d a b s
  | .sdiv signed d a b => Sys2Proof.Machine.execSdiv signed d a b s
  | .srem signed d a b => Sys2Proof.Machine.execSrem signed d a b s
  | .sand d a b => Sys2Proof.Machine.execSand d a b s
  | .sor d a b => Sys2Proof.Machine.execSor d a b s
  | .sxor d a b => Sys2Proof.Machine.execSxor d a b s
  | .sshl d a b => Sys2Proof.Machine.execSshl d a b s
  | .sshr d a b => Sys2Proof.Machine.execSshr d a b s
  | .ssra d a b => Sys2Proof.Machine.execSsra d a b s
  | .smin signed d a b => Sys2Proof.Machine.execSmin signed d a b s
  | .smax signed d a b => Sys2Proof.Machine.execSmax signed d a b s
  | .scmp c signed d a b => Sys2Proof.Machine.execScmp c signed d a b s
  | .ssel d a b => Sys2Proof.Machine.execSsel d a b s
  | .smov d a => Sys2Proof.Machine.execSmov d a s
  | .sli d imm => Sys2Proof.Machine.execSli d imm s
  | .slih d imm => Sys2Proof.Machine.execSlih d imm s
  | .sext t d a => Sys2Proof.Machine.execSext t d a s
  | .sbfe signed d a pos widthM1 => Sys2Proof.Machine.execSbfe signed d a pos widthM1 s
  | .sbfi d a pos widthM1 => Sys2Proof.Machine.execSbfi d a pos widthM1 s
  | .spopc d a => Sys2Proof.Machine.execSpopc d a s
  | .sclz d a => Sys2Proof.Machine.execSclz d a s
  | .kand d a b => Sys2Proof.Machine.execKand d a b s
  | .kor d a b => Sys2Proof.Machine.execKor d a b s
  | .kxor d a b => Sys2Proof.Machine.execKxor d a b s
  | .kandn d a b => Sys2Proof.Machine.execKandn d a b s
  | .knot d a => Sys2Proof.Machine.execKnot d a s
  | .kmov d a => Sys2Proof.Machine.execKmov d a s
  | .kmovImm d imm => Sys2Proof.Machine.execKmovImm d imm s
  | .kmovFromScalar d a => Sys2Proof.Machine.execKmovFromScalar d a s
  | .kmovToScalar d a => Sys2Proof.Machine.execKmovToScalar d a s
  | .kpopc d a => Sys2Proof.Machine.execKpopc d a s
  | .kfirst d a => Sys2Proof.Machine.execKfirst d a s
  | .cset d a b => Sys2Proof.Machine.execCset d a b s
  | .coff d a b => Sys2Proof.Machine.execCoff d a b s
  | .cperm d a b => Sys2Proof.Machine.execCperm d a b s
  | .cgetBase d a => Sys2Proof.Machine.execCgetBase d a s
  | .cgetLen d a => Sys2Proof.Machine.execCgetLen d a s
  | .cgetGran d a => Sys2Proof.Machine.execCgetGran d a s
  | .cgetSpace d a => Sys2Proof.Machine.execCgetSpace d a s
  | .cgetPerm d a => Sys2Proof.Machine.execCgetPerm d a s
  | .ctag d a => Sys2Proof.Machine.execCtag d a s
  | .cmov d a => Sys2Proof.Machine.execCmov d a s
  | .vadd p t d a b => Sys2Proof.Machine.execVadd p t d a b s
  | .vsub p t d a b => Sys2Proof.Machine.execVsub p t d a b s
  | .vmul p t d a b => Sys2Proof.Machine.execVmul p t d a b s
  | .vmulh p t d a b => Sys2Proof.Machine.execVmulh p t d a b s
  | .vmad p t d a b c => Sys2Proof.Machine.execVmad p t d a b c s
  | .vand p d a b => Sys2Proof.Machine.execVand p d a b s
  | .vor p d a b => Sys2Proof.Machine.execVor p d a b s
  | .vxor p d a b => Sys2Proof.Machine.execVxor p d a b s
  | .vshl p t d a b => Sys2Proof.Machine.execVshl p t d a b s
  | .vshr p t d a b => Sys2Proof.Machine.execVshr p t d a b s
  | .vsra p t d a b => Sys2Proof.Machine.execVsra p t d a b s
  | .vmin p t d a b => Sys2Proof.Machine.execVmin p t d a b s
  | .vmax p t d a b => Sys2Proof.Machine.execVmax p t d a b s
  | .vabs p t d a => Sys2Proof.Machine.execVabs p t d a s
  | .vneg p t d a => Sys2Proof.Machine.execVneg p t d a s
  | .vcmp p c t k a b => Sys2Proof.Machine.execVcmp p c t k a b s
  | .vsel p d a b k => Sys2Proof.Machine.execVsel p d a b k s
  | .vmov p d a => Sys2Proof.Machine.execVmov p d a s
  | .vli p t d imm => Sys2Proof.Machine.execVli p t d imm s
  | .vbcast p t d a => Sys2Proof.Machine.execVbcast p t d a s
  | .vclz p t d a => Sys2Proof.Machine.execVclz p t d a s
  | .vpopc p t d a => Sys2Proof.Machine.execVpopc p t d a s
  | .vbfe p t d a b c => Sys2Proof.Machine.execVbfe p t d a b c s
  | .vfadd p t d a b => Sys2Proof.Machine.execVfadd p t d a b s
  | .vfsub p t d a b => Sys2Proof.Machine.execVfsub p t d a b s
  | .vfmul p t d a b => Sys2Proof.Machine.execVfmul p t d a b s
  | .vfma p t d a b c => Sys2Proof.Machine.execVfma p t d a b c s
  | .vfmin p t d a b => Sys2Proof.Machine.execVfmin p t d a b s
  | .vfmax p t d a b => Sys2Proof.Machine.execVfmax p t d a b s
  | .vfabs p t d a => Sys2Proof.Machine.execVfabs p t d a s
  | .vfneg p t d a => Sys2Proof.Machine.execVfneg p t d a s
  | .vfcmp p c t k a b => Sys2Proof.Machine.execVfcmp p c t k a b s
  | .vfcls p t d a => Sys2Proof.Machine.execVfcls p t d a s
  | .vrcp p t d a => Sys2Proof.Machine.execVrcp p t d a s
  | .vrsq p t d a => Sys2Proof.Machine.execVrsq p t d a s
  | .vexp2 p t d a => Sys2Proof.Machine.execVexp2 p t d a s
  | .vlog2 p t d a => Sys2Proof.Machine.execVlog2 p t d a s
  | .vcvt p t1 t2 d a => Sys2Proof.Machine.execVcvt p t1 t2 d a s
  | .vpack p t1 t2 d a b => Sys2Proof.Machine.execVpack p t1 t2 d a b s
  | .vunpack p t1 t2 d a h => Sys2Proof.Machine.execVunpack p t1 t2 d a h s
  | .vqb t1 d a b => Sys2Proof.Machine.execVqb t1 d a b s
  | .vdqb p t2 d a h => Sys2Proof.Machine.execVdqb p t2 d a h s
  | .shf p sl d kf a b => Sys2Proof.Machine.execShf p sl d kf a b s
  | .shfUp p sl d kf a b => Sys2Proof.Machine.execShfUp p sl d kf a b s
  | .shfDn p sl d kf a b => Sys2Proof.Machine.execShfDn p sl d kf a b s
  | .shfX p sl d kf a b => Sys2Proof.Machine.execShfX p sl d kf a b s
  | .voteAny p sl d a => Sys2Proof.Machine.execVoteAny p sl d a s
  | .voteAll p sl d a => Sys2Proof.Machine.execVoteAll p sl d a s
  | .voteBal p sl d a => Sys2Proof.Machine.execVoteBal p sl d a s
  | .vred p sl op t d a => Sys2Proof.Machine.execVred p sl op t d a s
  | .vscan p sl op t d a => Sys2Proof.Machine.execVscan p sl op t d a s
  | .vaddImm p t d a imm => Sys2Proof.Machine.execVaddImm p t d a imm s
  | .vmulImm p t d a imm => Sys2Proof.Machine.execVmulImm p t d a imm s
  | .vandImm p d a imm => Sys2Proof.Machine.execVandImm p d a imm s
  | .vorImm p d a imm => Sys2Proof.Machine.execVorImm p d a imm s
  | .vxorImm p d a imm => Sys2Proof.Machine.execVxorImm p d a imm s
  | .vshlImm p t d a imm => Sys2Proof.Machine.execVshlImm p t d a imm s
  | .vshrImm p t d a imm => Sys2Proof.Machine.execVshrImm p t d a imm s
  | .vsraImm p t d a imm => Sys2Proof.Machine.execVsraImm p t d a imm s
  | .vminImm p t d a imm => Sys2Proof.Machine.execVminImm p t d a imm s
  | .vmaxImm p t d a imm => Sys2Proof.Machine.execVmaxImm p t d a imm s
  | .vcmpImm p c t k a imm => Sys2Proof.Machine.execVcmpImm p c t k a imm s
  | .vfaddImm p t d a imm => Sys2Proof.Machine.execVfaddImm p t d a imm s
  | .vfmulImm p t d a imm => Sys2Proof.Machine.execVfmulImm p t d a imm s
  | .xvStep nt op w km => Sys2Proof.Machine.execXvStep nt op w km s
  | .xvRun nt base w km n => Sys2Proof.Machine.execXvRun nt base w km n s
  | .xvRetire slice => Sys2Proof.Machine.execXvRetire slice s
  | .xvLdk a => Sys2Proof.Machine.execXvLdk a s
  | .xvClr km => Sys2Proof.Machine.execXvClr km s
  | .xvPush nt a km => Sys2Proof.Machine.execXvPush nt a km s
  | .xvPop nt d km => Sys2Proof.Machine.execXvPop nt d km s
  | .xvDep d => Sys2Proof.Machine.execXvDep d s
  | .xvStat d => Sys2Proof.Machine.execXvStat d s
  | .xvSave c x imm => Sys2Proof.Machine.execXvSave c x imm s
  | .xvLoad c x imm => Sys2Proof.Machine.execXvLoad c x imm s
  | .ld o sc t d c x off => Sys2Proof.Machine.execLd o sc t d c x off s
  | .st o sc t d c x off => Sys2Proof.Machine.execSt o sc t d c x off s
  | .ldc o sc d c x off => Sys2Proof.Machine.execLdc o sc d c x off s
  | .stc o sc d c x off => Sys2Proof.Machine.execStc o sc d c x off s
  | .ldV p t d c x off => Sys2Proof.Machine.execLdV p t d c x off s
  | .stV p t d c x off => Sys2Proof.Machine.execStV p t d c x off s
  | .loadDataReturn slice => Sys2Proof.Machine.execLoadDataReturn slice s
  | .fence o sc => Sys2Proof.Machine.execFence o sc s
  | .cpy f xs xd => Sys2Proof.Machine.execCpy f xs xd s
  | .cpy2d f xs xd => Sys2Proof.Machine.execCpy2d f xs xd s
  | .cpyG p f xs xd => Sys2Proof.Machine.execCpyG p f xs xd s
  | .cpyS p f xs xd => Sys2Proof.Machine.execCpyS p f xs xd s
  | .cpyCommit d => Sys2Proof.Machine.execCpyCommit d s
  | .cpyWait n => Sys2Proof.Machine.execCpyWait n s
  | .qfence q sc cmp set => Sys2Proof.Machine.execQfence q sc cmp set s
  | .queuePerformCommand queue => Sys2Proof.Machine.execQueuePerformCommand queue s
  | .faultRecordPendingWrite ctx => Sys2Proof.Machine.execFaultRecordPendingWrite ctx s
  | .commandComplete cmd => Sys2Proof.Machine.execCommandComplete cmd s
  | .atm p op o sc t d c x a => Sys2Proof.Machine.execAtm p op o sc t d c x a s
  | .atmBinc p o sc t d c x a => Sys2Proof.Machine.execAtmBinc p o sc t d c x a s
  | .atmWinc p o sc t d c x a => Sys2Proof.Machine.execAtmWinc p o sc t d c x a s
  | .atmCdec p o sc t d c x => Sys2Proof.Machine.execAtmCdec p o sc t d c x s
  | .atmFaddl o sc d c x a => Sys2Proof.Machine.execAtmFaddl o sc d c x a s
  | .fat o sc t d c x a => Sys2Proof.Machine.execFat o sc t d c x a s
  | .redF o sc idx c x a => Sys2Proof.Machine.execRedF o sc idx c x a s
  | .redFRetry cmd => Sys2Proof.Machine.execRedFRetry cmd s
  | .barArr sc n => Sys2Proof.Machine.execBarArr sc n s
  | .barWait sc n => Sys2Proof.Machine.execBarWait sc n s
  | .bbExp bb a => Sys2Proof.Machine.execBbExp bb a s
  | .bbArr d bb => Sys2Proof.Machine.execBbArr d bb s
  | .bbArrDecl d bb => Sys2Proof.Machine.execBbArrDecl d bb s
  | .bbArrLeave d bb => Sys2Proof.Machine.execBbArrLeave d bb s
  | .bbWait bb p => Sys2Proof.Machine.execBbWait bb p s
  | .mcfg discard sh => Sys2Proof.Machine.execMcfg discard sh s
  | .mperm t c x => Sys2Proof.Machine.execMperm t c x s
  | .mlw c x n => Sys2Proof.Machine.execMlw c x n s
  | .mst z t c x r => Sys2Proof.Machine.execMst z t c x r s
  | .mzero t => Sys2Proof.Machine.execMzero t s
  | .mrd ty d t row col => Sys2Proof.Machine.execMrd ty d t row col s
  | .mwr ty t a row col => Sys2Proof.Machine.execMwr ty t a row col s
  | .mout c x t r => Sys2Proof.Machine.execMout c x t r s
  | .mmaskTree t p pre col0 => Sys2Proof.Machine.execMmaskTree t p pre col0 s
  | .matrixPerform unit => Sys2Proof.Machine.execMatrixPerform unit s
  | .batTest d => Sys2Proof.Machine.execBatTest d s
  | .kvc z cmp count stage cache pos accept rowBytes => Sys2Proof.Machine.execKvc z cmp count stage cache pos accept rowBytes s
  | .spawn p d h x c len cls => Sys2Proof.Machine.execSpawn p d h x c len cls s
  | .spawnRec x c imm => Sys2Proof.Machine.execSpawnRec x c imm s
  | .tdone p => Sys2Proof.Machine.execTdone p s
  | .targ p d off => Sys2Proof.Machine.execTarg p d off s
  | .launch d x c imm => Sys2Proof.Machine.execLaunch d x c imm s
  | .rinv t ak node handler c imm len status cls => Sys2Proof.Machine.execRinv t ak node handler c imm len status cls s
  | .tmark tag a => Sys2Proof.Machine.execTmark tag a s
  | .rdpc d => Sys2Proof.Machine.execRdpc d s
  | .taskRetireSignals task => Sys2Proof.Machine.execTaskRetireSignals task s
  | .stallTimerExpiry stall => Sys2Proof.Machine.execStallTimerExpiry stall s
  | .invokeTake die => Sys2Proof.Machine.execInvokeTake die s
  | .dispatch die => Sys2Proof.Machine.execDispatch die s
  | .hang slice => Sys2Proof.Machine.execHang slice s
  | .trapServiceStart unit => Sys2Proof.Machine.execTrapServiceStart unit s
  | .hrdWrite a => Sys2Proof.Machine.execHrdWrite a s
  | .hcapWrite a => Sys2Proof.Machine.execHcapWrite a s
  | .hexeWrite a => Sys2Proof.Machine.execHexeWrite a s
  | .swapOut block => Sys2Proof.Machine.execSwapOut block s
  | .lightSave block => Sys2Proof.Machine.execLightSave block s
  | .preemptTimeout block => Sys2Proof.Machine.execPreemptTimeout block s
  | .blockRestore image => Sys2Proof.Machine.execBlockRestore image s
  | .duplexSwitch pdk => Sys2Proof.Machine.execDuplexSwitch pdk s
  | .killQuiescence ctx => Sys2Proof.Machine.execKillQuiescence ctx s
  | .crewKill block => Sys2Proof.Machine.execCrewKill block s
  | .selfTestDone unit r => Sys2Proof.Machine.execSelfTestDone unit r s
  | .flitCrcFail port => Sys2Proof.Machine.execFlitCrcFail port s
  | .yardResend n => Sys2Proof.Machine.execYardResend n s
  | .failover die => Sys2Proof.Machine.execFailover die s
  | .wearTick die rates => Sys2Proof.Machine.execWearTick die rates s
  | .thermalDerate die => Sys2Proof.Machine.execThermalDerate die s
  | .thermalRestore die => Sys2Proof.Machine.execThermalRestore die s
  | .bringUp finaliserOk => Sys2Proof.Machine.execBringUp finaliserOk s
  | .breakpointStop slice => Sys2Proof.Machine.execBreakpointStop slice s
  | .stepEnd block => Sys2Proof.Machine.execStepEnd block s
  | .unassignedOpcode opc => Sys2Proof.Machine.execUnassignedOpcode opc s
  | .fetchFault slice => Sys2Proof.Machine.execFetchFault slice s
  | .hbmChannelResume channel => Sys2Proof.Machine.execHbmChannelResume channel s
  | .nop => Sys2Proof.Machine.execNop s
  | .rgnEnd => Sys2Proof.Machine.execRgnEnd s
  | .gjoin => Sys2Proof.Machine.execGjoin s
  | .sexit => Sys2Proof.Machine.execSexit s
  | .yield => Sys2Proof.Machine.execYield s
  | .free => Sys2Proof.Machine.execFree s
  | .tret => Sys2Proof.Machine.execTret s
  | .idle => Sys2Proof.Machine.execIdle s
  | .hbrk => Sys2Proof.Machine.execHbrk s
  | .mswap => Sys2Proof.Machine.execMswap s
  | .batTake => Sys2Proof.Machine.execBatTake s
  | .batGive => Sys2Proof.Machine.execBatGive s
  | .hctlHold => Sys2Proof.Machine.execHctlHold s
  | .hctlMark => Sys2Proof.Machine.execHctlMark s
  | .hctlUnmark => Sys2Proof.Machine.execHctlUnmark s
  | .hctlKill => Sys2Proof.Machine.execHctlKill s
  | .lifetimeRecordWrite => Sys2Proof.Machine.execLifetimeRecordWrite s
  | .thermalShutdown => Sys2Proof.Machine.execThermalShutdown s
  | .railFault => Sys2Proof.Machine.execRailFault s
  | .powerDown => Sys2Proof.Machine.execPowerDown s
  | .write => Sys2Proof.Machine.execWrite s
  | .read => Sys2Proof.Machine.execRead s
  | .data => Sys2Proof.Machine.execData s
  | .fatm => Sys2Proof.Machine.execFatm s
  | .red => Sys2Proof.Machine.execRed s
  | .reductionTreeNode => Sys2Proof.Machine.execReductionTreeNode s
  | .invoke => Sys2Proof.Machine.execInvoke s
  | .answer => Sys2Proof.Machine.execAnswer s
  | .launchMessage => Sys2Proof.Machine.execLaunchMessage s
  | .inval => Sys2Proof.Machine.execInval s
  | .pageResp => Sys2Proof.Machine.execPageResp s
  | .marker => Sys2Proof.Machine.execMarker s
  | .nack => Sys2Proof.Machine.execNack s
  | .barrier => Sys2Proof.Machine.execBarrier s
  | .status => Sys2Proof.Machine.execStatus s
  | .attest => Sys2Proof.Machine.execAttest s
  | .regrd => Sys2Proof.Machine.execRegrd s
  | .regwr => Sys2Proof.Machine.execRegwr s
  | .ctxwr => Sys2Proof.Machine.execCtxwr s
  | .ctxkill => Sys2Proof.Machine.execCtxkill s
  | .resideMake => Sys2Proof.Machine.execResideMake s
  | .resideEnd => Sys2Proof.Machine.execResideEnd s
  | .switch => Sys2Proof.Machine.execSwitch s
  | .preemptBlock => Sys2Proof.Machine.execPreemptBlock s
  | .preemptGrid => Sys2Proof.Machine.execPreemptGrid s
  | .preemptContext => Sys2Proof.Machine.execPreemptContext s
  | .load => Sys2Proof.Machine.execLoad s
  | .migrateExport => Sys2Proof.Machine.execMigrateExport s
  | .migrateImport => Sys2Proof.Machine.execMigrateImport s
  | .vdev => Sys2Proof.Machine.execVdev s
  | .vdresClearResident => Sys2Proof.Machine.execVdresClearResident s
  | .vdresSetResident => Sys2Proof.Machine.execVdresSetResident s
  | .vdresReset => Sys2Proof.Machine.execVdresReset s
  | .vdresSetLog => Sys2Proof.Machine.execVdresSetLog s
  | .redwin => Sys2Proof.Machine.execRedwin s
  | .podjoin => Sys2Proof.Machine.execPodjoin s
  | .sessionOpen => Sys2Proof.Machine.execSessionOpen s
  | .sessionConfigure => Sys2Proof.Machine.execSessionConfigure s
  | .sessionResetQueue => Sys2Proof.Machine.execSessionResetQueue s
  | .sessionClose => Sys2Proof.Machine.execSessionClose s
  | .debugStop => Sys2Proof.Machine.execDebugStop s
  | .debugStep => Sys2Proof.Machine.execDebugStep s
  | .debugContinue => Sys2Proof.Machine.execDebugContinue s
  | .debugKill => Sys2Proof.Machine.execDebugKill s
  | .cutStart => Sys2Proof.Machine.execCutStart s
  | .cutContinue => Sys2Proof.Machine.execCutContinue s
  | .cutEnd => Sys2Proof.Machine.execCutEnd s
  | .replay => Sys2Proof.Machine.execReplay s
  | .fwwrite => Sys2Proof.Machine.execFwwrite s
  | .reset => Sys2Proof.Machine.execReset s
  | .mgmtUnknownCode => Sys2Proof.Machine.execMgmtUnknownCode s

end Sys2Proof.Machine
end

