-- ==== Sys2Proof/Machine/Poison.lean ====
section
/-! DEFINITION. Poisoned bytes that an instruction would use (21 R339). -/
namespace Sys2Proof.Machine

/-! ### Bytes that an instruction reads at its issue (21 R339) -/

/-- Keys of the bytes of a slice-level access that passes its checks. -/
def readOne (s : State) (x : Slice) (ok : Option TrapInfo) (c : CReg) (a : Int) (n : Nat) : List Nat :=
  if ok.isNone then keysAt s x (x.rc c) a n else []
/-- Keys of the bytes of a per-lane access that passes its checks. -/
def readLanes (s : State) (x : Slice) (ok : Option TrapInfo) (p : Pred) (c : CReg) (i : Idx) (off : Int) (n : Nat) : List Nat :=
  if ok.isNone then (lanesOf (x.sel p)).flatMap fun l => keysAt s x (x.rc c) (addrV x (x.rc c) i off l n) n else []
/-- Those of an atomic. -/
def readAtm (s : State) (x : Slice) (p : Pred) (t : Ty) (d : VReg) (c : CReg) (i : Idx) : List Nat :=
  if i.isVector then readLanes s x (atmFail p t d c i s x) p c i 0 (tyBytes t)
  else readOne s x (atmFail p t d c i s x) c (addrS x (x.rc c) i 0) (tyBytes t)
/-- Keys of the bytes that an instruction of a member reads at its issue. -/
def readsOf (s : State) (x : Slice) : Instr → List Nat
  | .ld _ _ t _ c i off => readOne s x (memFail [1, 2, 3] [pL] (tyBytes t) (tyBytes t) c i off.toInt s x) c (addrS x (x.rc c) i off.toInt) (tyBytes t)
  | .ldc _ _ _ c i off => readOne s x (memFail [1, 2, 3] [pL] 16 16 c i off.toInt s x) c (addrS x (x.rc c) i off.toInt) 16
  | .ldV p t _ c i off => readLanes s x (laneFail [1, 2, 3] [pL] (tyBytes t) p c i off.toInt s x) p c i off.toInt (tyBytes t)
  | .atm p _ _ _ t d c i _ => readAtm s x p t d c i
  | .atmBinc p _ _ t d c i _ => readAtm s x p t d c i
  | .atmWinc p _ _ t d c i _ => readAtm s x p t d c i
  | .atmCdec p _ _ t d c i => readAtm s x p t d c i
  | .atmFaddl _ _ d c i _ => readOne s x (memFail [1, 2] (if d = 0 then [pA] else [pA, pL]) 16 16 c i 0 s x) c (addrS x (x.rc c) i 0) 16
  | .xvLoad c r imm => readOne s x (xvFail pL c r imm s x) c (xvAddr x c r imm) 1280
  | .spawn p _ h r c len _ =>
    if x.pushes.isEmpty && spawnOk s x h && (spawnFail p h r c len s x).isNone then
      (lanesOf (x.sel p)).flatMap fun l => keysAt s x (x.rc c) (spawnAddr x c r len.toNat l) len.toNat
    else []
  | .launch _ r c imm =>
    if (chk s x (x.rc c) [1, 2, 3] [pL] 0 255 (launchAddr x c r imm) 32 16).isEmpty then keysAt s x (x.rc c) (launchAddr x c r imm) 32 else []
  | .rinv _ _ _ h c imm len _ _ =>
    if !sentWait x && (rinvEarly x h len).isNone && (rinvFail h len c imm s x).isNone then keysAt s x (x.rc c) (rinvAddr x c imm) (x.rs len).toNat else []
  | .mperm _ c xr =>
    let y := slice0 s x
    if (mpermTrap c xr s x).isNone then keysAt s y (y.rc c) (addrS y (y.rc c) (.scalar xr) 0) 64 else []
  | _ => []
/-- The word of a slice carries a poison mark, or an entry that the walk to it reads. -/
def fetchPoison (s : State) (x : Slice) : Bool :=
  !s.poison.isEmpty && inCode (s.ctxOf x) x.pc && ((walkKeys s (some x.pk) x.ck (s.ctxOf x).gen x.pc.toNat).any fun e => s.poisoned e 8) ||
  !s.poison.isEmpty && inCode (s.ctxOf x) x.pc && match (translate s x.ck (s.ctxOf x).gen x.pc.toNat true false (some x.pk)).1 with
    | .ok w => s.poisoned w.key 8
    | .error _ => false
/-- The unit that holds a byte: the HBM channel of main memory, the bank of a core's shared memory, or one of the die's banks, which
a free value names (21 R341; log 105). -/
def unitOfKey (p : Part) (k : Nat) : TestUnit :=
  if k < 2 ^ 48 then .channel (Config.channelOf k)
  else if k < 2 ^ 50 then .bank ((k - 2 ^ 48) / 2 ^ 29 * 48 + Config.bankOf k % 48)
  else if k < 2 ^ 52 then .bank ((k - 2 ^ 50) / 2 ^ 19)
  else .bank (Config.bankOf k % (48 * p.dies))
/-- Bytes become poisoned: the error that was found in each has its unit tested. -/
def poisonAt (s : State) (keys : List Nat) : State :=
  (keys.map (unitOfKey s.part)).eraseDups.foldl beginTest { s with poison := (s.poison ++ keys).eraseDups }
/-- A register that a member reads carries a poison mark: its use in any lane is a use (log 107). -/
def regPoison (x : Slice) (i : Instr) : Bool :=
  !x.badV.isEmpty && !skips x i && (srcsOf x i).any fun r => match r with | .v n => x.badV.contains n | _ => false
/-- A register that an instruction writes carries its mark no longer. -/
def cleaned (i : Instr) (x : Slice) : Slice :=
  if x.badV.isEmpty then x else { x with badV := x.badV.filter fun n => !((dstRegs i).any fun r => match r with | .v m => m == n | _ => false) }
/-- A vector register of a slice becomes poisoned; its paddock is tested. -/
def poisonReg (s : State) (id n : Nat) : State :=
  if !s.slices.any fun x => x.id == id then s
  else beginTest (s.updSlice id fun x => { x with badV := (x.badV ++ [n]).eraseDups }) (.paddock (s.slice id).pk)
/-- Tiles and planes of a unit do. -/
def poisonUnit (s : State) (u : Nat) (tiles : W16) (planes : BitVec 2) : State :=
  beginTest (s.updUnit u fun p => { p with badTiles := p.badTiles ||| tiles, badPlanes := p.badPlanes ||| planes }) (.paddock (u / 64))
/-- Keys of the bytes that a store of a member writes at its issue. -/
def storesOf (s : State) (x : Slice) : Instr → List Nat
  | .st _ _ t _ c i off => readOne s x (memFail [1, 2, 3] [pS] (tyBytes t) (tyBytes t) c i off.toInt s x) c (addrS x (x.rc c) i off.toInt) (tyBytes t)
  | .stc _ _ _ c i off => readOne s x (memFail [1, 2, 3] [pW] 16 16 c i off.toInt s x) c (addrS x (x.rc c) i off.toInt) 16
  | .stV p t _ c i off => readLanes s x (laneFail [1, 2, 3] [pS] (tyBytes t) p c i off.toInt s x) p c i off.toInt (tyBytes t)
  | _ => []
/-- An access of a member reaches the scratchpad of another die: its bytes go over the boundaries between (22 R363). -/
def crossesDie (s : State) (x : Slice) (i : Instr) : Bool :=
  (readsOf s x i ++ storesOf s x i).any fun k => decide (2 ^ 48 ≤ k) && decide (k < 2 ^ 50) && (k - 2 ^ 48) / 2 ^ 29 != x.die
/-- Bytes of the accesses of a group that go over die-to-die boundaries, where a session counts them. -/
def linkAccess (s : State) (ids : List Nat) (i : Instr) (t : State) : State :=
  if s.sessions.isEmpty then t
  else ids.foldl (fun (t : State) id => let x := s.slice id; if crossesDie s x i then countLinks t x.ck else t) t
/-- A group would use a poisoned byte or register. -/
def usesPoison (s : State) (ids : List Nat) (i : Instr) : Bool :=
  (ids.any fun id => regPoison (s.slice id) i) || !s.poison.isEmpty && ids.any fun id => let x := s.slice id; fetchPoison s x || (readsOf s x i).any fun k => s.poison.contains k

end Sys2Proof.Machine
end

