-- ==== Sys2Proof/Machine/Shadow.lean ====
section
/-! DEFINITION. Shadow slices of checked mode: what a shadow has behind it, its execution of what its leading slice executes on
registers of its own, and the comparison of the two (21 R334 to R338; log 18). -/
namespace Sys2Proof.Machine

/-! ### The lag window, the load-value queue and the store-compare buffer (21 R336; log 18) -/

/-- An instruction with an effect outside the registers of its slice, which takes an entry of the store-compare buffer. -/
def outside : Instr → Bool
  | .st _ _ _ _ _ _ _ => true
  | .stc _ _ _ _ _ _ => true
  | .stV _ _ _ _ _ _ => true
  | .xvSave _ _ _ => true
  | .cpy _ _ _ => true
  | .cpy2d _ _ _ => true
  | .cpyG _ _ _ _ => true
  | .cpyS _ _ _ _ => true
  | .cpyCommit _ => true
  | .qfence _ _ _ _ => true
  | .kvc _ _ _ _ _ _ _ _ => true
  | .atm _ _ _ _ _ _ _ _ _ => true
  | .atmBinc _ _ _ _ _ _ _ _ => true
  | .atmWinc _ _ _ _ _ _ _ _ => true
  | .atmCdec _ _ _ _ _ _ _ => true
  | .atmFaddl _ _ _ _ _ _ => true
  | .fat _ _ _ _ _ _ _ => true
  | .redF _ _ _ _ _ _ => true
  | .barArr _ _ => true
  | .bbExp _ _ => true
  | .bbArr _ _ => true
  | .bbArrDecl _ _ => true
  | .bbArrLeave _ _ => true
  | .mcfg _ _ => true
  | .mperm _ _ _ => true
  | .mlw _ _ _ => true
  | .mswap => true
  | .mst _ _ _ _ _ => true
  | .mzero _ => true
  | .mrd _ _ _ _ _ => true
  | .mwr _ _ _ _ _ => true
  | .mout _ _ _ _ => true
  | .mmaskTree _ _ _ _ => true
  | .batTake => true
  | .batGive => true
  | .spawn _ _ _ _ _ _ _ => true
  | .spawnRec _ _ _ => true
  | .tdone _ => true
  | .launch _ _ _ _ => true
  | .rinv _ _ _ _ _ _ _ _ _ => true
  | .tmark _ _ => true
  | .sysc _ => true
  | .alloc _ => true
  | .free => true
  | .exit _ => true
  | .sexit => true
  | .hctlHold => true
  | .hctlMark => true
  | .hctlUnmark => true
  | .hctlKill => true
  | .hrdWrite _ => true
  | .hcapWrite _ => true
  | .hexeWrite _ => true
  | _ => false
/-- A word of an execute-vector program that reads a counter (21 R336). -/
def readsCounter (w : W32) : Bool := let op := bitsOf w.toNat 0 8; decide (0xE0 ≤ op) && decide (op ≤ 0xE2)
/-- Steps of an execute-vector instruction in which a selected lane reads a counter. -/
def counterSteps (o : XvOp) : Nat := (o.ops.filter fun ws => o.handler && (lanesOf o.sel).any fun l => readsCounter (ws.getD l 0)).length
/-- The special registers whose reads the load-value queue holds: `%bph`, `%cc`, `%wu`, `%lfm`. -/
def countedReg (n : BitVec 12) : Nat := b2n (n == 0x00D || n == 0x00F || n == 0x010 || n == 0x011)
/-- Values that reach a slice from outside its registers in an instruction that it has issued. -/
def takesValues (y : Slice) : Instr → Nat
  | .ld _ _ _ _ _ _ _ => 1
  | .ldc _ _ _ _ _ _ => 1
  | .ldV _ _ _ _ _ _ => 1
  | .xvLoad _ _ _ => 1
  | .rdsr _ n => countedReg n
  | .rdsrV _ _ n => countedReg n
  | .xvStep _ _ _ _ => (y.xv.queue.getLast?.map counterSteps).getD 0
  | .xvRun _ _ _ _ _ => (y.xv.queue.getLast?.map counterSteps).getD 0
  | .atm _ _ _ _ _ d _ x _ => b2n (rSV x d != .s 0)
  | .atmBinc _ _ _ _ d _ x _ => b2n (rSV x d != .s 0)
  | .atmWinc _ _ _ _ d _ x _ => b2n (rSV x d != .s 0)
  | .atmCdec _ _ _ _ d _ x => b2n (rSV x d != .s 0)
  | .atmFaddl _ _ d _ _ _ => b2n (d != 0)
  | .fat _ _ _ d _ _ _ => b2n (d != 0)
  | .mrd ty d _ _ _ => 1 + (rTwo ty d).length
  | .sysc _ => 1
  | .rinv _ _ _ _ _ _ _ _ _ => 1
  | .launch _ _ _ _ => 1
  | .spawn _ _ _ _ _ _ _ => 1
  | .bbArr _ _ => 1
  | .bbArrDecl _ _ => 1
  | .bbArrLeave _ _ => 1
  | _ => 0
/-- An instruction that a checked slice has issued enters its lag window with its values and its effect. -/
def lagPush (s : State) (i : Instr) (y : Slice) : Slice :=
  if checkedSlice s y then { y with lag := y.lag ++ [(takesValues y i, b2n (outside i))] } else y
/-- In each cycle in which its leading slice does not issue, a shadow executes an instruction. -/
def lagDrain (n : Nat) (x : Slice) : Slice := if x.lag.isEmpty then x else { x with lag := x.lag.drop n }
/-- A leading slice that has stopped, for whatever reason, has its shadow with it (21 R336). -/
def catchUp (s : State) (x : Slice) : Slice :=
  if x.lag.isEmpty then x
  else
    let stopped : Bool := match x.run with
      | .held => true
      | .retired => true
      | .parked _ => true
      | _ => false
    if stopped || (!x.handler && (s.block x.block).run != .running) then { x with lag := [] } else x


/-! ### The execution of a shadow and the comparison (05 R130, 21 R336, R337) -/

/-- The slices of an issue with the register files of their shadows: a cross-lane instruction reads the shadows of the recorded
membership (05 R130). -/
def asShadows (s : State) (ids : List Nat) : State :=
  s.mapSlices fun x => if ids.contains x.id then match s.shadow? x.id with | some z => shadowRegs z x | none => x else x
/-- What of a slice is compared as a whole after an instruction: branch outcome, loops, lanes, traps, the execute-vector state. The
register files are compared where they are written, and values from outside reach both slices alike. -/
def comparedPart (x : Slice) : Slice :=
  { x with s := [], v := [], k := [], c := [], ct := 0, land := [], region := x.region.map fun r => { r with snap := {} }, xv := { x.xv with queue := [] } }
/-- Two slices hold the same in a register, in some lanes of a vector one. -/
def sameReg (m : W32) (y z : Slice) (r : Reg) : Bool :=
  match r with
  | .v _ => (List.range 32).all fun l => !m.getLsbD l || (regVals y r).getD l 0 == (regVals z r).getD l 0
  | _ => regVals y r == regVals z r
/-- Registers that an instruction writes at its issue, and the operands of a service that is made later, are the same. -/
def sameWrites (i : Instr) (x y z : Slice) : Bool :=
  ((latency i).isNone || (dstRegs i).all (sameReg (dstLanes x i) y z)) &&
    match i with
    | .sysc _ => (srcRegs i).all (sameReg 0 y z)
    | _ => true
/-- Everything but what the members hold in their registers: the effects of an issue. -/
def effectsOf (ids : List Nat) (s : State) : State :=
  { s with shadows := [], units := s.units.map fun u => { u with hregs := u.hregs.map comparedPart }
           slices := s.slices.map fun x => if ids.contains x.id then comparedPart x else x }
/-- The member of an issue in which the shadow's result differs: `s` is the state before, `t` what the leading slices have made of
it, `z` what their shadows have. -/
def mismatch (i : Instr) (ids : List Nat) (s t z : State) : Option Nat :=
  match ids.find? fun id => !(comparedPart (t.slice id) == comparedPart (z.slice id) && sameWrites i (s.slice id) (t.slice id) (z.slice id)) with
  | some id => some id
  | none => if effectsOf ids t == effectsOf ids z then none else ids.head?
/-- The shadows of an issue execute it too. A mismatch names its slice, and nothing of the instruction is released; else the shadows
that differed hold what they have written. -/
def shadowIssue (i : Instr) (ids : List Nat) (l : List Stale) (s t : State) : Except Nat State :=
  if ids.all fun id => (s.shadow? id).isNone then .ok t
  else
    let early := fun (s : State) => l.foldl (fun (s : State) q => s.updSlice q.id fun y => putReg y q.old q.reg) s
    let z0 := early (asShadows s ids)
    match exec i z0 with
    | .next z =>
      match mismatch i ids s t z with
      | some id => .error id
      | none =>
        let late := l.map fun q => { q with new := regVals ((asShadows s ids).slice q.id) q.reg }
        let z := unstale i z0 z late
        .ok { t with shadows := t.shadows.map fun (y : Slice) => if ids.contains y.id then z.slice y.id else y }
    | _ => .ok t

/-! ### Values from outside (21 R336) -/

/-- What has changed of a store from `a` to `b` changes in `c` too. -/
def followCells {w : Nat} (a b c : Cells w) : Cells w :=
  ((a ++ b).map Prod.fst).eraseDups.foldl (fun (c : Cells w) k => if Cells.get a k == Cells.get b k then c else c.set k (Cells.get b k)) c
/-- A shadow after a move: what reached its leading slice from outside has reached it too. -/
def followSlice (x y z : Slice) : Slice :=
  { y with s := followCells x.s y.s z.s, v := followCells x.v y.v z.v, k := followCells x.k y.k z.k, c := followCells x.c y.c z.c
           ct := z.ct ^^^ (x.ct ^^^ y.ct), xv := { y.xv with queue := z.xv.queue.drop (z.xv.queue.length - y.xv.queue.length) } }
/-- The shadow has its leading slice's registers again, or the slice has left the machine. -/
def shadowOver (s : State) (z : Slice) : Bool :=
  let y := s.slice z.id
  y.run == .retired || (!y.handler && (s.block y.block).run == .saved) || shadowRegs z y == y
/-- The shadows after a move from `s` to `t`. -/
def followShadows (s t : State) : State :=
  if t.shadows.isEmpty then t
  else
    let l := t.shadows.map fun (z : Slice) => if s.slices.any fun x => x.id == z.id then followSlice (s.slice z.id) (t.slice z.id) z else z
    { t with shadows := l.filter fun z => !shadowOver t z }
/-- A wrong value in a register of a slice. -/
def flipped (cls key : Nat) (bits : W64) (x : Slice) : Slice :=
  match cls with
  | 0 => if 0 < key ∧ key < 64 then { x with s := x.s.set key (x.s.get key ^^^ bits) } else x
  | 1 => if key < 32 * x.allot then { x with v := x.v.set key (x.v.get key ^^^ bits.setWidth 32) } else x
  | 2 => if key < 8 then { x with k := x.k.set key (x.k.get key ^^^ bits.setWidth 32) } else x
  | 3 => if 0 < key ∧ key < 16 then { x with c := x.c.set key (x.c.get key ^^^ bits.setWidth 128) } else x
  | _ => x
/-- An undetected error in a slice, or in the shadow of a checked one. -/
def upset (s : State) (id : Nat) (shadow : Bool) (f : Slice → Slice) : State :=
  let x := s.slice id
  if !(s.slices.any fun y => y.id == id) || x.run == .retired then s
  else
    let l := if (s.shadow? id).isSome || !checkedSlice s x then s.shadows else s.shadows ++ [x]
    let s : State := { s with shadows := l }
    if shadow then { s with shadows := recUpd Slice.id s.shadows id f } else s.updSlice id f

end Sys2Proof.Machine
end

