-- ==== Sys2Proof/Machine/Issue.lean ====
section
/-! DEFINITION. What moves next: issue groups fetched, decoded, checked for hazards and executed; the steps without a
word that are due; arriving messages; proxy words; and the passing of cycles (02 R25-R51, 03 R53-R56, 13 R236, 17 R290,
18 R304; logs 2, 5 and 8). -/
namespace Sys2Proof.Machine

/-! ### Cycles -/

/-- The hang counter of a slice runs: its slot issues, its block runs, and it neither is parked nor in the handler (02 R46,
18 R304). -/
def hangRuns (s : State) (x : Slice) : Bool :=
  slotIssues s x && (s.ctxOf x).killing == 0 && (x.handler || (s.block x.block).run == .running) &&
    match x.run with
    | .ready => true
    | .waiting _ => true
    | _ => false
/-- A live slice of the block stands on a slot that issues. -/
def blockSlot (s : State) (b : Block) : Bool := (s.blockSlices b.id).any fun x => x.isAlive && slotIssues s x
/-- Park counter and pre-emption deadline of a block after `n` cycles (13 R241, 18 R306). -/
def passBlock (s : State) (n : Nat) (b : Block) : Block :=
  if b.run != .running then b
  else
    { b with
      park := if !blockSlot s b then b.park else if swapCond s b then b.park + n else 0
      preempt := if blockService s b.id then b.preempt.map (· + n) else b.preempt }
/-- Cycles for which the issuing slot of a paddock has had no work while the other has (18 R304). -/
def quietPdk (s : State) (n : Nat) (p : Pdk) : Pdk :=
  if (slotCtx p (1 - p.issuing)).isNone then { p with quiet := 0 }
  else if slotWork s p.id || !slotWork (switched s p.id) p.id then { p with quiet := 0 } else { p with quiet := p.quiet + n }
/-- Sevenths of a nominal cycle in a cycle of a die: a derated one runs at 7/8 (23 R369). -/
def period (d : Die) : Nat := if d.derated then 8 else 7
/-- Cycles of die `e` that end while die `d` goes through `n` of its own. -/
def dieCycles (s : State) (d n e : Nat) : Nat :=
  if e = d then n else ((s.die e).rest + n * period (s.die d)) / period (s.die e)
/-- Each die's counter advances by its own clock (00 R3). -/
def tickClk (s : State) (d n e : Nat) : State :=
  s.updDie e fun x =>
    { x with cc := x.cc + dieCycles s d n e, rest := if e = d then x.rest else (x.rest + n * period (s.die d)) % period x }
/-- `n` cycles of die `d` go by. -/
def pass (s : State) (d n : Nat) : State :=
  let c := dieCycles s d n
  let t : State := (List.range s.part.dies).foldl (fun (t : State) e => tickAge (tickClk t d n e) e (c e)) s
  let t : State := t.mapSlices fun x => if hangRuns s x then { x with hang := x.hang + c x.die } else x
  let t : State := t.mapSlices fun x => if s.group.contains x.id then x else lagDrain (c x.die) x
  { t with blocks := t.blocks.map fun b => passBlock s (c b.die) b, pdks := t.pdks.map fun p => quietPdk s (c (p.id / 192)) p }

/-! ### Hazards (03 R53-R56, 12 R222) -/

/-- Members that take a cycle (02 R30). -/
def issuing (s : State) (i : Instr) (ids : List Nat) : List Nat := ids.filter fun id => !skips (s.slice id) i
/-- Every member of a group that is about to issue with its own cycle: they issue one cycle apart (02 R30). -/
def withTurns (s : State) (i : Instr) (ids : List Nat) : State :=
  let on := issuing s i ids
  s.mapSlices fun x => if ids.contains x.id then { x with nextIssue := s.clk x.die + min (on.idxOf x.id) on.length } else x
/-- A member whose STALL has not passed when its turn comes; a word that has no effect in any member takes one cycle of each
(02 R30, 03 R54). -/
def early (s : State) (i : Instr) (ids : List Nat) : Bool :=
  let on := issuing s i ids
  if on.isEmpty then ids.any fun id => decide (s.clk (s.slice id).die < (s.slice id).nextIssue)
  else on.any fun id => decide (s.clk (s.slice id).die + on.idxOf id < (s.slice id).nextIssue)
/-- The pending vector registers that an instruction gives up, which count as its destinations (02 R40, R41, 03 R55; log 91). -/
def released (i : Instr) (pend : List Reg) : List Reg :=
  let above := fun (e : Nat) => pend.filter fun r => match r with
    | .v n => decide (32 + e ≤ n)
    | _ => false
  match i with
  | .alloc e => above e.toNat
  | .free => above 0
  | _ => []
/-- Registers for which a member must wait at its turn: destinations and sources with a result on its way (03 R54, R55). -/
def hazardRegs (s : State) (i : Instr) (w : W64) (x : Slice) : List Reg :=
  if reissued x then []
  else
    let pend := pendingRegs s x
    (if skips x i then [] else (dstRegs i).filter (pend.contains ·) ++ released i pend) ++
      (if interlocked w x || w.getLsbD 7 then (srcsOf x i).filter (pend.contains ·) else []) ++
      (if interlocked w x then (srcsOf x i).filter (onWay s x) else [])
/-- Accesses whose place in program order comes after the matrix instructions that the slice issued before (12 R222). -/
def ordered : Instr → Bool
  | .ld _ _ _ _ _ _ _ => true
  | .st _ _ _ _ _ _ _ => true
  | .ldc _ _ _ _ _ _ => true
  | .stc _ _ _ _ _ _ => true
  | .ldV _ _ _ _ _ _ => true
  | .stV _ _ _ _ _ _ => true
  | .fence _ _ => true
  | .cpy _ _ _ => true
  | .cpy2d _ _ _ => true
  | .cpyG _ _ _ _ => true
  | .cpyS _ _ _ _ => true
  | .qfence _ _ _ _ => true
  | .kvc _ _ _ _ _ _ _ _ => true
  | .atm _ _ _ _ _ _ _ _ _ => true
  | .atmBinc _ _ _ _ _ _ _ _ => true
  | .atmWinc _ _ _ _ _ _ _ _ => true
  | .atmCdec _ _ _ _ _ _ _ => true
  | .atmFaddl _ _ _ _ _ _ => true
  | .fat _ _ _ _ _ _ _ => true
  | .redF _ _ _ _ _ _ => true
  | .barArr _ _ => true
  | .bbArr _ _ => true
  | .bbArrDecl _ _ => true
  | .bbArrLeave _ _ => true
  | .mperm _ _ _ => true
  | .gjoin => true
  | .spawn _ _ _ _ _ _ _ => true
  | .spawnRec _ _ _ => true
  | .launch _ _ _ _ => true
  | .rinv _ _ _ _ _ _ _ _ _ => true
  | .tdone _ => true
  | .exit _ => true
  | .sexit => true
  | .targ _ _ _ => true
  | .xvSave _ _ _ => true
  | .xvLoad _ _ _ => true
  | _ => false
/-- The matrix queue holds an access of the slice. -/
def matrixAccess (s : State) (x : Slice) : Bool :=
  (s.units.flatMap PUnit.mq).any fun m => m.members.contains x.id && match m.i with
    | .mlw _ _ _ => true
    | .mst _ _ _ _ _ => true
    | .mout _ _ _ _ => true
    | _ => false
/-- A group does not issue its word now. -/
def mustHold (s : State) (ids : List Nat) (i : Instr) (w : W64) : Bool :=
  early s i ids || ids.any fun id =>
    let x := (withTurns s i ids).slice id
    !(hazardRegs s i w x).isEmpty || (ordered i && !reissued x && matrixAccess s x)
/-- Far atomics whose results a member waits for. -/
def pendingFats (s : State) (x : Slice) (rs : List Reg) : List Command :=
  s.cmds.filter fun c => c.kind == 6 && c.slice == x.id && rs.contains (rS c.dreg)
/-- A member whose result is parked parks until it comes (02 R36). -/
def parkFats (s : State) (ids : List Nat) (i : Instr) (w : W64) : State :=
  ids.foldl (fun (s : State) id =>
    let x := s.slice id
    let cs := pendingFats s x (hazardRegs s i w x)
    if cs.any Command.parked then (leaveGroup s x).updSlice id fun y => { y with run := .parked (.cmds (cs.map Command.id)) }
    else s) s

/-! ### Issuing a group (02 R25-R30, R51) -/

/-- Fixed-latency writes of an instruction, as the following instructions find them (03 R57). -/
def recents (i : Instr) (x : Slice) (start : Nat) : List Recent :=
  match latency i with
  | none => []
  | some l => (dstRegs i).map fun r => { cls := r.key.1, num := r.key.2, due := start + l, old := regVals x r }
/-- STALL of a native word (03 R54). -/
def stallOf (w : W64) : Nat := if w.toNat % 4 = 1 then bitsOf w.toNat 2 4 else 0
/-- What an issue leaves of a member that it did not stop; `x` is the member before it. A member that holds has not issued yet, but for one that
yielded, which has gone on to its next instruction, and one in `alloc`, which does so at its grant (04 R95, 02 R40). -/
def issuedSlice (s : State) (i : Instr) (w : W64) (start : Nat) (x y : Slice) : Slice :=
  let y' : Slice := { completed x.pc y with
    recent := (y.recent.filter fun e => decide (start < e.due)) ++ recents i x start, nextIssue := start + 1 + stallOf w }
  match y.run with
  | .ready => lagPush s i y'
  | .waiting (.yield _) => lagPush s i y'
  | .waiting (.alloc _) => { y with nextIssue := start + 1 + stallOf w }
  | .waiting _ => { y with nextIssue := start + 1 }
  | _ => y
/-- Slices that yielded no longer wait for those that have issued (04 R95). -/
def forgetYield (ids : List Nat) (y : Slice) : Slice :=
  match y.run with
  | .waiting (.yield o) => if ids.contains y.id then y else { y with run := .waiting (.yield (o.filter fun j => !ids.contains j)) }
  | _ => y
/-- The end of an issue: members one cycle apart, in slice order; the cycles pass. A member in which the word has no effect has
issued it in its group's first cycle, or once its earlier STALL has passed (log 111). `first`: members that issue the word for the
first time, which count as instructions issued (22 R363); `f`: a member with the later values of the sources that it read too early;
`due`: the cycle before which a member was not to issue. -/
def afterIssue (f : Slice → Slice) (due : Nat → Nat) (s t : State) (ids : List Nat) (i : Instr) (w : W64) (first : Nat) : State :=
  let on := issuing s i ids
  let t : State := (linkAccess s ids i t).mapSlices fun y =>
    if on.contains y.id then cleaned i (issuedSlice s i w (s.clk y.die + on.idxOf y.id) (f (s.slice y.id)) y)
    else if ids.contains y.id then lagPush s i { completed (s.slice y.id).pc y with nextIssue := max (due y.id) (s.clk y.die) + 1 + stallOf w } else forgetYield ids y
  let n := max 1 on.length
  let x := s.slice (ids.headD 0)
  { pass { (t.count x.ck 1 n).count x.ck 2 first with focus := x.id, group := ids } x.die n with group := [] }
/-- A hold that is only of a result or of a turn is over when its group issues again. -/
def normalised (i : Instr) (x : Slice) : Slice :=
  match x.run with
  | .waiting (.yield _) => { x with run := .ready }
  | .waiting (.cmds ids) => match i with
    | .fence _ _ => x
    | .rinv _ _ _ _ _ _ _ _ _ => if ids.isEmpty then x else { x with run := .ready }
    | _ => { x with run := .ready }
  | _ => x
/-- The state in which a group's instruction is executed. -/
def atIssue (s : State) (ids : List Nat) (i : Instr) (w : W64) : State × List Stale :=
  let s : State := { withTurns s i ids with group := ids, word := w }
  let p := staleReads (· == .k 0) ids i w (s.mapSlices fun x => if ids.contains x.id then normalised i x else x, [])
  staleReads (· != .k 0) ids i w (withTurns p.1 i ids, p.2)
/-- A cycle in which a group holds: results that its members await land, and the next group has its turn (02 R45, R50;
log 2). -/
def holdCycle (s : State) (ids : List Nat) (i : Instr) (w : W64) : State :=
  let s : State := ids.foldl flushSlice (parkFats s ids i w)
  pass { s with focus := ids.headD 0 } (s.slice (ids.headD 0)).die 1
/-- A group issues a decoded word: it waits for its registers, consumes an error, or executes; the shadows of its members do the
same, and a mismatch releases nothing (21 R337). -/
def issueWord (s : State) (ids : List Nat) (i : Instr) (w : W64) : Result :=
  if mustHold s ids i w then .next (holdCycle s ids i w)
  else if usesPoison s ids i then .next (pass (s.consume (s.slice (ids.headD 0)).block none) (s.slice (ids.headD 0)).die 1)
  else
    let p := atIssue s ids i w
    match exec i p.1 with
    | .next t =>
      match shadowIssue i ids p.2 p.1 t with
      | .error id => .next (pass (s.consume (s.slice id).block (some (.paddock (s.slice id).pk))) (s.slice (ids.headD 0)).die 1)
      | .ok t => .next (afterIssue (fun x => (refreshed p.1 p.2).slice x.id) (fun id => (s.slice id).nextIssue) p.1 (unstale i p.1 t p.2) ids i w
        ((issuing p.1 i ids).filter fun j => !reissued (s.slice j)).length)
    | .fault f => .fault f
    | .refused r => .refused r
/-- A group whose word cannot be fetched: each member traps. -/
def issueFault (s : State) (ids : List Nat) : Result :=
  .next (pass (ids.foldl (fun (s : State) id => stateOf s (exec (.fetchFault id) s)) { s with group := ids }) (s.slice (ids.headD 0)).die 1)
/-- A group fetches, decodes and issues. -/
def issueGroup (s : State) (ids : List Nat) : Result :=
  let x := s.slice (ids.headD 0)
  match fetchAt s x with
  | (.word w, s) =>
    match decode (hdrOf s x) w.toNat with
    | .ok i => issueWord s ids i w
    | .error _ => issueWord s ids (.unassignedOpcode (BitVec.ofNat 8 (w.toNat / 256))) w
  | (_, s) => issueFault s ids
/-- The next word of a slice stands behind a memory channel that takes no access now (21 R341, R343). -/
def fetchHeld (s : State) (x : Slice) : Bool := chanStop s && accessHeld s (some x.pk) x.ck (s.ctxOf x).gen x.pc.toNat
/-- The next issue of a slice: a breakpoint is looked at first; a slice that is not ready lets a cycle pass. -/
def issueAt (id : Nat) (s : State) : Result :=
  let ids := formGroup s (s.slice id)
  if !ids.contains id || fetchHeld s (s.slice id) then .next (pass { s with focus := id } (s.slice id).die 1)
  else match ids.find? fun j => breakDue s (s.slice j) with
    | some j => exec (.breakpointStop j) s
    | none => issueGroup (regroup s ids) ids

/-- A trap that waited for a boundary of its slice (10 R187). -/
def pagexDue (s : State) (x : Slice) : Bool := !x.pagex.isEmpty && pagexNow x && (s.block x.block).run == .running && (s.ctxOf x).killing == 0
def takePagex (s : State) (id : Nat) : State :=
  let x := s.slice id
  match x.pagex with
  | [] => s
  | t :: r => takeTrap ((leaveGroup s x).updSlice id fun x => { x with pagex := r, run := .ready }) id { t with rpc := x.pc }

/-! ### Proxy words (13 R236) -/

/-- A proxy word waits: for results still to come in registers that it names, and for matrix accesses that the target
issued before it (13 R236, 02 R50). -/
def proxyWaits (s : State) (t : Slice) (i : Instr) : Bool :=
  (let pend := pendingRegs s t
   (dstRegs i ++ srcsOf t i).any (pend.contains ·)) || (ordered i && matrixAccess s t)
/-- A write of a loop level, whose new value stands. -/
def setsLoop : Instr → Bool
  | .lcWrite _ _ => true
  | _ => false
/-- The word of a unit's handler runs on the target as a group of its own, whose place in its program does not change; what the
target awaits from its landing buffer lands before. The loop levels stay but where the word writes one. -/
def runProxy (s : State) (u : PUnit) (w : W64) : Option State :=
  let h := s.slice u.hslice
  match heldTarget s h with
  | none => some (s.updUnit u.id fun u => { u with proxy := none })
  | some t =>
    let s : State := flushSlice s t.id
    match decode (hdrOf s t) w.toNat with
    | .error _ => some (s.updUnit u.id fun u => { u with proxy := none, hxs := tILLOP })
    | .ok i =>
      let t := s.slice t.id
      if proxyWaits s t i then none
      else
      -- A loop level's write is no end of a loop body: there the program counter stands aside.
      let s0 : State := { s.updSlice t.id fun x => { x with run := .ready, gm := ownBit x, pc := if setsLoop i then 1 else x.pc } with
                            proxy := some u.id, group := [t.id], word := w }
      match exec i s0 with
      | .next r =>
        let r := flushSlice r t.id
        let y := r.slice t.id
        let held : Bool := match y.run with
          | .waiting .xvDone => false
          | .waiting (.cmds []) => false
          | .waiting _ => true
          | _ => false
        if held then none
        else match y.run with
        | .retired => some ({ r with proxy := none, group := [] }.updUnit u.id fun u => { u with proxy := none })
        | _ =>
          let y := if setsLoop i then y else { y with lc0 := t.lc0, lc1 := t.lc1 }
          let back : Slice := { y with pc := t.pc, run := .held, marked := t.marked }
          some ({ r with proxy := none, group := [] }.putSlice back |>.updUnit u.id fun u => { u with proxy := none })
      | _ => some (s.updUnit u.id fun u => { u with proxy := none })
/-- The first proxy word that can run. -/
def proxyStep (s : State) : Option State := s.units.findSome? fun u => u.proxy.bind fun w => (runProxy s u w).map fun t => pass t (u.id / 12288) 1

/-! ### Steps without a word -/

/-- A block's slices and their units go on. -/
def liveBlock (s : State) (b : Nat) : Bool := let r := (s.block b).run; r == .running || r == .ended
/-- A slice's step may happen. -/
def sliceLive (s : State) (x : Slice) : Bool := (s.ctxOf x).killing == 0 && liveBlock s x.block
/-- Whether a step without a word is due; one that comes from outside always is. -/
def enabled (s : State) : Instr → Bool
  | .xvRetire id => !(s.slice id).xv.queue.isEmpty && sliceLive s (s.slice id)
  | .loadDataReturn id => !(s.slice id).land.isEmpty && sliceLive s (s.slice id)
  | .syscAnswer id =>
    let x := s.slice id
    (match x.run with | .waiting (.sysc _) => true | _ => false) && controllerUp s x.die && sliceLive s x
  | .commandComplete id => match s.cmd id with
    | some c => completeReady s c && liveBlock s c.block && (s.ctx c.ctx).killing == 0
    | none => false
  | .queuePerformCommand q => (queueNext s q).isSome
  | .redFRetry id => match s.cmd id with
    | some c => c.status == 3 && c.stage == 0 && decide (c.due ≤ s.clk c.die) && liveBlock s c.block && !channelHolds s c
    | none => false
  | .faultRecordPendingWrite k => !(s.ctx k).pendingRec.isEmpty && fqRoom (s.ctx k)
  | .matrixPerform u => match (s.punit u).mq with
    | m :: _ => slotIssues s (s.slice m.slice) && sliceLive s (s.slice m.slice) && mxReady s u
    | [] => false
  | .taskRetireSignals i => let t := stateOf s (execTaskRetireSignals i s); t.retiring != s.retiring || t.pushbuf != s.pushbuf
  | .idleTimeout id =>
    let x := s.slice id
    (match x.run with | .waiting (.idle due) => due != 0 && decide (due ≤ s.clk x.die) | _ => false) && sliceLive s x
  | .hang id => hangDue s (s.slice id) && (s.ctxOf (s.slice id)).killing == 0
  | .stallTimerExpiry i => stallDue s (s.stall i)
  | .invokeTake d => controllerUp s d && (nextInvoke s d).isSome
  | .trapServiceStart u => serviceDue s (s.punit u)
  | .dispatch d => (dispatchOnce s d).2
  | .yardResend n => resendDue s n
  | .lightSave b => askedFor s b && (stateOf s (execLightSave b s)).block b != s.block b
  | .preemptTimeout b => askedFor s b && (stateOf s (execPreemptTimeout b s)).block b != s.block b
  | .swapOut b => swapDue s (s.block b)
  | .blockRestore i => (stateOf s (execBlockRestore i s)).saved.length != s.saved.length
  | .duplexSwitch p => switchDue s p
  | .killQuiescence k => (s.ctx k).killing != 0 && quiescent s (killKeys s k)
  | .stepEnd b => stepDue s b
  | .breakpointStop id => breakDue s (s.slice id) && (formGroup s (s.slice id)).contains id
  | .crewKill _ => true
  | .selfTestDone u _ => underTest s u
  | .flitCrcFail _ => true
  | .failover _ => true
  | .wearTick d _ => wearDue s d
  | .thermalDerate _ => true
  | .thermalRestore _ => true
  | .bringUp _ => true
  | .hbmChannelResume n => (s.chan n).paused
  | .lifetimeRecordWrite => recordDue s
  | .thermalShutdown => true
  | .railFault => true
  | .powerDown => true
  | _ => false
/-- Every step of the machine's own that could be due, in the order in which this model takes them (log 2). The results of
a slice that is ready land when its group holds for one. -/
def ownSteps (s : State) : List Instr :=
  let ss := s.slices.map Slice.id
  let hs := (s.slices.filter fun x => x.run != .ready).map Slice.id
  let bs := s.blocks.map Block.id
  let ds := List.range s.part.dies
  let steps : List (List Instr) := [
    (ds.filter (wearDue s)).map (fun d => .wearTick d (readRates s d)), if recordDue s then [.lifetimeRecordWrite] else [],
    (s.tests.filter (testDue s)).map (fun t => .selfTestDone t.unit (Config.testResult s.free)), (s.chans.filter (chanDue s)).map (fun c => .hbmChannelResume c.id),
    hs.map .xvRetire, hs.map .loadDataReturn, ss.map .syscAnswer, s.cmds.map (fun c => .commandComplete c.id),
    (s.cmds.map Command.queue).eraseDups.map .queuePerformCommand, s.cmds.map (fun c => .redFRetry c.id),
    s.ctxs.map (fun c => .faultRecordPendingWrite c.id), s.units.map (fun u => .matrixPerform u.id),
    s.retiring.map (fun r => .taskRetireSignals r.id), s.pushbuf.map (fun r => .taskRetireSignals r.id), ss.map .idleTimeout, ss.map .hang,
    s.units.map (fun u => .trapServiceStart u.id), s.stalls.map (fun y => .stallTimerExpiry y.id), ds.map .invokeTake,
    (List.range s.resend.length).map .yardResend, s.ctxs.map (fun c => .killQuiescence c.id), bs.map .stepEnd, bs.map .lightSave,
    bs.map .preemptTimeout, bs.map .swapOut, ds.map .dispatch, s.saved.map (fun v => .blockRestore v.id), s.pdks.map (fun p => .duplexSwitch p.id)]
  steps.flatten
/-- The first step of the machine's own that is due. -/
def ownStep (s : State) : Option Instr := (ownSteps s).find? (enabled s)

/-! ### Messages (17 R290, R292) -/

/-- A message has its effect; one of no effect or of a reserved type ends here. -/
def takeMsg (s : State) (m : Msg) : Result :=
  let s : State := { s with msg := m }
  match decodeMsg m with
  | some i => exec i s
  | none => .next (if typeKnown m.type then s else { s with drops := s.drops + 1 })
/-- A message that reads or writes memory. -/
def memType (m : Msg) : Bool := m.type == mWRITE || m.type == mREAD || m.type == mFATM || m.type == mRED || m.type == mDATA
/-- The access of a message, or of a read's data where they land, waits for a memory channel. -/
def memHeld (s : State) (m : Msg) : Bool :=
  chanStop s && (
    if m.type == mDATA then match (awaited s m).bind fun a => (s.cmd a.cmd).map fun c => (a, c) with
      | some (a, c) => let p := c.pieceAt c.piece; p.dspace == 0 && accessHeld s none c.ctx c.gen (p.dst + a.off)
      | none => false
    else if m.type == mRED then match windowAt s m.grp (m.at' 0 8) with
      | some w => m.arg == 0x8000 && accessHeld s none w.ctx (s.ctx w.ctx).gen (w.base + m.at' 0 8)
      | none => false
    else if memType m then match podAccess s m.grp (m.at' 0 8) 1 with
      | some (o, a) => accessHeld s none o.k o.gen a
      | none => false
    else false)
/-- A message waits at the package: for a port, or for a channel, behind those that wait for one (21 R343). -/
def msgWaits (s : State) (m : Msg) : Bool := (inPort s m).isNone || memHeld s m
/-- A message comes in by a port: a management command waits behind the ones of its die, and a message behind a marker that waits. -/
def takeIn (s : State) (m : Msg) : Result :=
  let m := { m with port := (inPort s m).getD 0 }
  if behindMarker s m then .next { s with behind := s.behind ++ [m] }
  else if m.type == mMGMT && s.mgmtq.any fun q => msgDie q == msgDie m then .next ({ s with msg := m }.queueMgmt m)
  else takeMsg s m
/-- A message arrives. -/
def arriveMsg (s : State) (m : Msg) : Result :=
  if msgWaits s m || (memType m && s.linkq.any memType) then .next { s with linkq := s.linkq ++ [m] } else takeIn s m
/-- The first message that waited at the package and can come in: those that access memory keep their order. -/
def nextLink (s : State) : Option Msg :=
  (s.linkq.zipIdx.find? fun p => !msgWaits s p.1 && !(memType p.1 && (s.linkq.take p.2).any memType)).map (·.1)
/-- A message for the package's own node, which comes back to it. -/
def ownMsg (s : State) : Option Msg := s.outbox.find? fun m => m.dst == s.node
/-- The first management command that waits for a die which is free now. -/
def nextMgmt (s : State) : Option Msg := s.mgmtq.find? fun m => !mgmtBusy s (msgDie m)

/-! ### The next move -/

/-- The first slice of a group that forms and has no STALL before it (03 R54). -/
def issuable (s : State) (x : Slice) : Bool :=
  readyNow s x && !fetchHeld s x &&
    let ids := formGroup s x
    ids.head? == some x.id && ids.all fun j => decide ((s.slice j).nextIssue ≤ s.clk x.die + ids.idxOf j)
/-- The group that issues next: round-robin after the last one (log 2). -/
def nextSlice (s : State) : Option Nat :=
  match s.slices.find? fun x => decide (s.focus < x.id) && issuable s x with
  | some x => some x.id
  | none => (s.slices.find? (issuable s)).map Slice.id
/-- What the machine does when nothing is asked of it from outside. -/
def ownMove (s : State) : Result :=
  match ownMsg s with
  | some m => arriveMsg { s with outbox := s.outbox.erase m } m
  | none =>
  match nextLink s with
  | some m => takeIn { s with linkq := s.linkq.erase m } m
  | none =>
  match nextBehind s with
  | some m => takeMsg { s with behind := s.behind.erase m } m
  | none =>
    match proxyStep s with
    | some t => .next t
    | none =>
      match s.slices.find? (pagexDue s) with
      | some x => .next (takePagex s x.id)
      | none =>
        match nextMgmt s with
        | some m => takeMsg { s with mgmtq := s.mgmtq.erase m } m
        | none =>
          match ownStep s with
          | some i => exec i s
          | none =>
            match nextSlice s with
            | some id => issueAt id s
            | none => .next (pass s 0 1)
/-- A move that comes from outside (log 2). -/
def outerMove (a : Act) (s : State) : Result :=
  match a with
  | .event i => if enabled s i then exec i s else .next s
  | .msg m => arriveMsg s m
  | .issue id => issueAt id s
  | .ringHead d i h => .next (s.updSession (d * 4 + i) fun x => { x with head := h })
  | .logHead v h => .next (s.updVdev v fun x => { x with head := h })
  | .counterGet d i n => .next { s with reads := s.reads ++ [counterWord s.part (s.session (d * 4 + i)) n] }
  | .counterSet d i n v => .next (s.updSession (d * 4 + i) fun x => if eventKnown s.part (x.events.getD n 0) then { x with counters := x.counters.set n (v &&& ((1 : W64) <<< 63 - 1)) } else x)
  | .poison keys => .next (poisonAt s keys)
  | .markReg id n => .next (poisonReg s id n)
  | .markUnit u t p => .next (poisonUnit s u t p)
  | .ctlError d => .next (s.countDie d 0x40 1)
  | .upset id z c k b => .next (upset s id z (flipped c k b))
  | .error u ok => .next (unitError s u ok)
  | .carry c => .next { s with carried := recPut Carried.id s.carried c.id c }
/-- A slice that has come into the trap handler's hands leaves its group, and the results it has issued are written
(02 R27, R34, R50). -/
def heldSettle (s : State) : State :=
  s.slices.foldl (fun (s : State) x =>
    if x.run == .held && (x.gm &&& ~~~ownBit x != 0 || !x.land.isEmpty || !x.xv.queue.isEmpty || (pendingRegs s x).any fun r => match r with | .v _ => true | _ => false) then
      leaveGroup (flushSlice s x.id) (s.slice x.id)
    else s) s
/-- The crews that have used a poisoned value are killed (21 R339, R342). -/
def consumedKills (s : State) : State := s.consumed.foldl (fun (s : State) p => killCrew p.1 p.2 s) { s with consumed := [] }
/-- What ends every move: arrivals whose releases have been performed count; crews that have consumed an error are killed; shadows catch up; stalls come back to contexts that are resident again; held slices settle; stops and cuts that have become possible take place. -/
def moveEnd (s : State) : State := 
  let s : State := crewsGone (consumedKills (lateArrivals s))
  let s : State := heldSettle (stallsBack { s with slices := s.slices.map (catchUp s) })
  { cutsSettle (askedSettle (replaysSettle (finishStops s))) with group := [] }
/-- A package whose rails are down moves only by coming up (23 R367). -/
def downMove (s : State) : Result :=
  match s.agenda with
  | .event (.bringUp ok) :: rest => exec (.bringUp ok) { s with agenda := rest }
  | _ :: rest => .next { s with agenda := rest }
  | [] => .fault .unpowered
/-- A move of a package that is up. -/
def upMove (s : State) : Result :=
  match s.agenda with
  | a :: rest => outerMove a { s with agenda := rest }
  | [] => ownMove s

/-! ### Placing a word for the next fetch (log 3) -/

/-- Where the placed word's page tables, header and code stand: physical addresses, equal to virtual ones. -/
def fetchTop : Nat := 0x8000
def fetchTable : Nat := 0x10000
def fetchCode : Nat := 0x20008
/-- The header of the kernel: generation 9, one gang slice, 15 byte barriers, 15 core barriers, 12 tiles, `v0`-`v31`, unchecked. -/
def fetchHeader : W64 := BitVec.ofNat 64 (2 + 2 ^ 8 * 32 + 2 ^ 32 * 12 + 2 ^ 40 * 15 + 2 ^ 44 * 15 + 2 ^ 48 * 1 + 2 ^ 56 * 9)
/-- The bytes of the descriptor of context 0 that a fetch needs: valid, generation 1, defaults, page table, code, pool, spill. -/
def fetchCtx : Ctx :=
  let c : Ctx := Ctx.fresh 0
  (((((c.setFld 0 4 1).setFld 0x10 8 fetchTop).setFld 0x18 8 (fetchCode - 8)).setFld 0x20 8 4096).setFld 0x54 1 16).setFld 0x39 1 1
/-- One block of one slice on paddock 0 of core 0 of die 0, ready at the word. -/
def fetchBlock (s : State) (i : Nat) : Block :=
  { id := i, grid := i, crewBase := i, header := fetchHeader, entry := BitVec.ofNat 64 fetchCode, pdks := [0], order := s.uid }
def placeWord (s : State) (nbits w : Nat) : State :=
  let i := s.uid
  let m := Cells.setList s.mem fetchTop (leBytes 8 (fetchTable + 1))
  let m := Cells.setList m fetchTable (leBytes 8 0x1F)
  let m := Cells.setList m (fetchCode - 8) (leBytes 8 fetchHeader.toNat)
  let m := Cells.setList m fetchCode (leBytes 8 (w % 2 ^ min nbits 64))
  let b := fetchBlock s i
  let g : Grid := { id := i, header := fetchHeader, lrec := { entry := b.entry }, placed := 1 }
  let s : State := { s with
    mem := m, powered := true, uid := s.uid + 1
    ctxs := recPut Ctx.id s.ctxs 0 fetchCtx, tlb := s.tlb.filter fun e => !(e.die == 0 && e.ctx == 0)
    pdks := recPut Pdk.id s.pdks 0 { s.pdk 0 with slot0 := some 0, issuing := 0 }
    grids := s.grids ++ [g], blocks := s.blocks ++ [b]
    slices := s.slices ++ [startSlice { s with ctxs := [fetchCtx] } b i 0 0 0 (-1)] }
  { s with agenda := [.issue i] }

end Sys2Proof.Machine
end

