-- ==== Sys2Proof/Machine/Step.lean ====
section
/-! DEFINITION. One step of the machine, and the placing of a word where the next step fetches it. -/
namespace Sys2Proof.Machine

/-- One move: a step without a word, an arriving message, or the issue of one group (log 2). -/
def step (s : State) : Host.Outcome State Fault Refusal :=
  if s.powered then
    match upMove s with
    | .next t => .next (moveEnd (followShadows s t))
    | .fault f => .fault f
    | .refused r => .refused r
  else downMove s

/-- The state with a word where the next step fetches (log 3). -/
def State.withFetchWord (s : State) (nbits w : Nat) : State := placeWord s nbits w

end Sys2Proof.Machine
end

