-- ==== Sys2Proof/Safety.lean ====
section
/-! DEFINITION. What a safe run of this machine is: the package has power, every step answers a next state, and the
stores of the state stay in canonical form, so that equal memories are equal data. -/
namespace Sys2Proof.Machine

/-- An identity stands in the list of slices. -/
abbrev State.has (s : State) (id : Nat) : Prop := (s.slices.any fun x => x.id == id) = true

/-- The canonical form of a byte store: addresses strictly rising, and no entry equal to what an unlisted address
reads as, which is 0 (log 1). -/
def Memory.wf (m : List Host.Cell) : Bool := Cells.wf m

/-- Memory and its capability tags are in canonical form. -/
def State.canonical (s : State) : Prop := Memory.wf s.mem = true ∧ Memory.wf s.tags = true

/-- A run of a number of steps that never stops and passes through canonical states only. -/
def safeRun : Nat → State → Prop
  | 0, s => s.canonical
  | n + 1, s => s.canonical ∧ ∃ t, step s = .next t ∧ safeRun n t

end Sys2Proof.Machine
end

