-- ==== Sys2Proof/Certificates/Slice0/Obligations.lean ====
section
/-! DEFINITION. What the model claims of the machine, for the provers. -/
namespace Sys2Proof.Claims
open Sys2Proof.Machine

/-! ### How the statements speak -/

/-- No member traps before the instruction itself: PRIV, ALLOCX, STALLSHORT (13 R228). -/
def Clear (i : Instr) (s : State) : Prop := ∀ id ∈ s.group, issueTrap i s (s.slice id) = none
/-- Nothing but slices of the issuing group has changed; every byte of memory reads as before. -/
def GroupOnly (s t : State) : Prop :=
  t = { s with slices := t.slices } ∧ (∀ a, Cells.get t.mem a = Cells.get s.mem a) ∧
    ∀ id, s.has id → id ∉ s.group → t.slice id = s.slice id
/-- What holds of every member, before and after. -/
def Members (s t : State) (P : Slice → Slice → Prop) : Prop := ∀ id ∈ s.group, s.has id → P (s.slice id) (t.slice id)
/-- The instruction answers a next state in which members alone have changed, each as `P` says. -/
def Does (i : Instr) (P : State → Slice → Slice → Prop) : Prop :=
  ∀ s, Clear i s → ∃ t, exec i s = .next t ∧ GroupOnly s t ∧ Members s t (P s)
/-- Scalar register `d` receives `v` (a write to `s0` is discarded), and the slice goes to its next word. -/
def WritesS (i : Instr) (d : SReg) (v : State → Slice → W64) : Prop :=
  Does i fun s x y => (∀ r, y.rs r = if r = d ∧ d ≠ 0 then v s x else x.rs r) ∧ y = { advance x with s := y.s }
/-- Mask register `d` receives `v`, ANDed with `%alive` in `k0`. -/
def WritesK (i : Instr) (d : KReg) (v : Slice → W32) : Prop :=
  Does i fun _ x y =>
    (∀ r, y.rk r = if r = d then (if d = 0 then v x &&& x.alive else v x) else x.rk r) ∧ y = { advance x with k := y.k }
/-- Capability register `d` receives `v` (a write to `c0` is discarded). -/
def CapWritten (d : CReg) (v : Cap) (x y : Slice) : Prop :=
  (∀ r, y.rc r = if r = d ∧ d ≠ 0 then v else x.rc r) ∧ y = { advance x with c := y.c, ct := y.ct }

end Sys2Proof.Claims

open Sys2Proof Sys2Proof.Machine Sys2Proof.Claims

/-- R81: sums, differences, products and bitwise results; the immediate form reads IMM17 sign-extended. -/
def Obligations.ScalarArithmeticResults : Prop :=
  ∀ (d a : SReg) (b : SrcB),
    WritesS (.sadd d a b) d (fun _ x => BitVec.ofNat 64 ((x.rs a).toNat + (x.rb b).toNat)) ∧
    WritesS (.ssub d a b) d (fun _ x => BitVec.ofInt 64 ((x.rs a).toInt - (x.rb b).toInt)) ∧
    WritesS (.smul d a b) d (fun _ x => BitVec.ofInt 64 ((x.rs a).toInt * (x.rb b).toInt)) ∧
    WritesS (.smulh false d a b) d (fun _ x => BitVec.ofNat 64 ((x.rs a).toNat * (x.rb b).toNat / 2 ^ 64)) ∧
    WritesS (.smulh true d a b) d (fun _ x => BitVec.ofInt 64 ((x.rs a).toInt * (x.rb b).toInt / 2 ^ 64)) ∧
    WritesS (.sand d a b) d (fun _ x => x.rs a &&& x.rb b) ∧
    WritesS (.sor d a b) d (fun _ x => x.rs a ||| x.rb b) ∧
    WritesS (.sxor d a b) d (fun _ x => x.rs a ^^^ x.rb b)

/-- R82: the quotient is truncated toward zero, division by 0 gives all ones and leaves the dividend as the remainder, and
no division traps. -/
def Obligations.ScalarDivisionTruncates : Prop :=
  ∀ (d a : SReg) (b : SrcB),
    WritesS (.sdiv true d a b) d (fun _ x =>
      if x.rb b = 0 then 0xFFFFFFFFFFFFFFFF
      else if (x.rs a).toInt = -2 ^ 63 ∧ (x.rb b).toInt = -1 then BitVec.ofInt 64 (-2 ^ 63)
      else BitVec.ofInt 64 ((x.rs a).toInt.tdiv (x.rb b).toInt)) ∧
    WritesS (.srem true d a b) d (fun _ x =>
      if x.rb b = 0 then x.rs a
      else if (x.rs a).toInt = -2 ^ 63 ∧ (x.rb b).toInt = -1 then 0
      else BitVec.ofInt 64 ((x.rs a).toInt - (x.rs a).toInt.tdiv (x.rb b).toInt * (x.rb b).toInt)) ∧
    WritesS (.sdiv false d a b) d (fun _ x =>
      if x.rb b = 0 then 0xFFFFFFFFFFFFFFFF else BitVec.ofNat 64 ((x.rs a).toNat / (x.rb b).toNat)) ∧
    WritesS (.srem false d a b) d (fun _ x =>
      if x.rb b = 0 then x.rs a
      else BitVec.ofNat 64 ((x.rs a).toNat - (x.rs a).toNat / (x.rb b).toNat * (x.rb b).toNat))

/-- R81: shifts by the whole 64-bit count, lesser and greater, comparison, selection, moves and extensions; R83: `sli` and
`slih`. -/
def Obligations.ScalarShiftSelectMove : Prop :=
  ∀ (d a : SReg) (b : SrcB) (c : SReg) (t : Ty) (imm : W32),
    WritesS (.sshl d a b) d (fun _ x => if 64 ≤ (x.rb b).toNat then 0 else x.rs a <<< (x.rb b).toNat) ∧
    WritesS (.sshr d a b) d (fun _ x => if 64 ≤ (x.rb b).toNat then 0 else x.rs a >>> (x.rb b).toNat) ∧
    WritesS (.ssra d a b) d (fun _ x =>
      if 64 ≤ (x.rb b).toNat then (if (x.rs a).msb then -1 else 0) else (x.rs a).sshiftRight (x.rb b).toNat) ∧
    WritesS (.smin true d a b) d (fun _ x => BitVec.ofInt 64 (min (x.rs a).toInt (x.rb b).toInt)) ∧
    WritesS (.smin false d a b) d (fun _ x => BitVec.ofNat 64 (min (x.rs a).toNat (x.rb b).toNat)) ∧
    WritesS (.smax true d a b) d (fun _ x => BitVec.ofInt 64 (max (x.rs a).toInt (x.rb b).toInt)) ∧
    WritesS (.smax false d a b) d (fun _ x => BitVec.ofNat 64 (max (x.rs a).toNat (x.rb b).toNat)) ∧
    (∀ q g, WritesS (.scmp q g d a b) d (fun _ x => if condS q g (x.rs a) (x.rb b) then 1 else 0)) ∧
    WritesS (.ssel d a c) d (fun _ x => if x.rs d = 0 then x.rs c else x.rs a) ∧
    WritesS (.smov d a) d (fun _ x => x.rs a) ∧
    WritesS (.sli d imm) d (fun _ _ => BitVec.ofInt 64 imm.toInt) ∧
    WritesS (.slih d imm) d (fun _ x => BitVec.ofNat 64 (2 ^ 32 * imm.toNat + (x.rs d).toNat % 2 ^ 32)) ∧
    (t ∈ [Ty.n8, .n16, .n32] →
      WritesS (.sext t d a) d (fun _ x => BitVec.ofNat 64 ((x.rs a).toNat % 2 ^ t.width))) ∧
    WritesS (.sext .i8 d a) d (fun _ x => ((x.rs a).setWidth 8).signExtend 64) ∧
    WritesS (.sext .i16 d a) d (fun _ x => ((x.rs a).setWidth 16).signExtend 64) ∧
    WritesS (.sext .i32 d a) d (fun _ x => ((x.rs a).setWidth 32).signExtend 64)

/-- R81: bit fields and counts of bits; R84: counts of a mask's bits. Bit by bit: an extracted field stands at bit 0 and is
extended with zeros or with its top bit, an inserted one leaves every other bit. -/
def Obligations.ScalarBitFields : Prop :=
  (∀ (g : Bool) (d a : SReg) (pos w : BitVec 6), pos.toNat + (w.toNat + 1) ≤ 64 →
    Does (.sbfe g d a pos w) fun _ x y => y = { advance x with s := y.s } ∧ (∀ r, r ≠ d → y.rs r = x.rs r) ∧
      (d ≠ 0 → ∀ j < 64, (y.rs d).getLsbD j =
        if j ≤ w.toNat then (x.rs a).getLsbD (pos.toNat + j) else g && (x.rs a).getLsbD (pos.toNat + w.toNat))) ∧
  (∀ (d a : SReg) (pos w : BitVec 6), pos.toNat + (w.toNat + 1) ≤ 64 →
    Does (.sbfi d a pos w) fun _ x y => y = { advance x with s := y.s } ∧ (∀ r, r ≠ d → y.rs r = x.rs r) ∧
      (d ≠ 0 → ∀ j < 64, (y.rs d).getLsbD j =
        if pos.toNat ≤ j ∧ j ≤ pos.toNat + w.toNat then (x.rs a).getLsbD (j - pos.toNat) else (x.rs d).getLsbD j)) ∧
  (∀ (d a : SReg), WritesS (.spopc d a) d (fun _ x => BitVec.ofNat 64 ((List.range 64).countP fun j => (x.rs a).getLsbD j))) ∧
  (∀ (d a : SReg),
    Does (.sclz d a) fun _ x y => y = { advance x with s := y.s } ∧ (∀ r, r ≠ d → y.rs r = x.rs r) ∧
      (d ≠ 0 → (x.rs a = 0 → y.rs d = 64) ∧
        (x.rs a ≠ 0 → ∃ n < 64, y.rs d = BitVec.ofNat 64 n ∧ (x.rs a).getLsbD (63 - n) = true ∧
          ∀ j, 63 - n < j → (x.rs a).getLsbD j = false))) ∧
  (∀ (d : SReg) (a : KReg), WritesS (.kpopc d a) d (fun _ x => BitVec.ofNat 64 ((List.range 32).countP fun j => (x.rk a).getLsbD j))) ∧
  (∀ (d : SReg) (a : KReg),
    Does (.kfirst d a) fun _ x y => y = { advance x with s := y.s } ∧ (∀ r, r ≠ d → y.rs r = x.rs r) ∧
      (d ≠ 0 → (x.rk a = 0 → y.rs d = 32) ∧
        (x.rk a ≠ 0 → ∃ n < 32, y.rs d = BitVec.ofNat 64 n ∧ (x.rk a).getLsbD n = true ∧
          ∀ j < n, (x.rk a).getLsbD j = false)))

/-- R84: mask results, which `k0` stores ANDed with `%alive`. -/
def Obligations.MaskResults : Prop :=
  ∀ (d a b : KReg) (sr : SReg) (imm : BitVec 17),
    WritesK (.kand d a b) d (fun x => x.rk a &&& x.rk b) ∧
    WritesK (.kor d a b) d (fun x => x.rk a ||| x.rk b) ∧
    WritesK (.kxor d a b) d (fun x => x.rk a ^^^ x.rk b) ∧
    WritesK (.kandn d a b) d (fun x => x.rk a &&& ~~~x.rk b) ∧
    WritesK (.knot d a) d (fun x => ~~~x.rk a) ∧
    WritesK (.kmov d a) d (fun x => x.rk a) ∧
    WritesK (.kmovImm d imm) d (fun _ => BitVec.ofInt 32 imm.toInt) ∧
    WritesK (.kmovFromScalar d sr) d (fun x => BitVec.ofNat 32 (x.rs sr).toNat) ∧
    WritesS (.kmovToScalar sr a) sr (fun _ x => BitVec.ofNat 64 (x.rk a).toNat)

/-- R87: the fields of a capability, tagged or not, and its copy with the tag. -/
def Obligations.CapabilityInspection : Prop :=
  ∀ (d : SReg) (a e : CReg),
    WritesS (.cgetBase d a) d (fun _ x => ((x.rc a).bits.extractLsb' 0 57).setWidth 64) ∧
    WritesS (.cgetLen d a) d (fun _ x =>
      BitVec.ofNat 64 (((x.rc a).bits.extractLsb' 64 40).toNat * 2 ^ ((x.rc a).bits.extractLsb' 104 4).toNat)) ∧
    WritesS (.cgetGran d a) d (fun _ x => ((x.rc a).bits.extractLsb' 104 4).setWidth 64) ∧
    WritesS (.cgetSpace d a) d (fun _ x => ((x.rc a).bits.extractLsb' 108 4).setWidth 64) ∧
    WritesS (.cgetPerm d a) d (fun _ x => ((x.rc a).bits.extractLsb' 112 11).setWidth 64) ∧
    WritesS (.ctag d a) d (fun _ x => if (x.rc a).tag then 1 else 0) ∧
    Does (.cmov e a) fun _ x y => CapWritten e (x.rc a) x y

/-- R86: the checks of `cset`, `coff` and `cperm` in a group of one: an untagged capability traps CAPTAG and one without
permission D CAPPERM, with the base in INFO; in `cset` and `coff` a value that is no multiple of the granule or exceeds the length
traps CAPBND, with the value in INFO. SUBC names operand 0, LANE is `0xFF`, and nothing is written. -/
def Sys2Proof.Claims.DerivationTraps : Prop :=
  ∀ (d a : CReg) (b : SrcB) (s : State) (id : Nat), s.group = [id] →
    let x := s.slice id
    let c := x.rc a
    let traps := fun (i : Instr) (code : Byte) (info : W64) =>
      exec i s = .next { takeTrap s id (trapAt s x code 0 info 255) with group := [] }
    ∀ i ∈ [Instr.cset d a b, .coff d a b, .cperm d a b], Clear i s →
      (c.tag = false → traps i tCAPTAG ((c.bits.extractLsb' 0 57).setWidth 64)) ∧
      (c.tag = true → c.has pD = false → traps i tCAPPERM ((c.bits.extractLsb' 0 57).setWidth 64)) ∧
      (c.tag = true → c.has pD = true → i ≠ .cperm d a b → ¬2 ^ c.gran ∣ (x.rb b).toNat ∨ c.len < (x.rb b).toNat →
        traps i tCAPBND (x.rb b))

/-- R86: a derivation whose check fails traps and writes nothing, and one whose checks pass completes: every member receives
the narrower capability, all other fields copied, and goes to its next word. The result is tagged; that of `coff` where its base
has no bit that its space reads as zero. It rests on the model's own choices in logs 10, 94. -/
def Obligations.CapabilityDerivation : Prop :=
  DerivationTraps ∧ ∀ (d a : CReg) (b : SrcB) (s : State),
    (∀ id ∈ s.group, ((s.slice id).rc a).tag = true ∧ ((s.slice id).rc a).has pD = true) →
    let exact' := fun id => let x := s.slice id
      (x.rb b).toNat % 2 ^ (x.rc a).gran = 0 ∧ (x.rb b).toNat ≤ (x.rc a).len
    (Clear (.cperm d a b) s → ∃ t, exec (.cperm d a b) s = .next t ∧ GroupOnly s t ∧ Members s t fun x y =>
      ∃ v : Cap, CapWritten d v x y ∧ v.tag = true ∧ v.base = (x.rc a).base ∧ v.lenG = (x.rc a).lenG ∧
        v.gran = (x.rc a).gran ∧ v.space = (x.rc a).space ∧ ∀ p < 11, v.has p = ((x.rc a).has p && (x.rb b).getLsbD p)) ∧
    ((∀ id ∈ s.group, exact' id) → Clear (.cset d a b) s → ∃ t, exec (.cset d a b) s = .next t ∧ GroupOnly s t ∧
      Members s t fun x y => ∃ v : Cap, CapWritten d v x y ∧ v.tag = true ∧ v.base = (x.rc a).base ∧
        v.len = (x.rb b).toNat ∧ v.gran = (x.rc a).gran ∧ v.space = (x.rc a).space ∧ v.perm = (x.rc a).perm) ∧
    ((∀ id ∈ s.group, exact' id) → Clear (.coff d a b) s → ∃ t, exec (.coff d a b) s = .next t ∧ GroupOnly s t ∧
      Members s t fun x y => ∃ v : Cap, CapWritten d v x y ∧
        ((x.rc a).base % 2 ^ (x.rc a).gran = 0 → (x.rc a).base + (x.rb b).toNat < 2 ^ Cap.spaceBits (x.rc a).space → v.tag = true) ∧
        v.gran = (x.rc a).gran ∧ v.space = (x.rc a).space ∧ v.perm = (x.rc a).perm ∧ v.len + (x.rb b).toNat = (x.rc a).len ∧
        v.base = ((x.rc a).base + (x.rb b).toNat) % 2 ^ 57)

namespace Sys2Proof.Claims

/-- Lane `l` of vector register `d` receives `f` in the selected lanes; every other lane and register keeps its value, and
the slice goes to its next word. -/
def WritesV (i : Instr) (p : Pred) (d : VReg) (f : State → Slice → Nat → W32) : Prop :=
  Does i fun s x y =>
    (∀ r, ∀ l < 32, y.rv r l = if r = d ∧ (x.sel p).getLsbD l = true then f s x l else x.rv r l) ∧ y = { advance x with v := y.v }
/-- In the selected lanes every element of `d` is what `f` says of its place in the lane, modulo its width; every other lane
and register keeps its value. -/
def WritesElems (i : Instr) (p : Pred) (t : Ty) (d : VReg) (f : Slice → Nat → Nat → Nat) : Prop :=
  Does i fun _ x y =>
    (∀ l < 32, (x.sel p).getLsbD l = true → ∀ e < 32 / t.width, elem (y.rv d l) t.width e = f x l e % 2 ^ t.width) ∧
    (∀ r, ∀ l < 32, ¬(r = d ∧ (x.sel p).getLsbD l = true) → y.rv r l = x.rv r l) ∧ y = { advance x with v := y.v }
/-- Element `e` of lane `l` of register `r`, as the bits of its type and as the integer they stand for. -/
def el (t : Ty) (r : VReg) (x : Slice) (l e : Nat) : Nat := elem (x.rv r l) t.width e
def eli (t : Ty) (r : VReg) (x : Slice) (l e : Nat) : Int := elemInt t.signed t.width (el t r x l e)
/-- An integer modulo the width of a type. -/
def wrap (t : Ty) (v : Int) : Nat := (v % 2 ^ t.width).toNat
/-- The types of integer elements. -/
def intTy (t : Ty) : Prop := t ∈ [Ty.n8, .n16, .n32, .i8, .i16, .i32]
/-- Mask `k` receives the selected lanes in which a condition holds, ANDed with `%alive` in `k0`; a slice with an empty
`k0` does nothing. -/
def Compares (i : Instr) (p : Pred) (k : KReg) (c : Slice → Nat → Bool) : Prop :=
  Does i fun _ x y =>
    y = { advance x with k := y.k } ∧ (x.rk 0 = 0 → y.k = x.k) ∧
    (x.rk 0 ≠ 0 → (∀ r, r ≠ k → y.rk r = x.rk r) ∧ ∀ l < 32, (y.rk k).getLsbD l =
      ((x.sel p).getLsbD l && c x l && (k != 0 || x.alive.getLsbD l)))

end Sys2Proof.Claims

/-- R109, R110: the element-wise integer instructions. -/
def Obligations.VectorIntegerElements : Prop :=
  ∀ (p : Pred) (t : Ty) (d a b c : VReg), intTy t →
    WritesElems (.vadd p t d a b) p t d (fun x l e => el t a x l e + el t b x l e) ∧
    WritesElems (.vsub p t d a b) p t d (fun x l e => wrap t ((el t a x l e : Int) - el t b x l e)) ∧
    WritesElems (.vmul p t d a b) p t d (fun x l e => el t a x l e * el t b x l e) ∧
    WritesElems (.vmulh p t d a b) p t d (fun x l e => wrap t (eli t a x l e * eli t b x l e / 2 ^ t.width)) ∧
    WritesElems (.vmad p t d a b c) p t d (fun x l e => el t a x l e * el t b x l e + el t c x l e) ∧
    WritesElems (.vshl p t d a b) p t d (fun x l e => if t.width ≤ el t b x l e then 0 else el t a x l e * 2 ^ el t b x l e) ∧
    WritesElems (.vshr p t d a b) p t d (fun x l e => if t.width ≤ el t b x l e then 0 else el t a x l e / 2 ^ el t b x l e) ∧
    (t.signed = true → WritesElems (.vsra p t d a b) p t d (fun x l e => wrap t (eli t a x l e / 2 ^ min (el t b x l e) t.width))) ∧
    WritesElems (.vmin p t d a b) p t d (fun x l e => wrap t (min (eli t a x l e) (eli t b x l e))) ∧
    WritesElems (.vmax p t d a b) p t d (fun x l e => wrap t (max (eli t a x l e) (eli t b x l e))) ∧
    WritesElems (.vabs p t d a) p t d (fun x l e => wrap t (eli t a x l e).natAbs) ∧
    WritesElems (.vneg p t d a) p t d (fun x l e => wrap t (-(eli t a x l e))) ∧
    WritesElems (.vclz p t d a) p t d (fun x l e =>
      if el t a x l e = 0 then t.width else t.width - 1 - Nat.log2 (el t a x l e)) ∧
    WritesElems (.vpopc p t d a) p t d (fun x l e => (List.range t.width).countP fun j => (el t a x l e).testBit j)

/-- R110: `vbfe` extracts the field of min(C[5:0], 32 - B[4:0]) bits at B[4:0], extended with its sign in `.i32`, and 0 where
the field is empty. -/
def Obligations.VbfeExtractsField : Prop :=
  ∀ (p : Pred) (t : Ty) (d a b c : VReg), t = .n32 ∨ t = .i32 →
    WritesV (.vbfe p t d a b c) p d (fun _ x l =>
      let pos := (x.rv b l).toNat % 32
      let w := min ((x.rv c l).toNat % 64) (32 - pos)
      let f := (x.rv a l).toNat / 2 ^ pos % 2 ^ w
      if w = 0 then 0 else if t = .i32 ∧ 2 ^ (w - 1) ≤ f then BitVec.ofInt 32 ((f : Int) - 2 ^ w) else BitVec.ofNat 32 f)

/-- R108: the immediate forms act as the register forms with IMM20, sign-extended to the element, as operand B; a float
immediate holds the top bits of an FP32 number. It rests on the model's own choices in log 17. -/
def Obligations.VectorImmediateForms : Prop :=
  ∀ (p : Pred) (t : Ty) (d a : VReg) (imm : BitVec 20),
    (intTy t →
      WritesElems (.vaddImm p t d a imm) p t d (fun x l e => wrap t (el t a x l e + imm.toInt)) ∧
      WritesElems (.vmulImm p t d a imm) p t d (fun x l e => wrap t (el t a x l e * imm.toInt)) ∧
      WritesElems (.vshlImm p t d a imm) p t d (fun x l e =>
        if t.width ≤ wrap t imm.toInt then 0 else el t a x l e * 2 ^ wrap t imm.toInt) ∧
      WritesElems (.vshrImm p t d a imm) p t d (fun x l e =>
        if t.width ≤ wrap t imm.toInt then 0 else el t a x l e / 2 ^ wrap t imm.toInt) ∧
      (t.signed = true → WritesElems (.vsraImm p t d a imm) p t d (fun x l e =>
        wrap t (eli t a x l e / 2 ^ min (wrap t imm.toInt) t.width))) ∧
      WritesElems (.vminImm p t d a imm) p t d (fun x l e =>
        wrap t (min (eli t a x l e) (elemInt t.signed t.width (wrap t imm.toInt)))) ∧
      WritesElems (.vmaxImm p t d a imm) p t d (fun x l e =>
        wrap t (max (eli t a x l e) (elemInt t.signed t.width (wrap t imm.toInt))))) ∧
    WritesV (.vandImm p d a imm) p d (fun _ x l => x.rv a l &&& imm.signExtend 32) ∧
    WritesV (.vorImm p d a imm) p d (fun _ x l => x.rv a l ||| imm.signExtend 32) ∧
    WritesV (.vxorImm p d a imm) p d (fun _ x l => x.rv a l ^^^ imm.signExtend 32) ∧
    WritesV (.vfaddImm p .f32 d a imm) p d (fun _ x l =>
      BitVec.ofNat 32 (fadd fp32 (frMode x.fr) (x.rv a l).toNat (imm.toNat * 2 ^ 12))) ∧
    WritesV (.vfmulImm p .f32 d a imm) p d (fun _ x l =>
      BitVec.ofNat 32 (fmul fp32 (frMode x.fr) (x.rv a l).toNat (imm.toNat * 2 ^ 12))) ∧
    (t = .f16 ∨ t = .bf16 →
      WritesElems (.vfaddImm p t d a imm) p t d (fun x l e => fadd t.ffmt (frMode x.fr) (el t a x l e)
        (cvt { rm := (frMode x.fr).rm } t .f32 (imm.toNat * 2 ^ 12))) ∧
      WritesElems (.vfmulImm p t d a imm) p t d (fun x l e => fmul t.ffmt (frMode x.fr) (el t a x l e)
        (cvt { rm := (frMode x.fr).rm } t .f32 (imm.toNat * 2 ^ 12))))

/-- R112: the instructions that act on whole lanes, `vli` with its immediate of R66 in every element or sign-extended without a type;
R107: lanes outside the selection keep their value. It rests on the model's own choices in log 17. -/
def Obligations.VectorLaneMoves : Prop :=
  ∀ (p : Pred) (t : Ty) (d a b : VReg) (k : KReg) (sr : SReg) (imm : BitVec 20),
    WritesV (.vand p d a b) p d (fun _ x l => x.rv a l &&& x.rv b l) ∧
    WritesV (.vor p d a b) p d (fun _ x l => x.rv a l ||| x.rv b l) ∧
    WritesV (.vxor p d a b) p d (fun _ x l => x.rv a l ^^^ x.rv b l) ∧
    WritesV (.vsel p d a b k) p d (fun _ x l => if (x.rk k).getLsbD l then x.rv a l else x.rv b l) ∧
    WritesV (.vmov p d a) p d (fun _ x l => x.rv a l) ∧
    (intTy t → WritesElems (.vli p t d imm) p t d (fun _ _ _ => wrap t imm.toInt)) ∧
    WritesV (.vli p .none d imm) p d (fun _ _ _ => imm.signExtend 32) ∧
    WritesV (.vli p .f32 d imm) p d (fun _ _ _ => imm.setWidth 32 <<< 12) ∧
    (t = .f16 ∨ t = .bf16 → WritesElems (.vli p t d imm) p t d (fun x _ _ => cvt { rm := (frMode x.fr).rm } t .f32 (imm.toNat * 2 ^ 12))) ∧
    WritesElems (.vbcast p t d sr) p t d (fun x _ _ => (x.rs sr).toNat)

/-- R111, R116: compares of element 0, written to a mask. -/
def Obligations.VectorCompares : Prop :=
  ∀ (p : Pred) (q : Cond) (t : Ty) (k : KReg) (a b : VReg) (imm : BitVec 20),
    Compares (.vcmp p q .n32 k a b) p k (fun x l => condInt q (x.rv a l).toNat (x.rv b l).toNat) ∧
    Compares (.vcmp p q .i32 k a b) p k (fun x l => condInt q (x.rv a l).toInt (x.rv b l).toInt) ∧
    Compares (.vcmpImm p q .n32 k a imm) p k (fun x l => condInt q (x.rv a l).toNat (BitVec.ofInt 32 imm.toInt).toNat) ∧
    Compares (.vcmpImm p q .i32 k a imm) p k (fun x l => condInt q (x.rv a l).toInt imm.toInt) ∧
    (t ∈ [Ty.f32, .f16, .bf16] →
      Compares (.vfcmp p q t k a b) p k (fun x l => fcmp t.ffmt (x.fr.getLsbD 14) q (el t a x l 0) (el t b x l 0)))

/-- R115, R117, R118: the element-wise float instructions under the slice's format register.
It rests on the model's own choices in log 9. -/
def Obligations.VectorFloatElements : Prop :=
  ∀ (p : Pred) (t : Ty) (d a b c : VReg), t ∈ [Ty.f32, .f16, .bf16] →
    WritesElems (.vfadd p t d a b) p t d (fun x l e => fadd t.ffmt (frMode x.fr) (el t a x l e) (el t b x l e)) ∧
    WritesElems (.vfsub p t d a b) p t d (fun x l e => fsub t.ffmt (frMode x.fr) (el t a x l e) (el t b x l e)) ∧
    WritesElems (.vfmul p t d a b) p t d (fun x l e => fmul t.ffmt (frMode x.fr) (el t a x l e) (el t b x l e)) ∧
    WritesElems (.vfma p t d a b c) p t d (fun x l e => ffma t.ffmt (frMode x.fr) (el t a x l e) (el t b x l e) (el t c x l e)) ∧
    WritesElems (.vfmin p t d a b) p t d (fun x l e => fminmax t.ffmt false (frMode x.fr) (el t a x l e) (el t b x l e)) ∧
    WritesElems (.vfmax p t d a b) p t d (fun x l e => fminmax t.ffmt true (frMode x.fr) (el t a x l e) (el t b x l e)) ∧
    WritesElems (.vfabs p t d a) p t d (fun x l e => el t a x l e % 2 ^ (t.width - 1)) ∧
    WritesElems (.vfneg p t d a) p t d (fun x l e => el t a x l e ^^^ 2 ^ (t.width - 1)) ∧
    WritesElems (.vfcls p t d a) p t d (fun x l e => fclass t.ffmt (el t a x l e)) ∧
    WritesElems (.vrcp p t d a) p t d (fun x l e => frcp t.ffmt (frMode x.fr) (el t a x l e)) ∧
    WritesElems (.vrsq p t d a) p t d (fun x l e => frsq t.ffmt (frMode x.fr) (el t a x l e)) ∧
    WritesElems (.vexp2 p t d a) p t d (fun x l e => fexp2 t.ffmt (frMode x.fr) (el t a x l e)) ∧
    WritesElems (.vlog2 p t d a) p t d (fun x l e => flog2 t.ffmt (frMode x.fr) (el t a x l e))

/-- R119-R122: conversions, narrowing and widening, and the block formats. -/
def Obligations.VectorConversions : Prop :=
  ∀ (p : Pred) (t1 t2 : Ty) (d a b : VReg) (h : Bool),
    WritesV (.vcvt p t1 t2 d a) p d (fun _ x l => BitVec.ofNat 32 (cvt (frMode x.fr) t1 t2 (el t2 a x l 0))) ∧
    (t1.width = 16 → t2.width = 32 → WritesElems (.vpack p t1 t2 d a b) p t1 d (fun x l e =>
      cvt (frMode x.fr) t1 t2 (if e = 0 then el t2 a x l 0 else el t2 b x l 0))) ∧
    (t1.width = 8 → t2.width = 16 → WritesElems (.vpack p t1 t2 d a b) p t1 d (fun x l e =>
      cvt (frMode x.fr) t1 t2 (if e < 2 then el t2 a x l e else el t2 b x l (e - 2)))) ∧
    (t1.width = 32 → t2.width = 16 → WritesV (.vunpack p t1 t2 d a h) p d (fun _ x l =>
      BitVec.ofNat 32 (cvt (frMode x.fr) t1 t2 (el t2 a x l (if h then 1 else 0))))) ∧
    (t1.width = 16 → t2.width = 8 → WritesElems (.vunpack p t1 t2 d a h) p t1 d (fun x l e =>
      cvt (frMode x.fr) t1 t2 (el t2 a x l (2 * (if h then 1 else 0) + e)))) ∧
    WritesV (.vdqb p t2 d a h) p d (fun _ x l => vdqbLane t2 x a h l) ∧
    Does (.vqb t1 d a b) (fun s x y => y = { advance x with v := y.v } ∧ (x.rk 0 = 0 → y.v = x.v) ∧
      (x.rk 0 ≠ 0 → ∀ r, ∀ l < 32, y.rv r l = if r = d then vqbLanes (s.punit x.uk) t1 x a b l else x.rv r l))

namespace Sys2Proof.Claims

/-- A shuffle: each selected lane takes register `a` of the group lane that `src` names, or its own where that is no valid
source, and `kF`, unless it is `k0`, gets the lanes without one. A slice with an empty `k0` does nothing. -/
def Shuffles (i : Instr) (p : Pred) (d : VReg) (kf : KReg) (a : VReg) (src : State → Slice → Nat → Option Int) : Prop :=
  Does i fun s x y =>
    let from' := fun l => (src s x l).bind (laneAt s x a)
    y = { advance x with v := y.v, k := y.k } ∧ (x.rk 0 = 0 → y.v = x.v ∧ y.k = x.k) ∧
    (x.rk 0 ≠ 0 →
      (∀ r, ∀ l < 32, y.rv r l = if r = d ∧ (x.sel p).getLsbD l = true then (from' l).getD (x.rv a l) else x.rv r l) ∧
      (∀ r, (r ≠ kf ∨ kf = 0) → y.rk r = x.rk r) ∧
      (kf ≠ 0 → ∀ l < 32, (y.rk kf).getLsbD l = ((x.sel p).getLsbD l && (from' l).isNone)))
/-- A vote writes one scalar of every member; a slice with an empty `k0` does nothing. -/
def Votes (i : Instr) (d : SReg) (v : State → Slice → Nat) : Prop :=
  Does i fun s x y =>
    y = { advance x with s := y.s } ∧ (x.rk 0 = 0 → y.s = x.s) ∧
    (x.rk 0 ≠ 0 → ∀ r, y.rs r = if r = d ∧ d ≠ 0 then BitVec.ofNat 64 (v s x) else x.rs r)
/-- The number of lanes of a mask over slices. -/
def lanes (ys : List Slice) (f : Slice → W32) : Nat := ((ys.map f).map popc).sum
/-- The slices over which a vote counts, outside compatibility mode. -/
def voters (s : State) (x : Slice) (sl : Bool) : List Slice := if sl then [x] else members s x

end Sys2Proof.Claims

/-- R125 (and R320 under CMP16): the four shuffles. Under `.sl` a lane's source stays in its unit: its slice, or its half of
16 lanes in compatibility mode. -/
def Obligations.ShuffleSources : Prop :=
  ∀ (p : Pred) (d : VReg) (kf : KReg) (a b : VReg) (c : SReg),
    Shuffles (.shf p false d kf a b) p d kf a (fun _ x l => some (((x.rv b l).toNat % 128 : Nat) : Int)) ∧
    Shuffles (.shf p true d kf a b) p d kf a (fun s x l =>
      some ((32 * x.idx + l / unitW s x * unitW s x + (x.rv b l).toNat % unitW s x : Nat) : Int)) ∧
    Shuffles (.shfUp p false d kf a c) p d kf a (fun _ x l => some (((32 * x.idx + l : Nat) : Int) - (x.rs c).toNat)) ∧
    Shuffles (.shfDn p false d kf a c) p d kf a (fun _ x l => some (((32 * x.idx + l : Nat) : Int) + (x.rs c).toNat)) ∧
    Shuffles (.shfX p false d kf a c) p d kf a (fun _ x l => some (((32 * x.idx + l ^^^ (x.rs c).toNat % 128 : Nat)) : Int)) ∧
    Shuffles (.shfUp p true d kf a c) p d kf a (fun s x l =>
      if (x.rs c).toNat ≤ l % unitW s x then some ((32 * x.idx + l - (x.rs c).toNat : Nat) : Int) else none) ∧
    Shuffles (.shfDn p true d kf a c) p d kf a (fun s x l =>
      if l % unitW s x + (x.rs c).toNat < unitW s x then some ((32 * x.idx + l + (x.rs c).toNat : Nat) : Int) else none) ∧
    Shuffles (.shfX p true d kf a c) p d kf a (fun s x l =>
      some ((32 * x.idx + l / unitW s x * unitW s x + (l % unitW s x ^^^ (x.rs c).toNat % unitW s x) : Nat) : Int))

/-- R126: over the active lanes of the group, or of the slice under `.sl`: whether any has its mask bit set, whether all
have, and how many have beside the number of member lanes. It rests on the model's own choices in log 110. -/
def Obligations.VoteResults : Prop :=
  ∀ (p : Pred) (sl : Bool) (d : SReg) (a : KReg),
    Votes (.voteAny p sl d a) d (fun s x =>
      if sl && cmp16 s x then anyOf 16 (tally p a 0xFFFF [x]) + 2 ^ 32 * anyOf 16 (tally p a 0xFFFF0000 [x])
      else if lanes (voters s x sl) (fun y => y.sel p &&& y.rk a) = 0 then 0 else 1) ∧
    Votes (.voteAll p sl d a) d (fun s x =>
      if sl && cmp16 s x then allOf 16 (tally p a 0xFFFF [x]) + 2 ^ 32 * allOf 16 (tally p a 0xFFFF0000 [x])
      else if lanes (voters s x sl) (fun y => y.sel p &&& y.rk a) = lanes (voters s x sl) (fun y => y.sel p) then 1 else 0) ∧
    Votes (.voteBal p sl d a) d (fun s x =>
      if sl && cmp16 s x then balOf 16 (tally p a 0xFFFF [x]) + 2 ^ 32 * balOf 16 (tally p a 0xFFFF0000 [x])
      else lanes (voters s x sl) (fun y => y.sel p &&& y.rk a) + 2 ^ 32 * lanes (voters s x sl) memberLanes)

/-- R127, R128: a reduction writes the fold of the active lanes, lane by lane within a unit and then unit by unit, to every
selected lane; a scan writes to each the fold up to itself. -/
def Obligations.ReductionAndScanResults : Prop :=
  ∀ (p : Pred) (sl : Bool) (op : RedOp) (t : Ty) (d a : VReg),
    WritesV (.vred p sl op t d a) p d (fun s x l =>
      let us := redUnits p op t a (unitW s x) x.fr (if sl then [x] else members s x)
      if sl then ((us.find? fun u => u.1 == 32 * x.idx + l / unitW s x * unitW s x).map Prod.snd).getD 0
      else (fold1 (redFn op t x.fr) (us.map Prod.snd)).getD 0) ∧
    WritesV (.vscan p sl op t d a) p d (fun s x l =>
      let base := l / unitW s x * unitW s x
      let own := (fold1 (redFn op t x.fr) ((activeLanes p x base (l - base + 1)).map fun i => redRead t x.fr (x.rv a i))).getD 0
      if sl then own
      else
        let us := (redUnits p op t a (unitW s x) x.fr (members s x)).filter fun u => decide (u.1 < 32 * x.idx + base)
        (fold1 (redFn op t x.fr) (us.map Prod.snd ++ [own])).getD 0)

namespace Sys2Proof.Claims

/-- An address to which control may go: 8 bytes of the code capability, aligned (04 R89). -/
def codeWord (s : State) (x : Slice) (a : Addr) : Prop :=
  (s.ctxOf x).codeb ≤ a.toNat ∧ a.toNat + 8 ≤ (s.ctxOf x).codeb + (s.ctxOf x).codel ∧ a.toNat % 8 = 0
/-- 8 times the branch offset from the branch. -/
def branchTo (x : Slice) (off : BitVec 26) : Addr := x.pc + BitVec.ofInt 64 (8 * off.toInt)
/-- A branch: members that take it go to its target, which must be a code word; the others go on. -/
def Branches (i : Instr) (taken : Slice → Prop) (tgt : Slice → Addr) (link : Slice → Slice) : Prop :=
  ∀ s, Clear i s → (∀ id ∈ s.group, taken (s.slice id) → codeWord s (s.slice id) (tgt (s.slice id))) →
    ∃ t, exec i s = .next t ∧ GroupOnly s t ∧ Members s t fun x y =>
      (taken x → y = { link x with pc := tgt x }) ∧ (¬taken x → y = advance x)

end Sys2Proof.Claims

/-- R88, R89: each member resolves a branch from its own registers; mask tests ignore exited lanes; a call leaves the address
after it in its link register. -/
def Obligations.BranchesResolvePerSlice : Prop :=
  ∀ (c : Cond) (a b : SReg) (k : KReg) (off : BitVec 26),
    Branches (.br c a b off) (fun x => condInt c (x.rs a).toNat (x.rs b).toNat = true) (branchTo · off) id ∧
    Branches (.brS c a b off) (fun x => condInt c (x.rs a).toInt (x.rs b).toInt = true) (branchTo · off) id ∧
    Branches (.brKz k off) (fun x => ∀ l < 32, ¬((x.rk k).getLsbD l = true ∧ x.alive.getLsbD l = true)) (branchTo · off) id ∧
    Branches (.brKnz k off) (fun x => ∃ l < 32, (x.rk k).getLsbD l = true ∧ x.alive.getLsbD l = true) (branchTo · off) id ∧
    Branches (.brKf k off) (fun x => ∀ l < 32, x.alive.getLsbD l = true → (x.rk k).getLsbD l = true) (branchTo · off) id ∧
    Branches (.call a off) (fun _ => True) (branchTo · off) (fun x => x.ws a (x.pc + 8)) ∧
    Branches (.ret a) (fun _ => True) (fun x => x.rs a) id

/-- R89: a return outside the code capability traps CAPBND, and one to an unaligned address inside it ALIGN, in either case at
the `ret`, with the target in INFO and no register written. -/
def Sys2Proof.Claims.ReturnTargetTraps : Prop :=
  ∀ (a : SReg) (s : State) (id : Nat), s.group = [id] → Clear (.ret a) s → ¬codeWord s (s.slice id) ((s.slice id).rs a) →
    ∃ code, exec (.ret a) s = .next { takeTrap s id (trapAt s (s.slice id) code 3 ((s.slice id).rs a)) with group := [] } ∧
      (code = tCAPBND ↔ ¬inCode (s.ctxOf (s.slice id)) ((s.slice id).rs a) = true) ∧ (code = tCAPBND ∨ code = tALIGN)

/-- R91: where a slice goes after an instruction that does not transfer control. A level whose last word it is goes back to
its start while more than one pass remains, and else becomes inactive; of two such levels the one with the greater start
is checked first, and the other only if that one has become inactive. -/
def Sys2Proof.Claims.LoopCheckAtLastWord : Prop :=
  ∀ (x : Slice) (l : Bool),
    let ends := fun (m : Bool) => (x.lc m).active = true ∧ (x.lc m).stop = x.pc
    let back := fun (m : Bool) (z : Slice) => { z.setLc m { x.lc m with count := (x.lc m).count - 1 } with pc := (x.lc m).start }
    (¬ends l → ¬ends (!l) → advance x = { x with pc := x.pc + 8 }) ∧
    (ends l → ¬ends (!l) → advance x = if 1 < (x.lc l).count.toNat then back l x else { x.setLc l {} with pc := x.pc + 8 }) ∧
    (ends l → ends (!l) → (x.lc (!l)).start.toNat < (x.lc l).start.toNat → advance x =
      if 1 < (x.lc l).count.toNat then back l x
      else if 1 < (x.lc (!l)).count.toNat then back (!l) (x.setLc l {})
      else { (x.setLc l {}).setLc (!l) {} with pc := x.pc + 8 })

/-- R90, R92: setting up a loop level, a count of 0 skipping the body, and writing the remaining count of an active level. -/
def Sys2Proof.Claims.LoopSetup : Prop :=
  ∀ (l : Bool) (a : SReg) (n : BitVec 12) (off : BitVec 26),
    let setup := fun (count : W32) (x y : Slice) =>
      (count = 0 → y = { x.setLc l {} with pc := branchTo x off + 8 }) ∧
      (count ≠ 0 → y = advance (x.setLc l { active := true, count := count, start := x.pc + 8, stop := branchTo x off }))
    Does (.loop l a off) (fun _ x y => setup ((x.rs a).setWidth 32) x y) ∧
    Does (.loopi l n off) (fun _ x y => setup (BitVec.ofNat 32 n.toNat) x y) ∧
    Does (.lcWrite l a) (fun _ x y =>
      y = advance (if (x.lc l).active then x.setLc l { x.lc l with count := (x.rs a).setWidth 32 } else x))

/-- R93, R95, R98, R99: `nop`, the region marker with its snapshot and its end, and writes of the format register.
It rests on the model's own choices in log 15. -/
def Obligations.RegionFormatNop : Prop :=
  (∀ (a b : SReg), Does (.rgn a b) (fun _ x y =>
    ∃ r : Region, y = advance { x with region := some r } ∧ r.entry = x.pc + 8 ∧ r.sMask = x.rs a ∧ r.vMask = x.rs b ∧
      r.snap.k = x.k ∧ r.snap.c = x.c ∧ r.snap.ct = x.ct ∧ r.snap.fr = x.fr ∧ r.snap.lc0 = x.lc0 ∧ r.snap.lc1 = x.lc1)) ∧
  Does .rgnEnd (fun _ x y => y = advance { x with region := none }) ∧
  Does .nop (fun _ x y => y = advance x) ∧
  (∀ imm : BitVec 24, Does (.fmt imm) (fun _ x y => y = advance { x with fr := BitVec.ofNat 64 imm.toNat })) ∧
  (∀ (a : SReg) (s : State), Clear (.frWrite a) s → (∀ id ∈ s.group, frOk ((s.slice id).rs a) = true) →
    ∃ t, exec (.frWrite a) s = .next t ∧ GroupOnly s t ∧ Members s t fun x y => y = advance { x with fr := x.rs a &&& 0xFFFFFF })

/-- R98: a write of `%fr` with a reserved format code or a table id of 8 or more traps ILLCFG in that member before any effect;
the members without such a value go on. -/
def Sys2Proof.Claims.FormatWriteTraps : Prop :=
  ∀ (a : SReg) (s : State) (id : Nat), s.group = [id] → Clear (.frWrite a) s →
    let v := (s.slice id).rs a
    (8 ≤ v.toNat % 16 ∨ 8 ≤ v.toNat / 16 % 16 ∨ 8 ≤ v.toNat / 256 % 16 ∨ 8 ≤ v.toNat / 2 ^ 16 % 256) →
    exec (.frWrite a) s = .next { takeTrap s id (trapAt s (s.slice id) tILLCFG 1 0) with group := [] }

/-- R89, R98: the traps of a return and of a write of `%fr`, which leave every register as it was. -/
def Obligations.ReturnAndFormatWriteTraps : Prop :=
  ReturnTargetTraps ∧ FormatWriteTraps

/-- R90-R92: loop levels set up, and checked at their last word. It rests on the model's own choices in log 13. -/
def Obligations.LoopsSetUpAndChecked : Prop :=
  LoopSetup ∧ LoopCheckAtLastWord

namespace Sys2Proof.Claims

/-- A group of one slice that stands in the list. -/
def Alone (s : State) (id : Nat) : Prop := s.group = [id] ∧ s.has id
/-- The instruction, issued by one slice alone, answers a next state of which `P` holds. -/
def One (i : Instr) (pre : State → Slice → Prop) (P : State → Slice → State → Prop) : Prop :=
  ∀ s id, Alone s id → Clear i s → pre s (s.slice id) → ∃ t, exec i s = .next t ∧ P s (s.slice id) t
/-- Every record of the state but the slices is as before, every other slice too, and every byte of memory reads as before. -/
def SliceOnly (s t : State) (id : Nat) : Prop :=
  t = { s with slices := t.slices } ∧ (∀ j, s.has j → j ≠ id → t.slice j = s.slice j) ∧ ∀ a, Cells.get t.mem a = Cells.get s.mem a
/-- The slice's state once it has been held with a trap: it stands at the resumption address, out of the gang scheduler. -/
def HeldAt (x y : Slice) (rpc : Addr) : Prop := y = { x with run := .held, pc := rpc, marked := false }
/-- The record that a trap queues for the handler of the slice's paddock and context, in the order in which traps are taken:
by cycle, and in one cycle by gang and slice. -/
def Recorded (s t : State) (x : Slice) (i : TrapInfo) : Prop :=
  ∃ e : TrapEntry, (t.punit x.uk).traps = insertTrap e (s.punit x.uk).traps ∧ e.slice = x.id ∧ e.block = x.block ∧
    e.trec.pc = i.pc ∧ e.trec.rpc = i.rpc ∧ e.trec.info = i.info ∧ e.trec.word = i.word ∧ e.trec.code = i.code ∧
    e.trec.subc = i.subc ∧ e.trec.lane = i.lane ∧ e.trec.gen = (s.ctxOf x).gen ∧ e.trec.lfm = x.xv.lfm
/-- A slice whose traps its context's handler serves: no proxy word, no wave, a usable TRAPE, room in the queue. -/
def Trappable (s : State) (x : Slice) : Prop :=
  s.proxy = none ∧ x.handler = false ∧ trapeUsable (s.ctxOf x) = true ∧ (s.block x.block).wave = [] ∧ (s.punit x.uk).traps.length < 16 ∧
    (s.punit x.uk).late = []

end Sys2Proof.Claims

/-- R227-R231: taking a trap holds the slice at its resumption address, queues its record, and changes nothing else of the slice,
no other slice and no byte of memory. -/
def Sys2Proof.Claims.TrapEntryRecordsAndHolds : Prop :=
  ∀ (s : State) (id : Nat) (i : TrapInfo), s.has id → Trappable s (s.slice id) →
    let t := takeTrap s id i
    HeldAt (s.slice id) (t.slice id) i.rpc ∧ Recorded s t (s.slice id) i ∧ (∀ j, s.has j → j ≠ id → t.slice j = s.slice j) ∧
      (∀ u, u ≠ (s.slice id).uk → t.punit u = { s.punit u with takers := (t.punit u).takers } ∧
        ((∀ b, (s.slice id).run ≠ .waiting (.baton b)) → t.punit u = s.punit u)) ∧ ∀ a, Cells.get t.mem a = Cells.get s.mem a

/-- R230, R238, R234: a trap of a context without a usable handler entry, and a trap of the handler itself, kill the block: its
slices retire, and its grid counts the kill and keeps the records, the served one first. -/
def Sys2Proof.Claims.UnservedTrapsKill : Prop :=
  ∀ (s : State) (id : Nat) (i : TrapInfo), s.has id → s.proxy = none → s.bars = [] → s.bbs = [] → (∀ p ∈ s.pdks, p.waiters = []) →
    (s.slices.map Slice.id).Nodup →
    let x := s.slice id
    let t := takeTrap s id i
    let live := fun (b : Nat) => (∃ y ∈ s.blocks, y.id = b) ∧ (s.block b).run ≠ .ended ∧ (s.block b).wave = [] ∧ ∃ g ∈ s.grids, g.id = (s.block b).grid
    let killed := fun (b : Nat) (recs : List TrapRec) =>
      let g := (s.block b).grid
      (∀ y ∈ s.slices, y.block = b → y.handler = false → (t.slice y.id).run = .retired) ∧
      (t.grid g).killed = (s.grid g).killed + 1 ∧ (t.grid g).reports = (s.grid g).reports ++ recs
    (x.handler = false → trapeUsable (s.ctxOf x) = false → live x.block → killed x.block [mkRec s x i]) ∧
    (x.handler = true → ∀ e, (s.punit x.uk).service = some e → live e.block →
      killed e.block [e.trec, mkRec s x i] ∧ (t.slice id).run = .retired ∧ (t.punit x.uk).service = none)

/-- R101, R77: the software trap and the breakpoint of a context without a stopping session trap at the instruction and resume
at the next; an undefined word traps ILLOP at itself, with its subcode. -/
def Sys2Proof.Claims.SoftwareTrapsEnterHandler : Prop :=
  (∀ n : Byte, One (.trap n) Trappable fun s x t =>
    let i : TrapInfo := { code := tSWTRAP, subc := 0, lane := 255, pc := x.pc, rpc := x.pc + 8, info := n.setWidth 64, word := s.word }
    HeldAt x (t.slice x.id) (x.pc + 8) ∧ Recorded s t x i) ∧
  One .hbrk (fun s x => Trappable s x ∧ ∀ y ∈ s.sessions, y.die * 64 + y.ctx = x.ck → y.mask.getLsbD 4 = false) (fun s x t =>
    let i : TrapInfo := { code := tBRK, subc := 0, lane := 255, pc := x.pc, rpc := x.pc + 8, info := 0, word := s.word }
    HeldAt x (t.slice x.id) (x.pc + 8) ∧ Recorded s t x i) ∧
  (∀ (opc : Byte) (s : State) (id n : Nat), Alone s id → Trappable s (s.slice id) →
    decode (hdrOf s (s.slice id)) s.word.toNat = .error n →
    ∃ t, exec (.unassignedOpcode opc) s = .next t ∧ HeldAt (s.slice id) (t.slice id) (s.slice id).pc ∧
      Recorded s t (s.slice id) { code := tILLOP, subc := BitVec.ofNat 8 n, lane := 255, pc := (s.slice id).pc, rpc := (s.slice id).pc
                                  info := 0, word := s.word })

/-- R33, R34, R95: the selected lanes leave `k0` and the alive lanes and count as exited; the slice goes on while it has lanes
left, and an empty selection does nothing. -/
def Sys2Proof.Claims.ExitOfSomeLanes : Prop :=
  ∀ (p : Pred) (s : State), Clear (.exit p) s → s.group.Nodup →
    (∀ id ∈ s.group, (s.block (s.slice id).block).wave = [] ∧ (s.slice id).alive &&& ~~~(s.slice id).sel p ≠ 0) →
    ∃ t, exec (.exit p) s = .next t ∧ (∀ a, Cells.get t.mem a = Cells.get s.mem a) ∧
      (∀ id, s.has id → id ∉ s.group → t.slice id = s.slice id) ∧
      Members s t fun x y =>
        (x.sel p = 0 → y = advance x) ∧
        (x.sel p ≠ 0 → y.pc = (advance x).pc ∧ y.alive = x.alive &&& ~~~x.sel p ∧ y.exited = x.exited ||| (x.alive &&& x.sel p) ∧
          y.rk 0 = x.rk 0 &&& ~~~x.sel p ∧ (∀ r, r ≠ 0 → y.rk r = x.rk r) ∧ y.s = x.s ∧ y.v = x.v ∧ y.c = x.c ∧ y.ct = x.ct ∧
          y.fr = x.fr ∧ y.run = x.run)

/-- R34: `sexit`, and an `exit` of every lane left, retire a slice that is alone in its group. -/
def Sys2Proof.Claims.ExitOfAllLanesRetires : Prop :=
  ∀ (i : Instr) (p : Pred), i = .sexit ∨ i = .exit p →
    One i (fun s x => x.handler = false ∧ x.idx < 4 ∧ x.gm = (1 : BitVec 4) <<< x.idx ∧ x.run = .ready ∧ x.alive ≠ 0 ∧
        (i = .exit p → x.alive &&& ~~~x.sel p = 0) ∧
        (s.slices.map Slice.id).Nodup ∧
        (∀ y ∈ s.slices, y.block = x.block → y.gid = x.gid → y.handler = x.handler → y.idx = x.idx → y.id = x.id) ∧
        s.bars = [] ∧ s.bbs = [] ∧ (s.block x.block).wave = [] ∧ (∀ w ∈ (s.pdk x.pk).waiters, x.id ∉ w.members))
      fun _ x t => (t.slice x.id).run = .retired ∧ (t.slice x.id).alive = 0

/-- What a slice that retires alone, beside another slice of its block, has before it. -/
def Sys2Proof.Claims.LeavesBlock (s : State) (x : Slice) : Prop :=
  x.handler = false ∧ x.idx < 4 ∧ x.gm = (1 : BitVec 4) <<< x.idx ∧ x.run = .ready ∧ x.alive ≠ 0 ∧ (s.slices.map Slice.id).Nodup ∧
    (∀ y ∈ s.slices, y.block = x.block → y.gid = x.gid → y.handler = x.handler → y.idx = x.idx → y.id = x.id) ∧
    (∃ y ∈ s.slices, y.id ≠ x.id ∧ y.block = x.block ∧ y.handler = false ∧ y.run ≠ .retired) ∧
    (s.block x.block).wave = [] ∧ ∀ w ∈ (s.pdk x.pk).waiters, x.id ∉ w.members

/-- R35: a numbered barrier of which a retiring slice is a member expects one slice less and loses its arrival, and a phase that
waited only for it ends; a byte barrier loses the party, and flips where no byte is missing and every other party has arrived. -/
def Sys2Proof.Claims.RetirementLowersBarriers : Prop :=
  (∀ b : Bar, One .sexit (fun s x => LeavesBlock s x ∧ s.bars = [b] ∧ s.bbs = [] ∧ b.level ≠ .pod ∧ b.late = [] ∧ ∃ y ∈ barBlocks s b, y.id = x.block)
    fun s x t =>
      let n := if x.id ∈ b.who then b.arrivals - 1 else b.arrivals
      (t.slice x.id).run = .retired ∧
      (0 < n ∧ b.expected - 1 ≤ n → t.bar b.id = { b with expected := b.expected - 1, arrivals := 0, phase := b.phase + 1, who := [] } ∧
        ∀ y ∈ barBlocks s b, (t.block y.id).bph = (s.block y.id).bph + 1) ∧
      (¬(0 < n ∧ b.expected - 1 ≤ n) → t.bar b.id = { b with expected := b.expected - 1, arrivals := n, who := b.who.erase x.id })) ∧
  ∀ q : ByteBar, One .sexit (fun s x => LeavesBlock s x ∧ s.bars = [] ∧ s.bbs = [q] ∧ q.late = [] ∧ q.block = x.block ∧ x.id ∈ q.parties ∧ q.parties.Nodup)
    fun _ x t =>
      let whole := q.count = 0 ∧ ∀ p ∈ q.parties, p = x.id ∨ p ∈ q.arrived
      let z := t.bb (State.bbKey q)
      (t.slice x.id).run = .retired ∧ x.id ∉ z.parties ∧ z.count = q.count ∧
      (whole → z.phase = !q.phase ∧ z.arrived = [] ∧ ∀ p, p ∈ z.parties ↔ p ∈ q.parties ∧ p ≠ x.id ∧ p ∉ q.leaving) ∧
      (¬whole → z.phase = q.phase ∧ z.arrived = q.arrived.erase x.id ∧ z.parties = q.parties.erase x.id)

/-- R29, R34: the members of a gang that reach `gjoin` hold while an alive slice has not reached it; the last arrival makes all of
them one group at the next instruction, with no exited lanes, a `gjoin` issued before then counting as completed (R51), and exited slices
retire; where their format registers, loop states
or region markers differ, each traps ILLJOIN with the first difference. -/
def Sys2Proof.Claims.JoinOfAGang : Prop :=
  ∀ (s : State) (x : Slice), x ∈ s.slices → x.handler = false → Clear .gjoin s → (s.slices.map Slice.id).Nodup → s.sessions = [] →
    s.bars = [] → s.bbs = [] → (∀ p ∈ s.pdks, p.waiters = []) → x.id ∈ s.group →
    let w := (s.gang x).filter Slice.isAlive
    let here := fun (y : Slice) => y.id ∈ s.group ∨ y.run = .waiting .gjoin
    let loops := fun (a b : Loop) => a.active = b.active ∧ (a.active = true → a = b)
    let marker := fun (y : Slice) => y.region.map fun r => (r.entry, r.sMask, r.vMask)
    let sameFr := ∀ y ∈ w, y.fr = x.fr
    let sameLoops := ∀ y ∈ w, loops y.lc0 x.lc0 ∧ loops y.lc1 x.lc1
    let sameMarker := ∀ y ∈ w, marker y = marker x
    (∀ id ∈ s.group, ∃ y ∈ w, y.id = id) → (∀ y ∈ s.gang x, y.idx < 4) → (∀ y ∈ w, here y → y.pc = x.pc) →
    ((∃ y ∈ w, ¬here y) → ∃ t, exec .gjoin s = .next t ∧ t = { s with slices := t.slices } ∧
      ∀ y ∈ s.slices, t.slice y.id = if y.id ∈ s.group then { y with run := .waiting .gjoin } else y) ∧
    ((∀ y ∈ w, here y) → sameFr → sameLoops → sameMarker → ∃ t, exec .gjoin s = .next t ∧ (∀ a, Cells.get t.mem a = Cells.get s.mem a) ∧
      ∀ y ∈ s.slices,
        (y ∈ w → t.slice y.id = (if y.id ∈ s.group then id else completed y.pc) { advance y with run := .ready, hang := 0, gm := maskBits w, exited := 0 }) ∧
        (y ∈ s.gang x → y.alive = 0 → (t.slice y.id).run = .retired) ∧ (y ∉ s.gang x → t.slice y.id = y)) ∧
    ((∀ y ∈ w, here y) → w.length ≤ 4 → (∀ y ∈ w, Trappable s y ∧ (s.punit y.uk).traps.length ≤ 12) → ∀ d : Nat,
      (d = 1 ∧ ¬sameFr ∨ d = 2 ∧ sameFr ∧ ¬sameLoops ∨ d = 3 ∧ sameFr ∧ sameLoops ∧ ¬sameMarker) →
      ∃ t, exec .gjoin s = .next t ∧ ∀ y ∈ w, HeldAt y (t.slice y.id) x.pc ∧
        ∃ e ∈ (t.punit y.uk).traps, e.slice = y.id ∧ e.trec.code = tILLJOIN ∧ e.trec.subc = BitVec.ofNat 8 d ∧ e.trec.pc = x.pc ∧ e.trec.rpc = x.pc)

/-- R29, R34: joins of a gang, and the join of the only alive slice of a gang, which goes on alone at the next
instruction, with no exited lanes. -/
def Obligations.JoinMakesOneGroup : Prop :=
  JoinOfAGang ∧ ∀ (s : State) (id : Nat), Alone s id → Clear .gjoin s → (s.slice id).handler = false → (s.slice id).isAlive = true →
    (s.slices.map Slice.id).Nodup → s.gang (s.slice id) = [s.slice id] →
    ∃ t, exec .gjoin s = .next t ∧ (t.slice id).run = .ready ∧ (t.slice id).pc = (advance (s.slice id)).pc ∧
      (t.slice id).gm = (1 : BitVec 4) <<< (s.slice id).idx ∧ (t.slice id).exited = 0 ∧ (t.slice id).s = (s.slice id).s ∧
      ∀ a, Cells.get t.mem a = Cells.get s.mem a

/-- R95, R102, R103: `yield` lets the ready slices of its paddock go first; `sysc` makes a request and holds, and goes on once its
answer has been written; `idle` holds for at most 2^16 cycles and goes on after an event. -/
def Sys2Proof.Claims.YieldRequestIdle : Prop :=
  Does .yield (fun s x y =>
    let others := (s.slices.filter fun z => z.pk == x.pk && !s.inGroup z.id && readyBase s z).map Slice.id
    (others = [] → y = advance x) ∧ (others ≠ [] → y = advance { x with run := .waiting (.yield others) })) ∧
  (∀ n : W16, Does (.sysc n) (fun _ x y =>
    (x.run ≠ .waiting .answered → y = { x with run := .waiting (.sysc n) }) ∧
    (x.run = .waiting .answered → y = { advance x with run := .ready, hang := 0 }))) ∧
  Does .idle (fun s x y =>
    (x.run ≠ .waiting (.idle 0) → y = { x with run := .waiting (.idle (s.clk x.die + 2 ^ 16)) }) ∧
    (x.run = .waiting (.idle 0) → y = { advance x with run := .ready })) ∧
  (∀ (s : State) (id due : Nat), s.has id → (s.slice id).run = .waiting (.idle due) → due ≤ s.clk (s.slice id).die →
    ∃ t, exec (.idleTimeout id) s = .next t ∧ t.slice id = { s.slice id with run := .waiting (.idle 0) })

/-- R102: the services of the dispatch controller: 0 echoes `s2`, 1 reads the context's generation, 2 posts the four registers
to the context's completion channel as one message to the host, or as the next entry of its device's interrupt log, and answers that the
channel is full where it is, any other answers -1. -/
def Sys2Proof.Claims.ServiceAnswers : Prop :=
  ∀ (s : State) (id : Nat) (n : W16), s.has id → (s.slice id).run = .waiting (.sysc n) →
    (s.die (s.slice id).die).failover = false →
    ∃ t, exec (.syscAnswer id) s = .next t ∧ (t.slice id).run = .waiting .answered ∧
      (n = 0 → (t.slice id).rs 1 = (s.slice id).rs 2 ∧ t.outbox = s.outbox) ∧
      (n = 1 → (t.slice id).rs 1 = ((s.ctxOf (s.slice id)).gen.setWidth 64) ∧ t.outbox = s.outbox) ∧
      (n = 2 → channelRoom s (s.slice id).ck = true → (t.slice id).rs 1 = 0 ∧
        let c := s.ctx (s.slice id).ck
        let v := s.vdev c.vdev
        let regs := [2, 3, 4, 5].flatMap fun r => leBytes 8 ((s.slice id).rs r).toNat
        (v.resident = true → (s.die c.die).failover = false → s.cuts = [] → s.resend = [] → ∃ m, t.outbox = s.outbox ++ [m] ∧
          m.type = mLOG ∧ m.dst = c.host ∧ m.src = s.node ∧ m.grp = c.grp ∧ m.gen = c.gen ∧ m.len = 32 ∧ m.payload = regs) ∧
        (v.resident = false → t.outbox = s.outbox ∧ (t.vdev c.vdev).tail = v.tail + 1 ∧
          t.rd (v.logBase + 64 * (v.tail.toNat % 2 ^ v.logK) + 16) 32 = regs)) ∧
      (n = 2 → channelRoom s (s.slice id).ck = false → (t.slice id).rs 1 = -2 ∧ t.outbox = s.outbox) ∧
      (3 ≤ n.toNat → (t.slice id).rs 1 = -1 ∧ t.outbox = s.outbox) ∧
      ∀ r, r ≠ 1 → (t.slice id).rs r = (s.slice id).rs r

/-- R40-R42: an `alloc` that its pool can serve changes the extended block at once, and `free` gives it back; the registers
beyond the allotment are lost; an `alloc` of no valid size traps ALLOCX. It rests on the model's own choices in log 24. -/
def Obligations.AllotmentChanges : Prop :=
  (∀ e : Byte, One (.alloc e)
    (fun s x => e ≠ 0 ∧ e.toNat % 32 = 0 ∧ e.toNat ≤ 224 ∧ 32 + e.toNat ≤ 8 * hVreg (headerOf s x) ∧ e.toNat ≤ x.ext ∧
      ∀ w ∈ (s.pdk x.pk).waiters, x.id ∉ w.members)
    (fun _ x t => (t.slice x.id).ext = e.toNat ∧ (t.slice x.id).pc = (advance x).pc ∧ (t.slice x.id).s = x.s ∧
      (∀ r : VReg, ∀ l < 32, (t.slice x.id).rv r l = if r.toNat < 32 + e.toNat then x.rv r l else 0))) ∧
  (∀ e : Byte, One (.alloc e)
    (fun s x => e ≠ 0 ∧ e.toNat % 32 = 0 ∧ e.toNat ≤ 224 ∧ 32 + e.toNat ≤ 8 * hVreg (headerOf s x) ∧ x.ext < e.toNat ∧ x.run = .ready ∧
      (checkedSlice s x = false ∨ (e.toNat - x.ext) / 32 ≤ 32 - checkUsed s x.pk) ∧ (s.slices.map Slice.id).Nodup ∧ (s.pdk x.pk).waiters = [] ∧
      (e.toNat - x.ext) / 32 ≤ (s.ctx (x.pk / 192 * 64 + x.ctx)).pool - poolUsed s x.pk x.ctx)
    (fun _ x t => (t.slice x.id).ext = e.toNat ∧ (t.slice x.id).run = .ready ∧ (t.slice x.id).pc = (advance x).pc ∧
      (∀ r : VReg, ∀ l < 32, (t.slice x.id).rv r l = if r.toNat < 32 + x.ext then x.rv r l else 0))) ∧
  (∀ e : Byte, One (.alloc e)
    (fun s x => Trappable s x ∧ (e = 0 ∨ e.toNat % 32 ≠ 0 ∨ 224 < e.toNat ∨ 8 * hVreg (headerOf s x) < 32 + e.toNat))
    (fun s x t => HeldAt x (t.slice x.id) x.pc ∧ (t.slice x.id).ext = x.ext ∧
      Recorded s t x { code := tALLOCX, subc := 1, lane := 255, pc := x.pc, rpc := x.pc, info := e.setWidth 64, word := s.word })) ∧
  One .free (fun s x => ∀ w ∈ (s.pdk x.pk).waiters, x.id ∉ w.members)
    (fun _ x t => (t.slice x.id).ext = 0 ∧ (t.slice x.id).pc = (advance x).pc ∧
      (∀ r : VReg, ∀ l < 32, (t.slice x.id).rv r l = if r.toNat < 32 then x.rv r l else 0))

/-- R77, R101, R227-R231, R238: what taking a trap does, with a handler and without one or in it, and the instructions that trap
by themselves. It rests on the model's own choices in log 14. -/
def Obligations.TrapsEnterTheHandler : Prop :=
  TrapEntryRecordsAndHolds ∧ UnservedTrapsKill ∧ SoftwareTrapsEnterHandler

/-- R33-R35, R95: lanes and whole slices exit, and the barriers that a retiring slice leaves.
It rests on the model's own choices in log 23. -/
def Obligations.LanesAndSlicesExit : Prop :=
  ExitOfSomeLanes ∧ ExitOfAllLanesRetires ∧ RetirementLowersBarriers

/-- R95, R102, R103: yields, services and idling. It rests on the model's own choices in log 2. -/
def Obligations.YieldServiceIdle : Prop :=
  YieldRequestIdle ∧ ServiceAnswers

/-- R96, R97: reading a special register that is not a handler's, into a scalar or, with each lane's own index of `%lane`, into the
selected lanes. In compatibility mode `%slice`, `%gm` and `%lane` count half-slices (R319). -/
def Sys2Proof.Claims.SpecialRegisterReads : Prop :=
  (∀ (d : SReg) (n : BitVec 12), n ≠ 0x00F → WritesS (.rdsr d n) d (fun s x => srValue s x n.toNat)) ∧
  (∀ (p : Pred) (d : VReg) (n : BitVec 12), n ≠ 0x00F → WritesV (.rdsrV p d n) p d (fun s x l =>
    if n = 0 then BitVec.ofNat 32 (if cmp16 s x then l % 16 else l)
    else if n = 1 ∧ cmp16 s x = true then BitVec.ofNat 32 (2 * x.idx + l / 16)
    else BitVec.ofNat 32 (srValue s x n.toNat).toNat)) ∧
  (∀ d : SReg, WritesS (.rdpc d) d (fun _ x => x.pc)) ∧
  (∀ (s : State) (x : Slice),
    srValue s x 0x001 = BitVec.ofNat 64 (if cmp16 s x then 2 * x.idx else x.idx) ∧ srValue s x 0x002 = BitVec.ofNat 64 x.gid ∧
    srValue s x 0x003 = BitVec.ofNat 64 (32 * (List.range 4).countP fun j => x.gm.getLsbD j) ∧
    (cmp16 s x = false → srValue s x 0x004 = BitVec.ofNat 64 x.gm.toNat) ∧
    (cmp16 s x = true → ∀ j < 64, (srValue s x 0x004).getLsbD j = x.gm.getLsbD (j / 2)) ∧
    srValue s x 0x007 = BitVec.ofNat 64 (s.block x.block).crew.toNat ∧
    (x.nextIssue ≤ s.clk x.die → srValue s x 0x00D = s.cc x.die) ∧
    (s.clk x.die ≤ x.nextIssue → srValue s x 0x00D = BitVec.ofNat 64 x.nextIssue) ∧
    srValue s x 0x005 = BitVec.ofNat 64 x.alive.toNat ∧ srValue s x 0x006 = BitVec.ofNat 64 (s.block x.block).blk.toNat ∧
    srValue s x 0x008 = BitVec.ofNat 64 (s.block x.block).lcore ∧ srValue s x 0x009 = BitVec.ofNat 64 (x.pdk % 4 ^^^ (s.block x.block).flip) ∧
    srValue s x 0x00A = BitVec.ofNat 64 x.die ∧ srValue s x 0x00B = BitVec.ofNat 64 s.node.toNat ∧
    srValue s x 0x00C = BitVec.ofNat 64 x.ctx ∧ srValue s x 0x00E = x.fr &&& 0xFFFFFF ∧
    srValue s x 0x00F = BitVec.ofNat 64 x.xv.lfm.toNat ∧ srValue s x 0x010 = (s.ctxOf x).wu ∧
    srValue s x 0x011 = BitVec.ofNat 64 (s.block x.block).bph.toNat ∧
    srValue s x 0x012 = BitVec.ofNat 64 x.lc0.count.toNat ∧ srValue s x 0x013 = BitVec.ofNat 64 x.lc1.count.toNat)

/-- R132: `%lfm` is read and written once the slice's execute-vector instructions have retired; the lanes that a write leaves clear
lose their fault codes. -/
def Sys2Proof.Claims.LaneFaultMaskAccess : Prop :=
  ∀ (d a : SReg) (s : State), (∀ id ∈ s.group, (s.slice id).xv.queue = [] ∧ (s.slice id).run = .ready) →
    (Clear (.rdsr d 0x00F) s → ∃ t, exec (.rdsr d 0x00F) s = .next t ∧ GroupOnly s t ∧ Members s t fun x y =>
      y = { advance x with s := y.s } ∧ ∀ r, y.rs r = if r = d ∧ d ≠ 0 then BitVec.ofNat 64 x.xv.lfm.toNat else x.rs r) ∧
    (Clear (.lfmWrite a) s → ∃ t, exec (.lfmWrite a) s = .next t ∧ GroupOnly s t ∧ Members s t fun x y =>
      y = { advance x with xv := { x.xv with lfm := y.xv.lfm, code := y.xv.code } } ∧ y.xv.lfm = (x.rs a).setWidth 32 ∧
      ∀ l < 32, y.xv.code.get l = if (x.rs a).getLsbD l then x.xv.code.get l else 0)

namespace Sys2Proof.Claims

/-- A handler slice alone, serving, whose `%hsel` names the held slice `h` of the block it serves. -/
def Serving (s : State) (x : Slice) (h : Nat) : Prop :=
  s.has h ∧ h ≠ x.id ∧ x.run = .ready ∧ heldTarget s x = some (s.slice h) ∧ (s.punit x.uk).service.isSome = true

end Sys2Proof.Claims

/-- R232-R236: the handler names its target and the element that `%hrd` moves, holds and marks a running or waiting target at its
next boundary, marks and unmarks a held one, and moves the target's program counter.
It rests on the model's own choices in log 21. -/
def Obligations.HandlerControlRegisters : Prop :=
  (∀ a : SReg, One (.wrsr 0x110 a) (fun _ _ => True) fun s x t =>
    (t.punit x.uk).hsel = (x.rs a).setWidth 10 ∧ (t.punit x.uk).hrn = (s.punit x.uk).hrn ∧ t.slice x.id = advance x) ∧
  (∀ a : SReg, One (.wrsr 0x114 a) (fun _ _ => True) fun s x t =>
    (t.punit x.uk).hrn = (x.rs a).setWidth 20 ∧ (t.punit x.uk).hsel = (s.punit x.uk).hsel ∧ t.slice x.id = advance x) ∧
  (∀ (a : SReg) (h : Nat), One (.wrsr 0x112 a) (Serving · · h) fun s x t =>
    t.slice h = { s.slice h with pc := BitVec.ofNat 64 (8 * ((x.rs a).toNat / 8)) } ∧ t.slice x.id = advance x ∧
      ∀ j, s.has j → j ≠ h → j ≠ x.id → t.slice j = s.slice j) ∧
  (∀ h : Nat, One .hctlHold (Serving · · h) fun s x t => t.slice h = { s.slice h with marked := true } ∧ t.slice x.id = advance x) ∧
  (∀ h : Nat, One .hctlHold (fun s x => s.has h ∧ h ≠ x.id ∧ x.run = .ready ∧ hTarget s x = some (s.slice h) ∧
      ((s.slice h).run = .ready ∨ ∃ w, (s.slice h).run = .waiting w) ∧ (s.slice h).alive ≠ 0 ∧ (s.slice h).pushes = [] ∧ (s.slice h).land = [] ∧
      (s.slice h).xv.queue = [] ∧ (∀ u ∈ s.units, u.mq = []) ∧ ∀ p ∈ s.pdks, p.waiters = [])
    fun s x t =>
      let y := s.slice h
      t.slice h = { (if y.run = .waiting .xvDone ∨ y.run = .waiting .answered then advance y else y) with run := .held, marked := true } ∧
        t.slice x.id = advance x ∧ ∀ j, s.has j → j ≠ h → j ≠ x.id → t.slice j = s.slice j) ∧
  (∀ h : Nat, One .hctlMark (Serving · · h) fun s x t => t.slice h = { s.slice h with marked := true } ∧ t.slice x.id = advance x) ∧
  (∀ h : Nat, One .hctlUnmark (Serving · · h) fun s x t => t.slice h = { s.slice h with marked := false } ∧ t.slice x.id = advance x)

/-- R235: a write through `%hrd` of a scalar, of a lane of an allotted vector register, of a mask or of a half of a capability
(which clears its tag) changes that element of the held target alone; through `%hcap` the target's capability becomes a copy of
the handler's, tag included. -/
def Obligations.HandlerElementWrites : Prop :=
  ∀ (a : SReg) (h : Nat),
    One (.hrdWrite a) (fun s x => Serving s x h) (fun s x t =>
      let n := (s.punit x.uk).hrn.toNat
      let i := n / 16 % 256
      let l := n / 2 ^ 12 % 32
      let y := s.slice h
      let z := t.slice h
      t.slice x.id = advance x ∧ (∀ k, Cells.get t.mem k = Cells.get s.mem k) ∧
      (∀ j, s.has j → j ≠ h → j ≠ x.id → t.slice j = s.slice j) ∧
      (n % 16 = 0 → i < 64 → z = { y with s := z.s } ∧
        ∀ r, z.rs r = if r = BitVec.ofNat 6 i ∧ r ≠ 0 then x.rs a else y.rs r) ∧
      (n % 16 = 1 → i < y.allot → z = { y with v := z.v } ∧
        ∀ r, ∀ j < 32, z.rv r j = if r = BitVec.ofNat 8 i ∧ j = l then (x.rs a).setWidth 32 else y.rv r j) ∧
      (n % 16 = 2 → i < 8 → z = { y with k := z.k } ∧
        ∀ r, z.rk r = if r = BitVec.ofNat 3 i then (if r = 0 then (x.rs a).setWidth 32 &&& y.alive else (x.rs a).setWidth 32)
          else y.rk r) ∧
      ((n % 16 = 3 ∨ n % 16 = 4) → 0 < i → i < 16 → z = { y with c := z.c, ct := z.ct } ∧
        (z.rc (BitVec.ofNat 4 i)).tag = false ∧ (∀ r, r ≠ BitVec.ofNat 4 i → z.rc r = y.rc r) ∧
        ∀ j < 128, (z.rc (BitVec.ofNat 4 i)).bits.getLsbD j =
          if n % 16 = 3 then (if j < 64 then (x.rs a).getLsbD j else (y.rc (BitVec.ofNat 4 i)).bits.getLsbD j)
          else (if j < 64 then (y.rc (BitVec.ofNat 4 i)).bits.getLsbD j else (x.rs a).getLsbD (j - 64)))) ∧
    One (.hcapWrite a) (fun s x => Serving s x h ∧ 3 ≤ hrnClass (s.punit x.uk).hrn ∧ hrnClass (s.punit x.uk).hrn ≤ 5 ∧
        0 < hrnIndex (s.punit x.uk).hrn ∧ hrnIndex (s.punit x.uk).hrn < 16) (fun s x t =>
      t.slice x.id = advance x ∧
      (t.slice h).rc (BitVec.ofNat 4 (hrnIndex (s.punit x.uk).hrn)) = x.rc ((x.rs a).setWidth 4) ∧
      ∀ r, r ≠ BitVec.ofNat 4 (hrnIndex (s.punit x.uk).hrn) → (t.slice h).rc r = (s.slice h).rc r)

/-- R236, R238, R234, R237: a write of `%hexe` goes on; for a held target its word is accepted or refused with status 1. Killing from
the handler ends the service, retires the handler and every slice of the block, and has the grid count and report the kill with the
record in service; the block ends where no command, task or push of it is left. `tret` lets every marked held slice of the block whose
own trap is not queued resume, as its own group with its first eight instructions interlocked, leaves every other slice, and ends the
service. It rests on the model's own choices in log 16. -/
def Obligations.HandlerProxyKillReturn : Prop :=
  (∀ a : SReg, One (.hexeWrite a) (fun _ _ => True) fun s x t =>
    t.slice x.id = advance x ∧ (∀ j, s.has j → j ≠ x.id → t.slice j = s.slice j) ∧ (∀ k, Cells.get t.mem k = Cells.get s.mem k) ∧
    match heldTarget s x with
    | none => t.units = s.units
    | some y => match decode (hdrOf s y) (x.rs a).toNat with
      | .error _ => (t.punit x.uk).proxy = (s.punit x.uk).proxy ∧ (t.punit x.uk).hxs = 1
      | .ok j =>
        if proxyRefused s y (bitsOf (x.rs a).toNat 8 8) j then (t.punit x.uk).proxy = (s.punit x.uk).proxy ∧ (t.punit x.uk).hxs = 1
        else (t.punit x.uk).proxy = some (x.rs a) ∧ (t.punit x.uk).hxs = 0) ∧
  (∀ e : TrapEntry, One .hctlKill (fun s x => x.handler = true ∧ x.run = .ready ∧ (s.punit x.uk).service = some e ∧ (s.punit x.uk).hslice = x.id ∧ x.id ≠ 0 ∧
      (∃ y ∈ s.blocks, y.id = e.block) ∧ (s.block e.block).run ≠ .ended ∧ (s.block e.block).wave = [] ∧ (∃ g ∈ s.grids, g.id = (s.block e.block).grid) ∧
      s.bars = [] ∧ s.bbs = [] ∧ (∀ p ∈ s.pdks, p.waiters = []) ∧ (s.slices.map Slice.id).Nodup)
    fun s x t =>
      let g := (s.block e.block).grid
      (t.punit x.uk).service = none ∧ (t.slice x.id).run = .retired ∧
      (∀ y ∈ s.slices, y.block = e.block → y.handler = false → (t.slice y.id).run = .retired) ∧
      (t.grid g).killed = (s.grid g).killed + 1 ∧ (t.grid g).reports = (s.grid g).reports ++ [e.trec] ∧
      ((∀ c ∈ s.cmds, c.block ≠ e.block) → (∀ r ∈ s.retiring, r.block ≠ e.block) → (∀ r ∈ s.pushbuf, r.block ≠ e.block) →
        (t.block e.block).run = .ended)) ∧
  (∀ e : TrapEntry, One .tret (fun s x => x.handler = true ∧ (s.punit x.uk).service = some e ∧ (s.slices.map Slice.id).Nodup ∧ ∀ p ∈ s.pdks, p.waiters = [])
    fun s x t =>
      let resumes := fun (y : Slice) => y.block = e.block ∧ y.handler = false ∧ y.run = .held ∧ y.marked = true ∧
        ∀ u ∈ s.units, y.id ∉ (u.traps ++ u.late).map TrapEntry.slice
      (∀ y ∈ s.slices, resumes y → t.slice y.id = { y with run := .ready, marked := false, gm := (1 : BitVec 4) <<< y.idx, interlock := 8 }) ∧
      (∀ y ∈ s.slices, ¬resumes y → y.id ≠ x.id → t.slice y.id = y) ∧
      (t.slice x.id).run = .retired ∧ (t.punit x.uk).service = none ∧ ∀ k, Cells.get t.mem k = Cells.get s.mem k)

/-- R229, R230: a service starts with the oldest queued trap of a running block: the handler slice stands at TRAPE with all lanes
active and no extended block, the record is in service and off the queue, and its slice is marked and stands at the
resumption address. It rests on the model's own choices in log 2. -/
def Obligations.ServiceStartsHandler : Prop :=
  ∀ (s : State) (u : Nat) (e : TrapEntry) (rest : List TrapEntry),
    (s.punit u).service = none → (s.punit u).traps = e :: rest → (s.punit u).late = [] →
    (s.block e.block).run = .running → (s.block e.block).stop = none → (∀ v ∈ s.units, v.mq = []) →
    (s.ctx (u / 64 / 192 * 64 + u % 64)).killing = 0 → (s.punit u).id = u →
    s.has e.slice → (s.slice e.slice).xv.queue = [] → (s.slice e.slice).land = [] →
    (s.punit u).hslice ≠ 0 → (s.punit u).hslice ≠ e.slice → rest.length < 16 →
    ∃ t, exec (.trapServiceStart u) s = .next t ∧
      let h := t.slice (s.punit u).hslice
      h.handler = true ∧ h.block = e.block ∧ h.pc = BitVec.ofNat 64 (s.ctxOf (s.slice e.slice)).trape ∧ h.alive = -1 ∧ h.rk 0 = -1 ∧
      h.run = .ready ∧ h.ext = 0 ∧
      (t.punit u).service = some e ∧ (t.punit u).traps = rest ∧ (t.punit u).proxy = none ∧
      (t.slice e.slice).marked = true ∧ (t.slice e.slice).pc = e.trec.rpc ∧ (t.slice e.slice).run = (s.slice e.slice).run

/-- R96, R97, R132: special registers. It rests on the model's own choices in log 48. -/
def Obligations.SpecialRegisterAccess : Prop :=
  SpecialRegisterReads ∧ LaneFaultMaskAccess

namespace Sys2Proof.Claims

/-- An execute-vector instruction enters the slice's queue with what it read; a form that may trap holds the slice until it has
retired, with the other members; in a slice with an empty `k0` it does nothing. -/
def EntersXv (i : Instr) (hold : Bool) (P : State → Slice → XvOp → Prop) : Prop :=
  Does i fun s x y =>
    (x.run = .waiting .xvDone → y = { advance x with run := .ready }) ∧
    (x.run = .ready → x.rk 0 = 0 → (hold = false ∨ ∀ j ∈ s.group, (s.slice j).rk 0 = 0) → y = advance x) ∧
    (x.run = .ready → x.rk 0 = 0 → hold = true → (∃ j ∈ s.group, (s.slice j).rk 0 ≠ 0) → y = { x with run := .waiting .xvDone }) ∧
    (x.run = .ready → x.rk 0 ≠ 0 → ∃ o : XvOp, P s x o ∧ o.pc = x.pc ∧ o.fr = x.fr ∧
      y = if hold then { x with xv := { x.xv with queue := x.xv.queue ++ [o] }, run := .waiting .xvDone }
          else advance { x with xv := { x.xv with queue := x.xv.queue ++ [o] } })
/-- The oldest execute-vector instruction of a slice whose shadow does not differ retires without a trap, and `P` holds of the slice before and after; no byte
of memory changes. -/
def Retires (pre : XvOp → Slice → Prop) (P : XvOp → Slice → Slice → Prop) : Prop :=
  ∀ (s : State) (id : Nat) (o : XvOp) (rest : List XvOp), s.has id → s.sessions = [] → s.shadows = [] → (s.slice id).xv.queue = o :: rest →
    pre o (s.slice id) → ∃ t, exec (.xvRetire id) s = .next t ∧ (t.slice id).xv.queue = rest ∧ P o (s.slice id) (t.slice id) ∧
      (∀ j, s.has j → j ≠ id → t.slice j = s.slice j) ∧ ∀ a, Cells.get t.mem a = Cells.get s.mem a

end Sys2Proof.Claims

/-- R154-R160: what each execute-vector instruction records at issue: its lanes are those of its mask in `k0`, and a step and a
run read their window then too (R156). -/
def Obligations.ExecuteVectorIssue : Prop :=
  ∀ (nt : Bool) (a w : VReg) (km : KReg) (n : SReg),
    EntersXv (.xvStep nt a w km) (!nt) (fun _ x o => o.kind = .step ∧ o.nt = nt ∧ o.w = w ∧ o.sel = x.rk km &&& x.rk 0 ∧ o.ops = [x.rvAll a] ∧
      ∀ j < 4, o.win.getD j [] = x.rvAll (w + BitVec.ofNat 8 j)) ∧
    EntersXv (.xvRun nt a w km n) (!nt) (fun _ x o => o.kind = .run ∧ o.nt = nt ∧ o.w = w ∧ o.sel = x.rk km &&& x.rk 0 ∧
      o.ops.length = min (x.rs n).toNat 256 ∧ (∀ j < o.ops.length, o.ops.getD j [] = x.rvAll (a + BitVec.ofNat 8 j)) ∧
      ∀ j < 4, o.win.getD j [] = x.rvAll (w + BitVec.ofNat 8 j)) ∧
    EntersXv (.xvLdk a) false (fun _ x o => o.kind = .ldk ∧ o.ops = [x.rvAll a]) ∧
    EntersXv (.xvClr km) false (fun _ x o => o.kind = .clr ∧ o.sel = x.rk km &&& x.rk 0) ∧
    EntersXv (.xvPush nt a km) (!nt) (fun _ x o => o.kind = .push ∧ o.nt = nt ∧ o.sel = x.rk km &&& x.rk 0 ∧ o.ops = [x.rvAll a]) ∧
    EntersXv (.xvPop nt a km) (!nt) (fun _ x o => o.kind = .pop ∧ o.nt = nt ∧ o.w = a ∧ o.sel = x.rk km &&& x.rk 0)

namespace Sys2Proof.Claims

/-- What the words of a lane leave one after the other: the window, which slots of it they wrote, the stack, and the fault that
stopped the lane. -/
def laneRun (e : LaneEnv) : List W32 → List W32 → List Bool → List W32 → List W32 × List Bool × List W32 × Option Nat
  | [], win, wr, st => (win, wr, st, none)
  | w :: ws, win, wr, st =>
    match runWord e win w st with
    | .error c => (win, wr, st, some c)
    | .ok (st, none) => laneRun e ws win wr st
    | .ok (st, some (n, v)) => laneRun e ws (win.set n v) (wr.set n true) st
/-- A step or a run: each selected lane runs its words, or stops at its first fault, which it records; a lane that is not selected
and the registers outside the window are as before; of the window, which the words find as it was at issue, the slots that they
wrote have changed. -/
def RunsLanes (o : XvOp) (x y : Slice) : Prop :=
  (∀ r : VReg, (∀ j < 4, r ≠ o.w + BitVec.ofNat 8 j) → ∀ l < 32, y.rv r l = x.rv r l) ∧
  ∀ l < 32,
    let win := (List.range 4).map fun n => (o.win.getD n []).getD l 0
    let r := if o.sel.getLsbD l then laneRun (o.env x) (o.ops.map fun ws => ws.getD l 0) win [false, false, false, false] (x.xv.stk l)
      else (win, [], x.xv.stk l, none)
    (∀ j < 4, y.rv (o.w + BitVec.ofNat 8 j) l = if r.2.1.getD j false then r.1.getD j 0 else x.rv (o.w + BitVec.ofNat 8 j) l) ∧
    y.xv.stk l = r.2.2.1 ∧
    match r.2.2.2 with
    | none => y.xv.code.get l = x.xv.code.get l ∧ y.xv.lfm.getLsbD l = x.xv.lfm.getLsbD l
    | some c => y.xv.code.get l = BitVec.ofNat 4 c ∧ y.xv.lfm.getLsbD l = true
/-- No selected lane of a step or a run faults. -/
def Calm (o : XvOp) (x : Slice) : Prop := ∀ l < 32, o.sel.getLsbD l = true →
  (laneRun (o.env x) (o.ops.map fun ws => ws.getD l 0) ((List.range 4).map fun n => (o.win.getD n []).getD l 0) [] (x.xv.stk l)).2.2.2 = none
/-- What a push leaves: a full stack records overflow. -/
def Pushes (o : XvOp) (x y : Slice) : Prop := y.v = x.v ∧ ∀ l < 32,
  if o.sel.getLsbD l then
    if x.xv.dep l = 8 then y.xv.stk l = x.xv.stk l ∧ y.xv.code.get l = 4 ∧ y.xv.lfm.getLsbD l = true
    else y.xv.stk l = (o.ops.headD []).getD l 0 :: x.xv.stk l ∧ y.xv.lfm.getLsbD l = x.xv.lfm.getLsbD l
  else y.xv.stk l = x.xv.stk l ∧ y.xv.lfm.getLsbD l = x.xv.lfm.getLsbD l
/-- What a pop leaves: an empty stack records underflow. -/
def Pops (o : XvOp) (x y : Slice) : Prop := ∀ l < 32,
  if o.sel.getLsbD l then
    match x.xv.stk l with
    | [] => y.rv o.w l = x.rv o.w l ∧ y.xv.code.get l = 3 ∧ y.xv.lfm.getLsbD l = true
    | a :: st => y.rv o.w l = a ∧ y.xv.stk l = st ∧ y.xv.lfm.getLsbD l = x.xv.lfm.getLsbD l
  else y.rv o.w l = x.rv o.w l ∧ y.xv.stk l = x.xv.stk l ∧ y.xv.lfm.getLsbD l = x.xv.lfm.getLsbD l
/-- A push to a full stack, or a pop from an empty one, in a form that may trap: the other lanes are performed, and the slice is held
with LANEF at its next instruction, which names the lowest faulting lane. -/
def StackTraps : Prop :=
  ∀ (s : State) (id : Nat) (o : XvOp) (rest : List XvOp) (l : Nat),
    let x := s.slice id
    let faults := fun l => x.xv.dep l = (if o.kind = .push then 8 else 0)
    s.has id → s.sessions = [] → s.shadows = [] → x.xv.queue = o :: rest → Trappable s x → o.nt = false → o.win = [] →
    (o.kind = .push ∨ o.kind = .pop) → (∀ j < 32, x.xv.dep j ≤ 8) →
    l < 32 → o.sel.getLsbD l = true → faults l → (∀ j < l, o.sel.getLsbD j = true → ¬faults j) →
    ∃ t, exec (.xvRetire id) s = .next t ∧ (t.slice id).run = .held ∧ (t.slice id).xv.queue = rest ∧ (t.slice id).pc = o.pc + 8 ∧
      (o.kind = .push → Pushes o x (t.slice id)) ∧ (o.kind = .pop → Pops o x (t.slice id)) ∧
      ∃ e ∈ (t.punit x.uk).traps, e.slice = id ∧ e.trec.code = tLANEF ∧ e.trec.lane = BitVec.ofNat 8 l ∧ e.trec.pc = o.pc ∧
        e.trec.rpc = o.pc + 8 ∧ e.trec.lfm.getLsbD l = true
/-- A step, or the first step of a run, that may trap and has a faulting lane: the slice is held with LANEF, which names the
lowest of them; a run resumes at itself, at its next step. -/
def FaultTraps : Prop :=
  ∀ (s : State) (id : Nat) (o : XvOp) (ws : List W32) (more : List (List W32)) (rest : List XvOp) (l : Nat),
    let x := s.slice id
    let faults := fun l => ∃ c, runWord (o.env x) ((List.range 4).map fun n => (o.win.getD n []).getD l 0) (ws.getD l 0) (x.xv.stk l) = .error c
    s.has id → s.sessions = [] → s.shadows = [] → x.xv.queue = o :: rest → Trappable s x → o.nt = false → o.win.length = 4 → o.ops = ws :: more →
    (o.kind = .step ∨ o.kind = .run ∧ x.xv.resume = none) → (∀ j < 32, x.xv.dep j ≤ 8) →
    l < 32 → o.sel.getLsbD l = true → faults l → (∀ j < l, o.sel.getLsbD j = true → ¬faults j) →
    ∃ t, exec (.xvRetire id) s = .next t ∧ (t.slice id).run = .held ∧ (t.slice id).xv.queue = rest ∧
      (t.slice id).pc = (if o.kind = .run then o.pc else o.pc + 8) ∧ (o.kind = .run → (t.slice id).xv.resume = some (o.pc, 1)) ∧
      ∃ e ∈ (t.punit x.uk).traps, e.slice = id ∧ e.trec.code = tLANEF ∧ e.trec.lane = BitVec.ofNat 8 l ∧ e.trec.pc = o.pc ∧
        e.trec.lfm.getLsbD l = true

end Sys2Proof.Claims

/-- R156-R160, R163: what they do at retirement, lane by lane: a step and a run execute the lane's words on its stack and its
window or record the lane's fault, which traps in the forms that may trap, a
load of the constant table writes all 32 entries, a clear empties the selected stacks and their faults, a push and a pop move
the top of the stack or record overflow and underflow. -/
def Obligations.ExecuteVectorRetirement : Prop :=
  FaultTraps ∧ StackTraps ∧
  Retires (fun o x => o.kind = .step ∧ (o.nt = true ∨ Calm o x) ∧ o.win.length = 4 ∧ o.ops.length = 1 ∧ ∀ l < 32, x.xv.dep l ≤ 8) RunsLanes ∧
  Retires (fun o x => o.kind = .run ∧ (o.nt = true ∨ Calm o x) ∧ o.win.length = 4 ∧ x.xv.resume = none ∧ ∀ l < 32, x.xv.dep l ≤ 8)
    (fun o x y => RunsLanes o x y ∧ y.xv.resume = none) ∧
  Retires (fun o x => o.kind = .step ∧ o.nt = true ∧ o.win.length = 4 ∧ ∀ l < 32, x.xv.dep l ≤ 8) (fun o x y => ∀ l < 32,
    (o.sel.getLsbD l = false → y.xv.stk l = x.xv.stk l ∧ y.xv.code.get l = x.xv.code.get l ∧ y.xv.lfm.getLsbD l = x.xv.lfm.getLsbD l) ∧
    (o.sel.getLsbD l = true →
      match runWord (o.env x) ((List.range 4).map fun n => (o.win.getD n []).getD l 0) ((o.ops.headD []).getD l 0) (x.xv.stk l) with
      | .ok (st, _) => st.length ≤ 8 → y.xv.stk l = st ∧ y.xv.code.get l = x.xv.code.get l ∧ y.xv.lfm.getLsbD l = x.xv.lfm.getLsbD l
      | .error c => y.xv.stk l = x.xv.stk l ∧ y.xv.code.get l = BitVec.ofNat 4 c ∧ y.xv.lfm.getLsbD l = true)) ∧
  Retires (fun o _ => o.kind = .ldk ∧ o.win = []) (fun o x y => y.v = x.v ∧ y.xv.stack = x.xv.stack ∧ y.xv.depth = x.xv.depth ∧
    ∀ l < 32, y.xv.consts.get l = (o.ops.headD []).getD l 0) ∧
  Retires (fun o x => o.kind = .clr ∧ o.win = [] ∧ ∀ l < 32, x.xv.dep l ≤ 8) (fun o x y => y.v = x.v ∧ y.xv.consts = x.xv.consts ∧ y.xv.resume = none ∧ ∀ l < 32,
    if o.sel.getLsbD l then y.xv.dep l = 0 ∧ y.xv.code.get l = 0 ∧ y.xv.lfm.getLsbD l = false
    else y.xv.stk l = x.xv.stk l ∧ y.xv.code.get l = x.xv.code.get l ∧ y.xv.lfm.getLsbD l = x.xv.lfm.getLsbD l) ∧
  Retires (fun o x => o.kind = .push ∧ (o.nt = true ∨ ∀ l < 32, o.sel.getLsbD l = true → x.xv.dep l < 8) ∧ o.win = [] ∧
    ∀ l < 32, x.xv.dep l ≤ 8) Pushes ∧
  Retires (fun o x => o.kind = .pop ∧ (o.nt = true ∨ ∀ l < 32, o.sel.getLsbD l = true → x.xv.dep l ≠ 0) ∧ o.win = [] ∧
    ∀ l < 32, x.xv.dep l ≤ 8) Pops

/-- R161, R132, R162: the per-lane depths and fault codes on their way to a register, and an image saved to memory and loaded
from it. -/
def Obligations.ExecuteVectorReadsAndImages : Prop :=
  (∀ (d : VReg) (s : State), (∀ id ∈ s.group, (s.slice id).xv.queue = [] ∧ (s.slice id).run = .ready) →
    (Clear (.xvDep d) s → ∃ t, exec (.xvDep d) s = .next t ∧ GroupOnly s t ∧ Members s t fun x y =>
      (x.rk 0 = 0 → y = advance x) ∧
      (x.rk 0 ≠ 0 → ∃ vs, y = advance { x with land := x.land ++ [.v d (x.rk 0) vs] } ∧ ∀ l < 32, vs.getD l 0 = BitVec.ofNat 32 (x.xv.dep l))) ∧
    (Clear (.xvStat d) s → ∃ t, exec (.xvStat d) s = .next t ∧ GroupOnly s t ∧ Members s t fun x y =>
      (x.rk 0 = 0 → y = advance x) ∧
      (x.rk 0 ≠ 0 → ∃ vs, y = advance { x with land := x.land ++ [.v d (x.rk 0) vs] } ∧
        ∀ l < 32, vs.getD l 0 = BitVec.ofNat 32 (x.xv.code.get l).toNat))) ∧
  (∀ (c : CReg) (r : SReg) (imm : BitVec 14),
    One (.xvSave c r imm) (fun s x => xvFail pS c r imm s x = none ∧ x.xv.queue = [] ∧ x.run = .ready) (fun s x t =>
      t.slice x.id = { advance x with hang := 0 } ∧
      ((keysAt s x (x.rc c) (xvAddr x c r imm) 1280).Nodup → rdBytes t x (x.rc c) (xvAddr x c r imm) 1280 = x.xv.image) ∧
      ∀ k, (∀ j < 1280, k ≠ keyAt s x (x.rc c) (xvAddr x c r imm + j)) → Cells.get t.mem k = Cells.get s.mem k) ∧
    ∀ v, One (.xvLoad c r imm) (fun s x => xvFail pL c r imm s x = none ∧ x.xv.queue = [] ∧ x.run = .ready ∧
        Xv.ofImage (rdBytes s x (x.rc c) (xvAddr x c r imm) 1280) = some v) (fun s x t =>
      t.slice x.id = advance { x with xv := { v with queue := [] } } ∧ ∀ k, Cells.get t.mem k = Cells.get s.mem k))

namespace Sys2Proof.Claims

/-- No member fails a check of its own. -/
def Passes (g : State → Slice → Option TrapInfo) (s : State) : Prop := ∀ id ∈ s.group, g s (s.slice id) = none
/-- The byte keys of an access of `n` bytes of a slice. -/
def touched (s : State) (x : Slice) (c : CReg) (i : Idx) (off : Int) (n : Nat) : List Nat := keysAt s x (x.rc c) (addrS x (x.rc c) i off) n
/-- What `n` bytes of an access read as a little-endian number. -/
def number (s : State) (x : Slice) (c : CReg) (i : Idx) (off : Int) (n : Nat) : Nat :=
  leNat ((touched s x c i off n).map fun k => Cells.get s.mem k)
/-- The byte keys of the access of `n` bytes of a lane. -/
def laneKeys (s : State) (x : Slice) (c : CReg) (i : Idx) (off : Int) (l n : Nat) : List Nat := keysAt s x (x.rc c) (addrV x (x.rc c) i off l n) n
/-- Exactly one landing-buffer write is added to a slice, which goes on. -/
def Lands (l : Landing) (x y : Slice) : Prop := y = advance { x with land := x.land ++ [l] }
/-- Types of scalar and of lane accesses. -/
def memTy (t : Ty) : Prop := t ∈ [Ty.n8, .n16, .n32, .n64, .i8, .i16, .i32, .i64]
def memTy32 (t : Ty) : Prop := t ∈ [Ty.n8, .n16, .n32, .i8, .i16, .i32]
/-- A number of a type extended to `w` bits. -/
def extended (w : Nat) (t : Ty) (v : Nat) : BitVec w :=
  if t.signed ∧ 2 ^ (t.width - 1) ≤ v then BitVec.ofInt w ((v : Int) - 2 ^ t.width) else BitVec.ofNat w v

/-- The selected lanes of a vector atomic pass their checks, and any two of them access the same word or share no byte of one. -/
def LanesApart (p : Pred) (t : Ty) (d : VReg) (c : CReg) (i : Idx) (s : State) (x : Slice) : Prop :=
  atmFail p t d c i s x = none ∧ s.sessions = [] ∧
    ∀ l ∈ lanesOf (x.sel p), (laneKeys s x c i 0 l 4).Nodup ∧ ∀ m ∈ lanesOf (x.sel p),
      (laneKeys s x c i 0 l 4 = laneKeys s x c i 0 m 4 ∨ ∀ k ∈ laneKeys s x c i 0 l 4, k ∉ laneKeys s x c i 0 m 4)
/-- Every selected lane reads what the next lower one at its word left there, or what stood there before; the last of them leaves
its result; the old values come back in one landing-buffer write. -/
def LaneByLane (p : Pred) (d a : VReg) (c : CReg) (i : Idx) (f : Nat → Nat → Nat → Nat) (s : State) (x : Slice) (u : State) : Prop :=
  let at' := fun l => laneKeys s x c i 0 l 4
  let on := fun l => l < 32 ∧ (x.sel p).getLsbD l = true
  let y := u.slice x.id
  y.pc = (advance x).pc ∧ y.s = x.s ∧ y.v = x.v ∧ (x.sel p = 0 → y.land = x.land) ∧
  (∀ k, (∀ l, on l → k ∉ at' l) → Cells.get u.mem k = Cells.get s.mem k) ∧
  (x.sel p ≠ 0 → ∃ vs : List W32, y.land = x.land ++ [.v d (x.sel p) vs] ∧
    let left := fun l => f (vs.getD l 0).toNat (x.rv a l).toNat (x.rv d l).toNat % 2 ^ 32
    ∀ l, on l →
      ((∀ m, on m → m < l → at' m ≠ at' l) → (vs.getD l 0).toNat = leNat ((at' l).map fun k => Cells.get s.mem k)) ∧
      (∀ m, on m → m < l → at' m = at' l → (∀ j, on j → m < j → j < l → at' j ≠ at' l) → (vs.getD l 0).toNat = left m) ∧
      ((∀ m, on m → l < m → at' m ≠ at' l) → leNat ((at' l).map fun k => Cells.get u.mem k) = left l))

end Sys2Proof.Claims

/-- R178, R228: an access that fails in a group of one traps and performs nothing: its cause is the first check that fails, INFO
holds the address, and of the lanes of a vector index the record names one whose cause comes first, the lowest such. -/
def Sys2Proof.Claims.FailedAccessesTrap : Prop :=
  ∀ (o : Ord) (sc : Scope) (p : Pred) (t : Ty) (d : SReg) (e c : CReg) (v : VReg) (i : Idx) (off : BitVec 13) (op : AtmOp) (a : VReg)
    (s : State) (id : Nat), s.group = [id] →
    let x := s.slice id
    let n := t.width / 8
    let traps := fun (j : Instr) (code : Byte) (lane : Nat) (at' : Int) =>
      exec j s = .next { takeTrap s id (trapAt s x code 0 (BitVec.ofInt 64 at') lane) with group := [] }
    let fails := fun (spaces perms : List Nat) (m : Nat) (at' : Int) => capCheck s x (x.rc c) spaces perms at' m m
    let whole := fun (j : Instr) (spaces perms : List Nat) (m : Nat) (k : Int) => ∀ code, Clear j s →
      fails spaces perms m (addrS x (x.rc c) i k) = some code → traps j code 255 (addrS x (x.rc c) i k)
    let lanes := fun (j : Instr) (spaces perms : List Nat) (k : Int) =>
      let bad := fun (l : Nat) => fails spaces perms n (addrV x (x.rc c) i k l n)
      ∀ l < 32, ∀ code, Clear j s → (x.sel p).getLsbD l = true → bad l = some code →
        (∀ m < 32, (x.sel p).getLsbD m = true → ∀ other, bad m = some other →
          capRank code < capRank other ∨ code = other ∧ l ≤ m) →
        traps j code l (addrV x (x.rc c) i k l n)
    (memTy t → whole (.ld o sc t d c i off) [1, 2, 3] [pL] n off.toInt ∧ whole (.st o sc t d c i off) [1, 2, 3] [pS] n off.toInt) ∧
    whole (.ldc o sc e c i off) [1, 2, 3] [pL] 16 off.toInt ∧ whole (.stc o sc e c i off) [1, 2, 3] [pW] 16 off.toInt ∧
    (memTy32 t → lanes (.ldV p t v c i off) [1, 2, 3] [pL] off.toInt ∧ lanes (.stV p t v c i off) [1, 2, 3] [pS] off.toInt) ∧
    (memTy t → i.isVector = false → whole (.atm p op o sc t v c i a) [1, 2] (if lowS v = 0 then [pA] else [pA, pL]) n 0) ∧
    (memTy32 t → i.isVector = true → lanes (.atm p op o sc t v c i a) [1, 2] [pA, pL] 0)

/-- R178: the checks of one access in their order: tag, space and permissions, bounds, alignment; nothing fails exactly when all
hold; and what an access that fails does (R228). -/
def Obligations.CapabilityCheckOrder : Prop :=
  FailedAccessesTrap ∧ ∀ (s : State) (x : Slice) (c : Cap) (spaces perms : List Nat) (a : Int) (n align : Nat), 0 < align →
    let permitted := c.space ∈ spaces ∧ ∀ p ∈ perms, c.has p = true
    let inside := (c.base : Int) ≤ a ∧ a + n ≤ (c.base : Int) + c.len ∧ spaceOk s x.id x.block c.space a.toNat n = true
    (c.tag = false → capCheck s x c spaces perms a n align = some tCAPTAG) ∧
    (c.tag = true → ¬permitted → capCheck s x c spaces perms a n align = some tCAPPERM) ∧
    (c.tag = true → permitted → ¬inside → capCheck s x c spaces perms a n align = some tCAPBND) ∧
    (c.tag = true → permitted → inside → ¬(align : Int) ∣ a → capCheck s x c spaces perms a n align = some tALIGN) ∧
    (c.tag = true → permitted → inside → (align : Int) ∣ a → capCheck s x c spaces perms a n align = none)

/-- R190, R191, R50: a load whose checks pass reads its bytes at its issue, little-endian, extends them as its type says, and
adds one landing-buffer write; a load to `s0` or `c0` adds none. -/
def Sys2Proof.Claims.LoadsReadAndLand : Prop :=
  ∀ (o : Ord) (sc : Scope) (p : Pred) (t : Ty) (d : SReg) (e c : CReg) (v : VReg) (i : Idx) (off : BitVec 13) (s : State),
    (memTy t → Clear (.ld o sc t d c i off) s → Passes (memFail [1, 2, 3] [pL] (t.width / 8) (t.width / 8) c i off.toInt) s →
      ∃ u, exec (.ld o sc t d c i off) s = .next u ∧ GroupOnly s u ∧ Members s u fun x y =>
        (d = 0 → y = advance x) ∧ (d ≠ 0 → Lands (.s d (extended 64 t (number s x c i off.toInt (t.width / 8)))) x y)) ∧
    (Clear (.ldc o sc e c i off) s → Passes (memFail [1, 2, 3] [pL] 16 16 c i off.toInt) s →
      ∃ u, exec (.ldc o sc e c i off) s = .next u ∧ GroupOnly s u ∧ Members s u fun x y =>
        (e = 0 → y = advance x) ∧ (e ≠ 0 → ∃ w : Cap, Lands (.c e w) x y ∧ w.bits = BitVec.ofNat 128 (number s x c i off.toInt 16) ∧
          ((x.rc c).has pC = false → w.tag = false))) ∧
    (memTy32 t → Clear (.ldV p t v c i off) s → Passes (laneFail [1, 2, 3] [pL] (t.width / 8) p c i off.toInt) s →
      ∃ u, exec (.ldV p t v c i off) s = .next u ∧ GroupOnly s u ∧ Members s u fun x y =>
        (x.sel p = 0 → y = advance x) ∧ (x.sel p ≠ 0 → ∃ vs, Lands (.v v (x.sel p) vs) x y ∧ ∀ l < 32, vs.getD l 0 =
          extended 32 t (leNat ((keysAt s x (x.rc c) (addrV x (x.rc c) i off.toInt l (t.width / 8)) (t.width / 8)).map fun k =>
            Cells.get s.mem k))))

/-- R50: the oldest result on its way to a slice is written whole, and the younger ones stay on their way. -/
def Sys2Proof.Claims.ResultLandsWhole : Prop :=
  ∀ (s : State) (id : Nat) (l : Landing) (rest : List Landing), s.has id → (s.slice id).land = l :: rest →
    ∃ t, exec (.loadDataReturn id) s = .next t ∧ SliceOnly s t id ∧ (t.slice id).land = rest ∧ (t.slice id).pc = (s.slice id).pc ∧
      match l with
      | .s r x => (∀ q, (t.slice id).rs q = if q = r ∧ r ≠ 0 then x else (s.slice id).rs q) ∧ (t.slice id).v = (s.slice id).v
      | .c r x => (∀ q, (t.slice id).rc q = if q = r ∧ r ≠ 0 then x else (s.slice id).rc q) ∧ (t.slice id).s = (s.slice id).s
      | .v r m xs => (t.slice id).s = (s.slice id).s ∧ ∀ q, ∀ j < 32, (t.slice id).rv q j =
          if q = r ∧ m.getLsbD j = true then xs.getD j 0 else (s.slice id).rv q j

/-- R190: a store of one slice leaves its register's low bytes at its address, little-endian, and no tag there; a capability
store leaves its 16 bytes, tagged where it is tagged and may stand there. A per-lane store leaves those of each selected lane
at that lane's address, where no higher lane writes over them (R191). -/
def Sys2Proof.Claims.StoresWriteTheirBytes : Prop :=
  ∀ (o : Ord) (sc : Scope) (t : Ty) (d : SReg) (e c : CReg) (i : Idx) (off : BitVec 13),
    (memTy t → One (.st o sc t d c i off)
      (fun s x => memFail [1, 2, 3] [pS] (t.width / 8) (t.width / 8) c i off.toInt s x = none ∧ (touched s x c i off.toInt (t.width / 8)).Nodup)
      fun s x u => u.slice x.id = { advance x with hang := 0 } ∧
        number u x c i off.toInt (t.width / 8) = (x.rs d).toNat % 2 ^ t.width ∧
        (∀ k ∈ touched s x c i off.toInt (t.width / 8), u.tag k = 0) ∧
        ∀ k, k ∉ touched s x c i off.toInt (t.width / 8) → Cells.get u.mem k = Cells.get s.mem k) ∧
    (One (.stc o sc e c i off)
      (fun s x => memFail [1, 2, 3] [pW] 16 16 c i off.toInt s x = none ∧ (touched s x c i off.toInt 16).Nodup)
      fun s x u => u.slice x.id = { advance x with hang := 0 } ∧ number u x c i off.toInt 16 = (x.rc e).bits.toNat ∧
        (x.ctx < 64 → tagFor u (keyAt s x (x.rc c) (addrS x (x.rc c) i off.toInt)) x.ctx =
          ((x.rc e).tag && ((x.rc c).space == 2 || (x.rc c).space == 3 || (x.rc e).has pG))) ∧
        ∀ k, k ∉ touched s x c i off.toInt 16 → Cells.get u.mem k = Cells.get s.mem k) ∧
    ∀ (p : Pred) (v : VReg), memTy32 t → One (.stV p t v c i off)
      (fun s x => laneFail [1, 2, 3] [pS] (t.width / 8) p c i off.toInt s x = none)
      fun s x u =>
        let at' := fun l => laneKeys s x c i off.toInt l (t.width / 8)
        let on := fun l => l < 32 ∧ (x.sel p).getLsbD l = true
        u.slice x.id = (if x.sel p = 0 then advance x else { advance x with hang := 0 }) ∧
        (∀ l, on l → (at' l).Nodup → (∀ m, on m → l < m → ∀ k ∈ at' m, k ∉ at' l) →
          leNat ((at' l).map fun k => Cells.get u.mem k) = (x.rv v l).toNat % 2 ^ t.width ∧ ∀ k ∈ at' l, u.tag k = 0) ∧
        ∀ k, (∀ l, on l → k ∉ at' l) → Cells.get u.mem k = Cells.get s.mem k

/-- R190, R191: the frame of the stores, for groups of any size: no byte changes but those that some member stores to; every
register, mask and capability of every slice is as before, and so is every slice outside the group. -/
def Sys2Proof.Claims.StoreFrame : Prop :=
  ∀ (o : Ord) (sc : Scope) (p : Pred) (t : Ty) (d : SReg) (e c : CReg) (v : VReg) (i : Idx) (off : BitVec 13) (s : State),
    s.group.Nodup → (∀ id ∈ s.group, s.has id) →
    let kept := fun (u : State) => (∀ id, s.has id → id ∉ s.group → u.slice id = s.slice id) ∧ Members s u fun x y =>
      y.s = x.s ∧ y.v = x.v ∧ y.k = x.k ∧ y.c = x.c ∧ y.ct = x.ct ∧ y.fr = x.fr ∧ y.alive = x.alive ∧ y.run = x.run ∧ y.pc = (advance x).pc
    (Clear (.st o sc t d c i off) s → Passes (memFail [1, 2, 3] [pS] (t.width / 8) (t.width / 8) c i off.toInt) s →
      ∃ u, exec (.st o sc t d c i off) s = .next u ∧ kept u ∧
        ∀ k, (∀ id ∈ s.group, k ∉ touched s (s.slice id) c i off.toInt (t.width / 8)) → Cells.get u.mem k = Cells.get s.mem k) ∧
    (Clear (.stc o sc e c i off) s → Passes (memFail [1, 2, 3] [pW] 16 16 c i off.toInt) s →
      ∃ u, exec (.stc o sc e c i off) s = .next u ∧ kept u ∧
        ∀ k, (∀ id ∈ s.group, k ∉ touched s (s.slice id) c i off.toInt 16) → Cells.get u.mem k = Cells.get s.mem k) ∧
    (Clear (.stV p t v c i off) s → Passes (laneFail [1, 2, 3] [pS] (t.width / 8) p c i off.toInt) s →
      ∃ u, exec (.stV p t v c i off) s = .next u ∧ kept u ∧
        ∀ k, (∀ id ∈ s.group, ∀ l < 32, ((s.slice id).sel p).getLsbD l = true →
          k ∉ keysAt s (s.slice id) ((s.slice id).rc c) (addrV (s.slice id) ((s.slice id).rc c) i off.toInt l (t.width / 8)) (t.width / 8)) →
        Cells.get u.mem k = Cells.get s.mem k)

/-- R201-R203: an atomic of one slice with a scalar index reads its operand in memory, leaves what its operation makes of it, of A
and of the old D, and brings the old value back; with a vector index the selected lanes do so in ascending order, each on what the
lanes below it left; the bounded add leaves memory alone and sets bit 63 of its result where the
sum would pass its limit. -/
def Obligations.AtomicsReadModifyWrite : Prop :=
  ∀ (p : Pred) (op : AtmOp) (o : Ord) (sc : Scope) (t : Ty) (d a : VReg) (ds as : SReg) (c : CReg) (r : SReg), memTy t → 32 ≤ t.width →
    let n := t.width / 8
    let x8 : Idx := .scalar r
    let pre := fun (s : State) (x : Slice) => atmFail p t d c x8 s x = none ∧ (touched s x c x8 0 n).Nodup ∧ s.sessions = []
    let done := fun (f : Nat → Nat → Nat → Nat) (s : State) (x : Slice) (u : State) =>
      let m := number s x c x8 0 n
      number u x c x8 0 n = f m ((x.rs (lowS a)).toNat % 2 ^ t.width) ((x.rs (lowS d)).toNat % 2 ^ t.width) % 2 ^ t.width ∧
      (u.slice x.id).pc = (advance x).pc ∧ (u.slice x.id).s = x.s ∧
      (u.slice x.id).land = (if lowS d = 0 then x.land else x.land ++ [.s (lowS d) (extended 64 t m)]) ∧
      ∀ k, k ∉ touched s x c x8 0 n → Cells.get u.mem k = Cells.get s.mem k
    let rd := fun (v : Nat) => elemInt t.signed t.width v
    let atm := fun (m av dv : Nat) => match op with
      | .add => m + av
      | .and => m &&& av
      | .or => m ||| av
      | .xor => m ^^^ av
      | .min => if rd av < rd m then av else m
      | .max => if rd m < rd av then av else m
      | .xchg => av
      | .cas => if m = dv then av else m
    let binc := fun (m av _ : Nat) => if m < av then m + 1 else m
    let winc := fun (m av _ : Nat) => if m < av then m + 1 else 0
    let cdec := fun (m _ _ : Nat) => if 0 < rd m then m - 1 else m
    One (.atm p op o sc t d c x8 a) pre (done atm) ∧
    One (.atmBinc p o sc t d c x8 a) pre (done binc) ∧
    One (.atmWinc p o sc t d c x8 a) pre (done winc) ∧
    One (.atmCdec p o sc t d c x8) pre (done cdec) ∧
    (t.width = 32 → ∀ i : Idx, i.isVector = true →
      One (.atm p op o sc t d c i a) (LanesApart p t d c i) (LaneByLane p d a c i atm) ∧
      One (.atmBinc p o sc t d c i a) (LanesApart p t d c i) (LaneByLane p d a c i binc) ∧
      One (.atmWinc p o sc t d c i a) (LanesApart p t d c i) (LaneByLane p d a c i winc) ∧
      One (.atmCdec p o sc t d c i) (LanesApart p t d c i) (LaneByLane p d 0 c i cdec)) ∧
    One (.atmFaddl o sc ds c x8 as)
      (fun s x => memFail [1, 2] (if ds = 0 then [pA] else [pA, pL]) 16 16 c x8 0 s x = none ∧ (touched s x c x8 0 16).Nodup ∧ s.sessions = [])
      fun s x u =>
        let m := number s x c x8 0 8
        let lim := leNat ((keysAt s x (x.rc c) (addrS x (x.rc c) x8 0 + 8) 8).map fun k => Cells.get s.mem k)
        let ok := m + (x.rs as).toNat ≤ lim
        number u x c x8 0 8 = (if ok then m + (x.rs as).toNat else m) ∧
        (u.slice x.id).land = (if ds = 0 then x.land
          else x.land ++ [.s ds (BitVec.ofNat 64 (m % 2 ^ 63 + if ok then 0 else 2 ^ 63))]) ∧
        ∀ k, k ∉ touched s x c x8 0 8 → Cells.get u.mem k = Cells.get s.mem k

/-- R200, R36: a fence goes on when no far atomic and no ordered reduction of a member that it waits for is unfinished.
It rests on the model's own choices in log 19. -/
def Obligations.FenceEndsWithoutOpenCommands : Prop :=
  ∀ (o : Ord) (sc : Scope) (s : State), Clear (.fence o sc) s →
    (∀ id ∈ s.group, reissued (s.slice id) = true ∨ ∀ q ∈ s.cmds, q.slice = (s.slice id).id → q.stage = 3 ∨ (q.kind ≠ 6 ∧ q.kind ≠ 7)) →
    ∃ t, exec (.fence o sc) s = .next t ∧ GroupOnly s t ∧ Members s t fun x y => y = { advance x with run := .ready }

/-- R50, R190, R191: loads read memory and their results land. It rests on the model's own choices in log 2. -/
def Obligations.LoadsReadAndLandWhole : Prop :=
  LoadsReadAndLand ∧ ResultLandsWhole

/-- R190, R191: what stores write, and all that they leave as it was. -/
def Obligations.StoresWriteAndKeep : Prop :=
  StoresWriteTheirBytes ∧ StoreFrame
namespace Sys2Proof.Claims

/-- A slice alone, without a debug session whose counters would move, enters one command at the end of the list: neither begun
nor committed to a batch, for the slice's own block, context and program counter. No byte of memory changes. -/
def EntersCmd (i : Instr) (pre : State → Slice → Prop) (after : Slice → Slice) (want : State → Slice → Command → Prop) : Prop :=
  One i (fun s x => pre s x ∧ s.sessions = []) fun s x t => ∃ q : Command,
    t.cmds = s.cmds ++ [q] ∧ (q.slice = x.id ∧ q.block = x.block ∧ q.ctx = x.ck ∧ q.die = x.die ∧ q.pc = x.pc ∧ q.word = s.word ∧
      q.gen = (s.ctxOf x).gen ∧ q.stage = 0 ∧ q.status = 0 ∧ q.committed = false) ∧
    want s x q ∧ t.slice x.id = after x ∧ (∀ j, s.has j → j ≠ x.id → t.slice j = s.slice j) ∧ ∀ k, Cells.get t.mem k = Cells.get s.mem k
/-- Goes on with its hang counter at 0 (02 R46). -/
def goesOn (x : Slice) : Slice := { advance x with hang := 0 }
/-- The fields that the copies share. -/
def copyFields (f : CpyFields) (x : Slice) (kind : Nat) (q : Command) : Prop :=
  q.kind = kind ∧ q.queue = queueKey x f.q ∧ q.cmp = f.cmp.toNat ∧ q.scope = f.scope ∧ q.src = x.rc f.cs ∧ q.dst = x.rc f.cd ∧
    (1 ≤ f.cmp.toNat → f.cmp.toNat < 16 → q.task = x.rc (f.cmp.setWidth 4))
/-- A slice's own address: base and signed scalar index. -/
def at64 (x : Slice) (c : CReg) (r : SReg) (off : Int) : W64 := BitVec.ofInt 64 ((x.rc c).base + (x.rs r).toInt + off)

end Sys2Proof.Claims

/-- R193: a copy whose entry checks pass enters its queue as a command with what its registers held; the forms with an index per
lane record the selected lanes and their indices, and do nothing without any. -/
def Obligations.CopiesEnterTheirQueues : Prop :=
  ∀ (p : Pred) (f : CpyFields) (xs xd : SReg) (vs : VReg),
    EntersCmd (.cpy f xs xd) (fun s x => cpyFail f xs xd s x = none) goesOn (fun _ x q => copyFields f x 1 q ∧
      q.srcA = at64 x f.cs xs 0 ∧ q.dstA = at64 x f.cd xd 0 ∧ q.len = (x.rs f.len).toNat ∧ q.count = 1) ∧
    EntersCmd (.cpy2d f xs xd) (fun s x => cpy2dFail f xs xd s x = none) goesOn (fun _ x q => copyFields f x 2 q ∧
      q.srcA = at64 x f.cs xs 0 ∧ q.dstA = at64 x f.cd xd 0 ∧ q.len = (x.rs f.len).toNat ∧ q.count = (x.rs (f.len + 1)).toNat ∧
      q.ps = x.rs (f.len + 2) ∧ q.pd = x.rs (f.len + 3)) ∧
    EntersCmd (.cpyG p f vs xd) (fun s x => cpyVFail true p f vs xd s x = none ∧ x.sel p ≠ 0) goesOn (fun _ x q => copyFields f x 3 q ∧
      q.srcA = BitVec.ofNat 64 (x.rc f.cs).base ∧ q.dstA = at64 x f.cd xd 0 ∧ q.len = (x.rs f.len).toNat ∧ q.lanes = x.sel p ∧
      ∀ l < 32, (x.sel p).getLsbD l = true → q.idx.get l = x.rv vs l) ∧
    EntersCmd (.cpyS p f xs vs) (fun s x => cpyVFail false p f vs xs s x = none ∧ x.sel p ≠ 0) goesOn (fun _ x q => copyFields f x 4 q ∧
      q.srcA = at64 x f.cs xs 0 ∧ q.dstA = BitVec.ofNat 64 (x.rc f.cd).base ∧ q.len = (x.rs f.len).toNat ∧ q.lanes = x.sel p ∧
      ∀ l < 32, (x.sel p).getLsbD l = true → q.idx.get l = x.rv vs l) ∧
    One (.cpyG p f vs xd) (fun _ x => x.sel p = 0) (fun s x t => t.cmds = s.cmds ∧ t.slice x.id = advance x) ∧
    One (.cpyS p f xs vs) (fun _ x => x.sel p = 0) (fun s x t => t.cmds = s.cmds ∧ t.slice x.id = advance x)

/-- R199, R204, R205, R249, R286: the other commands: a queue fence remembers the unfinished commands of its context in the queues
of its set, a far atomic its operand and type, an ordered reduction its index and value; `kvc` also writes the number of
accepted rows; `spawn.rec` signals one record. It rests on the model's own choices in log 28. -/
def Obligations.OtherCommandsEnterTheirQueues : Prop :=
  ∀ (z : Bool) (o : Ord) (sc : Scope) (t : Ty) (qc : BitVec 6) (cmp : BitVec 5) (imm : BitVec 12) (d a i r set pos acc rb cnt : SReg)
    (c cst cca : CReg) (xi : Idx),
    EntersCmd (.qfence qc sc cmp set) (fun s x => cpyTrap s x (taskFail s x cmp) = none) advance (fun s x q =>
      q.kind = 5 ∧ q.queue = queueKey x qc ∧ q.cmp = cmp.toNat ∧ q.scope = sc ∧ ∀ n, n ∈ q.before ↔ ∃ y ∈ s.cmds, y.id = n ∧ y.ctx = x.ck ∧
        y.stage ≠ 3 ∧ ((y.queue = x.pk ∧ (x.rs set).getLsbD 32 = true) ∨
          ∃ j < 32, y.queue = 2 ^ 16 + x.die * 32 + j ∧ (x.rs set).getLsbD j = true)) ∧
    EntersCmd (.fat o sc t d c xi a) (fun s x => memFail [0, 5] (if d = 0 then [pA] else [pA, pL]) (tyBytes t) (tyBytes t) c xi 0 s x = none)
      goesOn (fun _ x q => q.kind = 6 ∧ q.queue = x.pk ∧ q.scope = sc ∧ q.dst = x.rc c ∧ q.dstA = toW64 (addrS x (x.rc c) xi 0) ∧
        q.len = tyBytes t ∧ q.value = x.rs a ∧ q.ty = t ∧ q.dreg = d) ∧
    EntersCmd (.redF o sc i c xi a) (fun s x => memFail [0, 6] [pA] 8 8 c xi 0 s x = none) goesOn (fun _ x q =>
      q.kind = 7 ∧ q.queue = x.pk ∧ q.scope = sc ∧ q.dst = x.rc c ∧ q.dstA = toW64 (addrS x (x.rc c) xi 0) ∧
        q.value.toNat = (x.rs a).toNat % 2 ^ 32 ∧ q.index.toNat = (x.rs i).toNat % 2 ^ 32) ∧
    EntersCmd (.kvc z cmp cnt cst cca pos acc rb) (fun s x => kvcFail z cmp cst cca pos acc rb s x = none)
      (fun x => (goesOn x).ws cnt (BitVec.ofNat 64 ((List.range 64).countP fun j => (x.rs acc).getLsbD j))) (fun _ x q =>
        q.kind = 8 ∧ q.queue = x.pk ∧ q.cmp = cmp.toNat ∧ q.src = x.rc cst ∧ q.dst = x.rc cca ∧ q.len = (x.rs rb).toNat ∧ q.pos = x.rs pos ∧
        q.accept = x.rs acc ∧ q.z = z ∧ q.count = (List.range 64).countP fun j => (x.rs acc).getLsbD j) ∧
    EntersCmd (.spawnRec r c imm) (fun s x => capCheck s x (x.rc c) [0, 1, 2] [pA] (addrS x (x.rc c) (.scalar r) imm.toNat) 16 16 = none)
      goesOn (fun _ x q => q.kind = 9 ∧ q.queue = x.pk ∧ q.dst = x.rc c ∧ q.dstA = at64 x c r imm.toNat)

namespace Sys2Proof.Claims

/-- No slice is parked and no command has parked, so that the end of a command wakes nobody. -/
def Unparked (s : State) : Prop :=
  (∀ y ∈ s.slices, ∀ w, y.run ≠ .parked w) ∧ ∀ q ∈ s.cmds, q.parked = false
/-- Byte keys `n` from `k` on and from `l` on have none in common. -/
def apart (k l n : Nat) : Prop := k + n ≤ l ∨ l + n ≤ k

end Sys2Proof.Claims

/-- R194-R197: a commit numbers the pending commands of its slice as one batch, a wait goes on when the batches it names have no
unfinished command and else holds. -/
def Sys2Proof.Claims.BatchesCommitAndWait : Prop :=
  (∀ d : SReg, One (.cpyCommit d) (fun s x => openBatches s x < 32767) (fun s x t =>
    t.slice x.id = { advance ({ x with batch := x.batch + 1 }.ws d ((x.batch + 1).setWidth 64)) with run := .ready } ∧
    t.cmds = s.cmds.map fun q => if q.slice = x.id ∧ q.committed = false then { q with committed := true, batch := x.batch + 1 } else q)) ∧
  (∀ n : SReg, One (.cpyWait n)
    (fun s x => x.run = .ready ∧ ∀ q ∈ s.cmds, q.slice = x.id → q.stage ≠ 3 → q.committed = true →
      2 ^ 15 ≤ ((x.rs n).setWidth 16 - q.batch).toNat) (fun s x t => t.slice x.id = { goesOn x with run := .ready } ∧ t.cmds = s.cmds)) ∧
  (∀ n : SReg, One (.cpyWait n)
    (fun s x => x.run = .ready ∧ Unparked s ∧ ∃ q ∈ s.cmds, q.slice = x.id ∧ q.stage ≠ 3 ∧ q.committed = true ∧
      ((x.rs n).setWidth 16 - q.batch).toNat < 2 ^ 15)
    (fun s x t => t.slice x.id = { x with run := .waiting (.copy ((x.rs n).setWidth 16)) } ∧ t.cmds = s.cmds))

/-- R193, R194: the same for the rows of a `cpy.2d`, and for the lanes of a gather or a scatter, of which the one of the command's
place in the order of its selected lanes is in progress: a row of the source is as far from the next as its pitch says, a lane's
address is its index, and the other side is dense. -/
def Sys2Proof.Claims.CopiesPieces : Prop :=
  ∀ (s : State) (q : Nat) (c : Command) (l a d ka kd : Nat), queueNext s q = some c → s.cmd c.id = some c → s.sessions = [] →
    c.cmp < 16 → c.off < c.len → c.stuck = none → c.dying = false → c.piece < c.pieces →
    (c.kind = 2 ∧ c.pieces = c.count ∧ a = (c.srcA.toInt + c.piece * c.ps.toInt).toNat + c.off ∧ d = (c.dstA.toInt + c.piece * c.pd.toInt).toNat + c.off ∨
     l < 32 ∧ c.lanes.getLsbD l = true ∧ (List.range l).countP (fun j => c.lanes.getLsbD j) = c.piece ∧
       (c.kind = 3 ∧ a = c.srcA.toNat + (c.idx.get l).toNat + c.off ∧ d = c.dstA.toNat + l * c.len + c.off ∨
        c.kind = 4 ∧ a = c.srcA.toNat + l * c.len + c.off ∧ d = c.dstA.toNat + (c.idx.get l).toNat + c.off)) →
    let n := min (c.len - c.off) (512 - d % 512)
    c.off + n < c.len ∨ c.piece + 1 = c.pieces →
    c.src.space ∈ [1, 2, 3] → c.dst.space ∈ [1, 2, 3] →
    spaceKey s c.slice c.block c.src.space a = some ka → spaceKey s c.slice c.block c.dst.space d = some kd →
    n ≤ bankLeft s c.block c.src.space a → n ≤ bankLeft s c.block c.dst.space d →
    apart ka kd n → (∀ w ∈ c.was, w.key < ka ∨ ka + n ≤ w.key) →
    ∃ t, exec (.queuePerformCommand q) s = .next t ∧
      (∃ e, t.cmd c.id = some e ∧ if c.off + n = c.len then e.stage = 1 else e.stage = 5 ∧ e.piece = c.piece ∧ e.off = c.off + n) ∧
      (∀ j < n, Cells.get t.mem (kd + j) = Cells.get s.mem (ka + j)) ∧
      ∀ k, ¬(kd ≤ k ∧ k < kd + n) → Cells.get t.mem k = Cells.get s.mem k

/-- R194, R211: a queue performs a copy within the memories of the die to the next 512-byte boundary of its destination, or to its
end: every byte of that stretch then holds what the source held, and no other byte has changed. A copy that is not over stays
in progress behind its last byte. -/
def Sys2Proof.Claims.QueueCopies : Prop :=
  CopiesPieces ∧
  ∀ (s : State) (q : Nat) (c : Command) (ka kd : Nat), queueNext s q = some c → s.cmd c.id = some c → s.sessions = [] →
    c.kind = 1 → c.cmp < 16 → c.piece = 0 → c.off < c.len → c.stuck = none → c.dying = false →
    let n := min (c.len - c.off) (512 - (c.dstA.toNat + c.off) % 512)
    c.src.space ∈ [1, 2, 3] → c.dst.space ∈ [1, 2, 3] →
    spaceKey s c.slice c.block c.src.space (c.srcA.toNat + c.off) = some ka →
    spaceKey s c.slice c.block c.dst.space (c.dstA.toNat + c.off) = some kd →
    n ≤ bankLeft s c.block c.src.space (c.srcA.toNat + c.off) → n ≤ bankLeft s c.block c.dst.space (c.dstA.toNat + c.off) →
    apart ka kd n → (∀ w ∈ c.was, w.key < ka ∨ ka + n ≤ w.key) →
    ∃ t, exec (.queuePerformCommand q) s = .next t ∧
      (∃ d, t.cmd c.id = some d ∧ if c.off + n = c.len then d.stage = 1 else d.stage = 5 ∧ d.piece = 0 ∧ d.off = c.off + n) ∧
      (∀ j < n, Cells.get t.mem (kd + j) = Cells.get s.mem (ka + j)) ∧
      ∀ k, ¬(kd ≤ k ∧ k < kd + n) → Cells.get t.mem k = Cells.get s.mem k

/-- R195, R205, R170: a performed command without a task record leaves the list when it completes; a contribution tried again at
its cell in turn is added there and the cell expects the next index; a fault record that waited goes to the tail of its
queue, and the page-service node is told where the queue was empty (R188). -/
def Sys2Proof.Claims.CommandsEnd : Prop :=
  (∀ (s : State) (id : Nat) (c : Command), s.cmd id = some c → c.stage = 1 → (c.cmp = 0 ∨ 16 ≤ c.cmp) → c.sample = [] → c.kind ≠ 7 →
    ∃ t, exec (.commandComplete id) s = .next t ∧ t.cmds = s.cmds.filter fun d => d.id != id) ∧
  (∀ (s : State) (id : Nat) (c : Command) (w : Where) (u : State), s.cmd id = some c → c.kind = 7 → c.status = 3 → c.stage = 0 → c.due ≤ s.clk c.die →
    c.dying = false → s.poison = [] → u.poisoned w.key 8 = false →
    c.dst.space ≠ 6 → locate s c.owner 0 c.dstA.toNat false true = (.ok w, u) → u.red = [] →
    leNat (u.rd w.key 8) / 2 ^ 32 = c.index.toNat →
    ∃ t, exec (.redFRetry id) s = .next t ∧ (∃ d, t.cmd id = some d ∧ d.stage = 1) ∧
      leNat (t.rd w.key 8) = (redAdd (BitVec.ofNat 32 (leNat (u.rd w.key 8) % 2 ^ 32)) (c.value.setWidth 32)).toNat +
        2 ^ 32 * ((c.index.toNat + 1) % 2 ^ 32)) ∧
  (∀ (s : State) (k : Nat) (r : List Byte) (rest : List (List Byte)), (s.ctx k).pendingRec = r :: rest → r.length = 64 → fqRoom (s.ctx k) = true →
    (s.vdev (s.ctx k).vdev).resident = true → (s.die (s.ctx k).die).failover = false → s.cuts = [] → s.resend = [] →
    ∃ t, exec (.faultRecordPendingWrite k) s = .next t ∧ (t.ctx k).pendingRec = rest ∧ (t.ctx k).fqt = ((s.ctx k).fqt + 1) % 2 ^ 16 ∧
      t.rd ((s.ctx k).fqb + 64 * ((s.ctx k).fqt % 2 ^ (s.ctx k).fqk)) 64 = r ∧
      ((s.ctx k).fqt ≠ (s.ctx k).fqh → t.outbox = s.outbox) ∧
      ((s.ctx k).fqt = (s.ctx k).fqh → ∃ m, t.outbox = s.outbox ++ [m] ∧ m.type = mFAULTNOTE ∧ m.dst = (s.ctx k).pgnode ∧ m.gen = (s.ctx k).gen ∧
        m.payload = [BitVec.ofNat 8 (s.ctx k).die, 0] ++ leBytes 2 (((s.ctx k).fqt + 1) % 2 ^ 16) ++ (r.drop 0x20).take 4))

/-- R170, R188, R193-R197, R205: batches and waits, the performance of copies, and the ends of commands.
It rests on the model's own choices in logs 5, 25, 33, 36. -/
def Obligations.CommandsRunAndEnd : Prop := BatchesCommitAndWait ∧ QueueCopies ∧ CommandsEnd

namespace Sys2Proof.Claims

/-- What a barrier's phase is once an arrival makes it whole. -/
def fullPhase (b : Bar) : Prop := b.arrivals + 1 = b.expected
/-- A numbered barrier that the slice finds, that is the one of its identity, and that no pod joins. -/
def Finds (s : State) (x : Slice) (sc : Scope) (n : BitVec 24) (b : Bar) : Prop :=
  findBar s x sc n.toNat = some b ∧ s.bar b.id = b ∧ (s.bars.any fun y => y.id == b.id) = true ∧ sc ≠ .pod
/-- A byte barrier of the slice's block. -/
def HasBb (s : State) (x : Slice) (n : BitVec 4) : Prop := (s.bbs.any fun b => State.bbKey b == bbOf x n) = true

end Sys2Proof.Claims

/-- R206-R208: an arrival is counted once per phase, the last expected one ends the phase, a second one in a phase holds; one whose
slice has releases in its queues is made, and counts once they have been performed; a wait goes on once the phase of its arrival has
ended; a level that the launch does not use traps ILLCFG. -/
def Sys2Proof.Claims.NumberedBarriers : Prop :=
  ∀ (sc : Scope) (n : BitVec 24) (b : Bar),
    One (.barArr sc n) (fun s x => Finds s x sc n b ∧ x.id ∉ b.who ∧ openReleases s x.id = [] ∧ b.arrivals + 1 < b.expected) (fun _ x t =>
      t.bar b.id = { b with arrivals := b.arrivals + 1, who := b.who ++ [x.id] } ∧ (t.slice x.id).pc = (advance x).pc ∧
      (t.slice x.id).run = .ready ∧ (b.id, b.phase) ∈ (t.slice x.id).arrived ∧ (t.slice x.id).s = x.s) ∧
    One (.barArr sc n) (fun s x => Finds s x sc n b ∧ x.id ∉ b.who ∧ openReleases s x.id ≠ []) (fun s x t =>
      t.bar b.id = { b with who := b.who ++ [x.id], late := b.late ++ [(x.id, openReleases s x.id)] } ∧
      (t.slice x.id).pc = (advance x).pc ∧ (t.slice x.id).run = .ready ∧ (b.id, b.phase) ∈ (t.slice x.id).arrived) ∧
    One (.barArr sc n) (fun s x => Finds s x sc n b ∧ x.id ∉ b.who ∧ openReleases s x.id = [] ∧ fullPhase b) (fun s x t =>
      t.bar b.id = { b with arrivals := 0, phase := b.phase + 1, who := [] } ∧ (t.slice x.id).pc = (advance x).pc ∧
      ∀ y ∈ barBlocks s b, y.id ∈ s.blocks.map Block.id → (t.block y.id).bph = (s.block y.id).bph + 1) ∧
    One (.barArr sc n) (fun s x => Finds s x sc n b ∧ x.id ∈ b.who) (fun _ x t =>
      t.bar b.id = b ∧ t.slice x.id = { x with run := .waiting (.barAgain b.id b.phase) }) ∧
    One (.barWait sc n) (fun s x => Finds s x sc n b ∧ ∀ q, x.arrived.find? (fun p => p.1 == b.id) = some q → q.2 ≠ b.phase) (fun _ x t =>
      t.slice x.id = { goesOn x with run := .ready } ∧ t.bar b.id = b) ∧
    (∀ q : Nat × Nat, One (.barWait sc n)
      (fun s x => Finds s x sc n b ∧ x.arrived.find? (fun p => p.1 == b.id) = some q ∧ q.2 = b.phase) (fun _ x t =>
      t.slice x.id = { x with run := .waiting (.bar b.id q.2) } ∧ t.bar b.id = b)) ∧
    (∀ s id, Alone s id → Clear (.barArr sc n) s → findBar s (s.slice id) sc n.toNat = none →
      exec (.barArr sc n) s = .next { takeTrap s id (trapAt s (s.slice id) tILLCFG 3 0) with group := [] }) ∧
    ∀ (s : State) (i : Nat) (l : List Nat), s.bars = [b] → (∀ y ∈ s.bbs, y.late = []) → b.late = [(i, l)] → b.level ≠ .pod →
      (releasesOver s l = false → (lateArrivals s).bars = [b]) ∧
      (releasesOver s l = true → b.arrivals + 1 < b.expected → (lateArrivals s).bars = [{ b with late := [], arrivals := b.arrivals + 1 }])

/-- R207, R208: an arrival on a pod barrier is counted by its home, to which another node sends it; no phase ends before the
grids of the join have registered, and the home tells the other members of its end. -/
def Sys2Proof.Claims.PodBarriers : Prop :=
  ∀ (n : BitVec 24) (b : Bar) (j : PodJoin),
    let finds := fun (s : State) (x : Slice) => findBar s x .pod n.toNat = some b ∧ s.bar b.id = b ∧ (s.bars.any fun y => y.id == b.id) = true ∧
      b.level = .pod ∧ j ∈ s.joins ∧ j.key = b.owner ∧ (∀ i ∈ s.joins, i.key = b.owner → i = j) ∧ s.cuts = [] ∧ s.resend = [] ∧
      openReleases s x.id = [] ∧ x.id ∉ b.who
    let goes := fun (x : Slice) (t : State) => (t.slice x.id).pc = (advance x).pc ∧ (t.slice x.id).run = .ready ∧
      (b.id, b.phase) ∈ (t.slice x.id).arrived
    One (.barArr .pod n) (fun s x => finds s x ∧ j.home ≠ s.node) (fun s x t => goes x t ∧
      t.bar b.id = { b with who := b.who ++ [x.id] } ∧
      ∃ m, t.outbox = s.outbox ++ [m] ∧ m.type = mBARRIER ∧ m.src = s.node ∧ m.dst = j.home ∧ m.grp = j.grp ∧ m.gen = (s.ctxOf x).gen) ∧
    One (.barArr .pod n) (fun s x => finds s x ∧ j.home = s.node ∧ (b.arrivals + 1 < b.expected ∨ j.registered.length < j.m)) (fun s x t =>
      goes x t ∧ t.bar b.id = { b with arrivals := b.arrivals + 1, who := b.who ++ [x.id] } ∧ t.outbox = s.outbox) ∧
    One (.barArr .pod n) (fun s x => finds s x ∧ j.home = s.node ∧ fullPhase b ∧ j.m ≤ j.registered.length) (fun s x t =>
      goes x t ∧ t.bar b.id = { b with arrivals := 0, phase := b.phase + 1, who := [] } ∧
      (∀ y ∈ barBlocks s b, (t.block y.id).bph = (s.block y.id).bph + 1) ∧
      ∃ ms, t.outbox = s.outbox ++ ms ∧ ms.map Msg.dst = j.members.filter (· != s.node) ∧ ∀ m ∈ ms, m.type = mBARRIER ∧ m.grp = j.grp)

/-- R209, R210: byte barriers: the expected bytes are added, an arrival reads the phase as it was and declares its slice a party,
`.decl` only declares, `.leave` arrives and is no party of later phases; the phase flips when no byte is missing, every party
has arrived and no arrival awaits its slice's releases; a wait goes on once the phase differs from the one it names. -/
def Sys2Proof.Claims.ByteBarriers : Prop :=
  ∀ (d a : SReg) (n : BitVec 4),
    let old := fun (s : State) (x : Slice) => (b2w (s.bb (bbOf x n)).phase : W64)
    One (.bbExp n a) (fun s x => HasBb s x n ∧ (s.bb (bbOf x n)).count + (x.rs a).setWidth 36 ≠ 0) (fun s x t =>
      t.bb (bbOf x n) = { s.bb (bbOf x n) with count := (s.bb (bbOf x n)).count + (x.rs a).setWidth 36 } ∧ t.slice x.id = advance x) ∧
    One (.bbExp n a) (fun s x => HasBb s x n ∧ (s.bb (bbOf x n)).count + (x.rs a).setWidth 36 = 0) (fun s x t =>
      let q := s.bb (bbOf x n)
      (t.bb (bbOf x n)).count = 0 ∧ (t.slice x.id).pc = (advance x).pc ∧
      (q.late = [] ∧ (∀ p ∈ q.parties, p ∈ q.arrived) → (t.bb (bbOf x n)).phase = !q.phase ∧ (t.bb (bbOf x n)).arrived = []) ∧
      (¬(q.late = [] ∧ ∀ p ∈ q.parties, p ∈ q.arrived) → (t.bb (bbOf x n)).phase = q.phase ∧ (t.bb (bbOf x n)).arrived = q.arrived)) ∧
    One (.bbArr d n) (fun s x => HasBb s x n ∧ x.id ∉ (s.bb (bbOf x n)).arrived ∧
        ((s.bb (bbOf x n)).count ≠ 0 ∨ (s.bb (bbOf x n)).late ++ lateOf s x.id ≠ [])) (fun s x t =>
      (t.bb (bbOf x n)).late = (s.bb (bbOf x n)).late ++ lateOf s x.id ∧
      t.slice x.id = { (goesOn x).ws d (old s x) with run := .ready } ∧ x.id ∈ (t.bb (bbOf x n)).parties ∧
      (t.bb (bbOf x n)).arrived = (s.bb (bbOf x n)).arrived ++ [x.id] ∧ (t.bb (bbOf x n)).phase = (s.bb (bbOf x n)).phase) ∧
    One (.bbArr d n) (fun s x => HasBb s x n ∧ x.id ∉ (s.bb (bbOf x n)).arrived ∧ (s.bb (bbOf x n)).count = 0 ∧
        (s.bb (bbOf x n)).late ++ lateOf s x.id = [] ∧ ∀ p ∈ (s.bb (bbOf x n)).parties, p = x.id ∨ p ∈ (s.bb (bbOf x n)).arrived) (fun s x t =>
      (t.bb (bbOf x n)).phase = !(s.bb (bbOf x n)).phase ∧ (t.bb (bbOf x n)).arrived = [] ∧ (t.slice x.id).rs d = (if d = 0 then 0 else old s x)) ∧
    One (.bbArr d n) (fun s x => HasBb s x n ∧ x.id ∈ (s.bb (bbOf x n)).arrived) (fun s x t =>
      t.slice x.id = { x with run := .waiting (.bbAgain (bbOf x n) (s.bb (bbOf x n)).phase) } ∧ t.bb (bbOf x n) = s.bb (bbOf x n)) ∧
    One (.bbArrDecl d n) (fun s x => HasBb s x n) (fun s x t =>
      t.slice x.id = (advance x).ws d (old s x) ∧ x.id ∈ (t.bb (bbOf x n)).parties ∧
      (t.bb (bbOf x n)).arrived = (s.bb (bbOf x n)).arrived ∧ (t.bb (bbOf x n)).phase = (s.bb (bbOf x n)).phase) ∧
    One (.bbArrLeave d n) (fun s x => HasBb s x n ∧ x.id ∈ (s.bb (bbOf x n)).parties ∧ x.id ∉ (s.bb (bbOf x n)).arrived ∧
        ((s.bb (bbOf x n)).count ≠ 0 ∨ (s.bb (bbOf x n)).late ++ lateOf s x.id ≠ [])) (fun s x t =>
      t.slice x.id = { (goesOn x).ws d (old s x) with run := .ready } ∧ t.bb (bbOf x n) = { s.bb (bbOf x n) with
        arrived := (s.bb (bbOf x n)).arrived ++ [x.id], leaving := (s.bb (bbOf x n)).leaving ++ [x.id]
        late := (s.bb (bbOf x n)).late ++ lateOf s x.id }) ∧
    One (.bbArrLeave d n) (fun s x => HasBb s x n ∧ x.id ∈ (s.bb (bbOf x n)).parties ∧ x.id ∉ (s.bb (bbOf x n)).arrived ∧
        (s.bb (bbOf x n)).count = 0 ∧ (s.bb (bbOf x n)).late ++ lateOf s x.id = [] ∧
        ∀ p ∈ (s.bb (bbOf x n)).parties, p = x.id ∨ p ∈ (s.bb (bbOf x n)).arrived) (fun s x t =>
      (t.slice x.id).rs d = (if d = 0 then 0 else old s x) ∧ (t.bb (bbOf x n)).phase = !(s.bb (bbOf x n)).phase ∧
      (t.bb (bbOf x n)).arrived = [] ∧ ∀ p, p ∈ (t.bb (bbOf x n)).parties ↔
        p ∈ (s.bb (bbOf x n)).parties ∧ p ∉ (s.bb (bbOf x n)).leaving ∧ p ≠ x.id) ∧
    One (.bbArrLeave d n) (fun s x => HasBb s x n ∧ x.id ∈ (s.bb (bbOf x n)).arrived) (fun s x t =>
      t.slice x.id = { x with run := .waiting (.bbAgain (bbOf x n) (s.bb (bbOf x n)).phase) } ∧ t.bb (bbOf x n) = s.bb (bbOf x n)) ∧
    One (.bbArrLeave d n) (fun s x => HasBb s x n ∧ x.id ∉ (s.bb (bbOf x n)).parties ∧ x.id ∉ (s.bb (bbOf x n)).arrived) (fun s x t =>
      t.slice x.id = (advance x).ws d (old s x) ∧ t.bb (bbOf x n) = s.bb (bbOf x n)) ∧
    One (.bbWait n a) (fun s x => x.run = .ready ∧ (s.bb (bbOf x n)).phase ≠ (x.rs a).getLsbD 0) (fun _ x t =>
      t.slice x.id = { goesOn x with run := .ready }) ∧
    One (.bbWait n a) (fun s x => x.run = .ready ∧ (s.bb (bbOf x n)).phase = (x.rs a).getLsbD 0) (fun _ x t =>
      t.slice x.id = { x with run := .waiting (.bb (bbOf x n) ((x.rs a).getLsbD 0)) }) ∧
    ∀ (s : State) (b : ByteBar) (i : Nat) (l : List Nat), s.bbs = [b] → (∀ y ∈ s.bars, y.late = []) → b.late = [(i, l)] → b.count = 0 →
      (∀ p ∈ b.parties, p ∈ b.arrived) →
      (releasesOver s l = false → (lateArrivals s).bbs = [b]) ∧
      (releasesOver s l = true → ∃ c, (lateArrivals s).bbs = [c] ∧ c.phase = (!b.phase) ∧ c.arrived = [] ∧ c.late = [])

/-- R206-R210: the numbered and the byte barriers. It rests on the model's own choices in logs 12, 89, 132. -/
def Obligations.BarriersCountArrivals : Prop := NumberedBarriers ∧ PodBarriers ∧ ByteBarriers

namespace Sys2Proof.Claims

/-- A group that may issue a matrix instruction: no trap before it, every member converged and of a block with tiles (15 R254, R266),
and what the instruction itself asks of it. -/
def MxReady (i : Instr) (n : Nat) (ok : State → Slice → Prop) (s : State) : Prop :=
  Clear i s ∧ ∀ id ∈ s.group, convFail s (s.slice id) n = none ∧ hTiles (headerOf s (s.slice id)) ≠ 0 ∧ ok s (s.slice id)
/-- The unit whose queue takes the instructions of a slice. -/
def home (s : State) (x : Slice) : Nat := homeUnit s x.uk
/-- What issuing leaves of the state: only the queue of one unit and the members have changed. -/
def MxKeeps (s t : State) (h : Nat) : Prop :=
  (∀ u, u ≠ h → t.punit u = s.punit u) ∧ (t.punit h).tiles = (s.punit h).tiles ∧ (t.punit h).active = (s.punit h).active ∧
    (∀ k, Cells.get t.mem k = Cells.get s.mem k) ∧ (∀ j, s.has j → j ∉ s.group → t.slice j = s.slice j) ∧
    Members s t fun x y => y.pc = (advance x).pc ∧ y.run = .ready ∧ y.s = x.s ∧ y.v = x.v ∧ y.k = x.k ∧ y.c = x.c ∧ y.fr = x.fr
/-- Once ready, the instruction enters its queue once, with the operands of slice 0, and while the queue is full the group holds. -/
def QueuesOnce (i : Instr) (ok : State → Slice → Prop) (want : State → Slice → MxOp → Prop) : Prop :=
  ∀ s id rest, s.group = id :: rest → MxReady i 3 ok s →
    let h := home s (s.slice id)
    let y := slice0 s (s.slice id)
    (mqLen (s.punit h) < 16 → ∃ t m, exec i s = .next t ∧ (t.punit h).mq = (s.punit h).mq ++ [m] ∧ MxKeeps s t h ∧
      m.i = i ∧ m.slice = y.id ∧ m.block = y.block ∧ m.pc = y.pc ∧ m.fr = y.fr ∧ m.part = false ∧ want s y m) ∧
    (16 ≤ mqLen (s.punit h) → ∃ t, exec i s = .next t ∧ (∀ u, t.punit u = s.punit u) ∧
      Members s t fun x y => y = { x with run := .waiting (.mroom h) })
/-- As `QueuesOnce`, with one part for each member, from its own registers. -/
def QueuesEach (i : Instr) (ok : State → Slice → Prop) (want : State → Slice → MxOp → Prop) : Prop :=
  ∀ s id rest, s.group = id :: rest → MxReady i 3 ok s → mqLen (s.punit (home s (s.slice id))) < 16 →
    let h := home s (s.slice id)
    ∃ t ms, exec i s = .next t ∧ (t.punit h).mq = (s.punit h).mq ++ ms ∧ MxKeeps s t h ∧ ms.length = s.group.length ∧
      ∀ j < ms.length, ∃ m, ms[j]? = some m ∧ m.i = i ∧ m.slice = (s.slice (s.group.getD j 0)).id ∧ m.part = decide (j ≠ 0) ∧
        want s (s.slice (s.group.getD j 0)) m
/-- A tile of the block. -/
def tileOf (s : State) (x : Slice) (t : Nat) : Prop := t < hTiles (headerOf s x)
/-- A tile that is free or of a kind: `true` for integers. -/
def kindOk (s : State) (x : Slice) (t : Nat) (int : Bool) : Prop :=
  (viewOf s x).live.getLsbD t = true → (viewOf s x).kind.getLsbD t = int
/-- The address and the capability of an image. -/
def image (y : Slice) (c : CReg) (r : SReg) (m : MxOp) : Prop :=
  m.cap = y.rc c ∧ m.addr = BitVec.ofInt 64 ((y.rc c).base + (y.rs r).toInt)

end Sys2Proof.Claims

/-- R255, R256, R259-R265, R246, R247: a matrix instruction whose conditions hold enters the queue of its home with what it reads at
issue, and its group goes on; while 16 instructions are queued the group holds.
It rests on the model's own choices in logs 34, 125. -/
def Obligations.MatrixInstructionsQueue : Prop :=
  ∀ (z : Bool) (t : TileReg) (ty : Ty) (c : CReg) (xr n row col : SReg) (a : VReg),
    QueuesOnce (.mlw c xr n)
      (fun s x => 1 ≤ ((slice0 s x).rs n).toNat ∧ ((slice0 s x).rs n).toNat ≤ shapeN (shapeOf s x) ∧ 1 ≤ frBF x.fr ∧ frBF x.fr ≤ 6)
      (fun s y m => image y c xr m ∧ m.n = (y.rs n).toNat ∧ m.fmt = frBF y.fr ∧ m.perm = tableNow s y) ∧
    QueuesOnce .mswap (fun _ _ => True) (fun _ _ _ => True) ∧
    QueuesOnce (.mst z t c xr n)
      (fun s x => 1 ≤ ((slice0 s x).rs n).toNat ∧ ((slice0 s x).rs n).toNat ≤ 64 ∧ tileOf s x t.toNat ∧
        comboOk (frAF x.fr) (viewOf s x).act (frACC x.fr) = true ∧ (z = false → kindOk s x t.toNat (accInt (frACC x.fr))))
      (fun s y m => image y c xr m ∧ m.n = (y.rs n).toNat ∧ m.fmt = frAF y.fr ∧ m.perm = tableNow s y) ∧
    QueuesOnce (.mzero t) (fun s x => tileOf s x t.toNat) (fun _ _ _ => True) ∧
    QueuesOnce (.mout c xr t n)
      (fun s x => 1 ≤ ((slice0 s x).rs n).toNat ∧ ((slice0 s x).rs n).toNat ≤ 64 ∧ tileOf s x t.toNat ∧ accOk (frACC x.fr) = true ∧
        kindOk s x t.toNat (accInt (frACC x.fr)))
      (fun _ y m => image y c xr m ∧ m.n = (y.rs n).toNat ∧ m.fmt = frACC y.fr) ∧
    QueuesOnce (.mmaskTree t a row col)
      (fun s x => tileOf s x t.toNat ∧ kindOk s x t.toNat false ∧ ∀ j < 64,
        (parents (slice0 s x) a).getD j 255 < j ∨ (parents (slice0 s x) a).getD j 255 = 255)
      (fun _ y m => m.n = (y.rs row).toNat ∧ m.m = (y.rs col).toNat ∧ m.vecs = [y.rvAll a]) ∧
    QueuesEach (.mrd ty a t row col)
      (fun s x => segBad s row col = false ∧ tileOf s x t.toNat ∧ kindOk s x t.toNat (ty == .i32))
      (fun _ x m => m.n = (x.rs row).toNat ∧ m.m = (x.rs col).toNat) ∧
    QueuesEach (.mwr ty t a row col)
      (fun s x => segBad s row col = false ∧ tileOf s x t.toNat ∧ kindOk s x t.toNat (ty == .i32))
      (fun _ x m => m.n = (x.rs row).toNat ∧ m.m = (x.rs col).toNat ∧ m.vecs = [x.rvAll a, x.rvAll (a + 1)])

/-- R257, R258, R248, R255: the permutation table is replaced in every paddock of the shape; a change of shape enters the queue of
its home, and its group goes on; it holds the place of a change of shape in the queues of every paddock that it concerns, whose
shape is the new one for what is issued after it; the baton stays with the gang; taking, giving and testing the baton.
It rests on the model's own choices in logs 35, 119. -/
def Obligations.ShapesTablesAndBatons : Prop :=
  ∀ (s : State) (id : Nat) (rest : List Nat), s.group = id :: rest →
    let x := s.slice id
    let h := home s x
    let on := fun (t : State) (run' : Slice → Slice) => (∀ k, Cells.get t.mem k = Cells.get s.mem k) ∧ Members s t fun x y => y = run' x
    (∀ (t : BitVec 3) (c : CReg) (xr : SReg), Clear (.mperm t c xr) s → Passes (mpermTrap c xr) s → ∃ u, exec (.mperm t c xr) s = .next u ∧
      on u advance ∧ ∀ v ∈ shapeUnits s (shapeOf s x) x.uk, ∀ p < 64, permEntry (u.punit v) t.toNat p =
        ((rdBytes s (slice0 s x) ((slice0 s x).rc c) (addrS (slice0 s x) ((slice0 s x).rc c) (.scalar xr) 0) 64).getD p 0).toNat) ∧
    (∀ (d : Bool) (sh : Shape), Clear (.mcfg d sh) s → Passes (mxTrap 3 (mcfgSubs d sh)) s →
      (16 ≤ mqLen (s.punit h) → ∃ u, exec (.mcfg d sh) s = .next u ∧ on u (fun x => { x with run := .waiting (.mroom h) }) ∧
        ∀ v, u.punit v = s.punit v) ∧
      (mqLen (s.punit h) < 16 → sh = shapeOf s x → ∃ (u : State) (m : MxOp), exec (.mcfg d sh) s = .next u ∧
        on u (fun x => { advance x with run := .ready }) ∧ m.i = .mcfg d sh ∧
        u.punit h = { s.punit h with mq := (s.punit h).mq ++ [m] } ∧ ∀ v, v ≠ h → u.punit v = s.punit v) ∧
      (mqLen (s.punit h) < 16 → sh ≠ shapeOf s x → (∀ v ∈ mcfgUnits s x sh (shapeOf s x), (s.punit v).takers = []) →
        ∃ (u : State) (m : MxOp), exec (.mcfg d sh) s = .next u ∧ on u (fun x => { advance x with run := .ready }) ∧ m.i = .mcfg d sh ∧
          (u.punit (homeUnit u x.uk)).holder = some (gangKey x) ∧
          ∀ v, (v ∈ shapeUnits s sh x.uk → (u.punit v).shape = sh) ∧
            (v ∈ shapeUnits s (shapeOf s x) x.uk → v ∉ shapeUnits s sh x.uk → (u.punit v).shape = .single) ∧
            (v ∈ mcfgUnits s x sh (shapeOf s x) → ∃ n, (u.punit v).mq = (s.punit v).mq ++ [n] ∧ n.i = m.i ∧ n.seq = m.seq ∧
              n.part = decide (v ≠ h)) ∧
            (v ∉ mcfgUnits s x sh (shapeOf s x) → (u.punit v).mq = (s.punit v).mq) ∧
            (u.punit v).tiles = (s.punit v).tiles ∧ (u.punit v).active = (s.punit v).active ∧ (u.punit v).live = (s.punit v).live)) ∧
    (MxReady .batTake 1 (fun _ _ => True) s →
      ((s.punit h).holder = none ∨ (s.punit h).holder = some (gangKey x) → ∃ u, exec .batTake s = .next u ∧
        on u (fun x => { goesOn x with run := .ready }) ∧ (u.punit h).holder = some (gangKey x)) ∧
      (∀ g, (s.punit h).holder = some g → g ≠ gangKey x → ∃ u, exec .batTake s = .next u ∧
        on u (fun x => { x with run := .waiting (.baton h) }) ∧ (u.punit h).holder = some g ∧ ∃ n, (n, gangKey x) ∈ (u.punit h).takers)) ∧
    (MxReady .batGive 1 (fun s x => (s.punit (home s x)).holder = some (gangKey x)) s → ∃ u, exec .batGive s = .next u ∧ on u advance ∧
      (u.punit h).holder = (s.punit h).takers.head?.map Prod.snd) ∧
    ∀ d : SReg, MxReady (.batTest d) 1 (fun _ _ => True) s → ∃ u, exec (.batTest d) s = .next u ∧
      on u (fun x => (advance x).ws d (if (s.punit (home s x)).holder = some (gangKey x) then 1 else 0)) ∧ ∀ v, u.punit v = s.punit v

namespace Sys2Proof.Claims

/-- No matrix state and no byte of memory carries a poison mark. -/
def Unmarked (s : State) : Prop := s.poison = [] ∧ ∀ v, (s.punit v).badTiles = 0 ∧ (s.punit v).badPlanes = 0
/-- The oldest instruction of a unit's queue, performed whole and by itself, with a result. -/
def Performs (want : Instr → MxOp → State → Nat → Prop) (result : MxOp → State → Nat → State → Prop) : Prop :=
  ∀ (s : State) (h : Nat) (m : MxOp) (rest : List MxOp), (s.punit h).mq = m :: rest → m.unit = h → Unmarked s → want m.i m s h →
    ∃ t, exec (.matrixPerform h) s = .next t ∧ (t.punit h).mq = rest ∧ (∀ k, Cells.get t.mem k = Cells.get s.mem k) ∧ result m s h t
/-- The queue once one row of its oldest instruction has been performed: the next row is its, or its place is free (15 R270). -/
def afterRow (m : MxOp) (rest : List MxOp) : List MxOp := if m.done + 1 < m.n then { m with done := m.done + 1 } :: rest else rest
/-- The paddocks of a shape are those around the home of the instruction, each once. -/
def Whole (s : State) (m : MxOp) : Prop :=
  let quads := (kHalves m.sh).flatMap fun kh => (nHalves m.sh).map fun nh => quadUnit s m.sh m.unit kh nh
  quads.Nodup ∧ ∀ v, v ∈ quads ↔ v ∈ shapeUnits s m.sh m.unit
/-- One row of the oldest instruction of a queue, read from memory, with a result. -/
def ReadsRow (want : Instr → MxOp → State → Prop) (result : MxOp → List Byte → State → State → Prop) : Prop :=
  ∀ (s : State) (m : MxOp) (rest : List MxOp) (row : List Byte), (s.punit m.unit).mq = m :: rest → Unmarked s → Whole s m →
    m.done < m.n → m.perm.length = 64 → fetchRow (rowDone s m.unit m) m m.done (rowBytes m) = .ok row → want m.i m s →
    ∃ t, exec (.matrixPerform m.unit) s = .next t ∧ (t.punit m.unit).mq = afterRow m rest ∧
      (∀ k, Cells.get t.mem k = Cells.get s.mem k) ∧ result m row s t
/-- What the bytes of half a row give word `k` of a plane: the element that the table names for position `k`, or a word of the blocks
(07 R144, 15 R252). -/
def held (c : Nat) (perm bs : List Byte) (k : Nat) : W32 :=
  if isBlock c then BitVec.ofNat 32 (leNat ((bs.drop (4 * k)).take 4))
  else
    let w := if c = 6 then 1 else 2
    BitVec.ofNat 32 (leNat ((bs.drop (w * (perm.getD k 0).toNat)).take w))
/-- The nodes whose chain of parents holds a node: itself, and those whose parent is one of them. -/
inductive Chain (par : Nat → Nat) (node : Nat) : Nat → Prop
  | here : Chain par node node
  | up {r : Nat} : par r ≠ 0xFF → Chain par node (par r) → Chain par node r
/-- The parent that a tree image gives a node. -/
def parentIn (ws : List W32) (n : Nat) : Nat := ((ws.getD (n / 4) 0).toNat / 2 ^ (8 * (n % 4))) % 256
/-- `mlw` in every format and shape: row after row of the image is a column of the shadow plane, its positions in the order of the
table; the first clears every other column. -/
def LoadsShadow : Prop :=
  ∀ (c : CReg) (xr n : SReg), ReadsRow (fun i m _ => i = .mlw c xr n ∧ 1 ≤ m.fmt ∧ m.fmt ≤ 6 ∧ m.n ≤ shapeN m.sh) fun m row s u =>
    ∀ kh ∈ kHalves m.sh, ∀ nh ∈ nHalves m.sh,
      let v := quadUnit s m.sh m.unit kh nh
      (m.done = 0 → (u.punit v).shadowFmt = m.fmt) ∧ (u.punit v).active = (s.punit v).active ∧
      (u.punit v).activeFmt = (s.punit v).activeFmt ∧ (u.punit v).tiles = (s.punit v).tiles ∧
      ∀ j < 64, ∀ k < (if isBlock m.fmt then halfBytes m.fmt / 4 else 64), (u.punit v).shadow.get (64 * j + k) =
        if 64 * nh + j = m.done then held m.fmt m.perm (rowHalf m.fmt kh row) k
        else if m.done = 0 then 0 else (s.punit v).shadow.get (64 * j + k)
/-- Bytes of an element that `mout` writes, and their value: the accumulator as it is, or converted (15 R263). -/
def outBytes (c : Nat) : Nat := if c = 6 then 1 else if c = 1 ∨ c = 2 then 2 else 4
def outValue (m : MxOp) (e : W32) : Nat :=
  match m.fmt with
  | 1 => cvt (frMode m.fr) .bf16 .f32 e.toNat
  | 2 => cvt (frMode m.fr) .f16 .f32 e.toNat
  | 6 => cvt (frMode m.fr) .i8 .i32 e.toNat
  | _ => e.toNat
/-- `mout` in every format and shape: the next row of the tile stands in memory, and nothing else has changed there. -/
def WritesTile : Prop :=
  ∀ (s : State) (m : MxOp) (rest : List MxOp) (c : CReg) (xr n : SReg) (t : TileReg) (a : Int),
    (s.punit m.unit).mq = m :: rest → m.i = .mout c xr t n → Unmarked s → m.done < m.n → m.fmt ∈ [0, 1, 2, 6, 7] →
    let w := outBytes m.fmt
    rowCheck (rowDone s m.unit m) m pP m.done (w * shapeN m.sh) = .ok a →
    let at' := fun (o len : Nat) => keysAt s (s.slice m.slice) m.cap (a + (o : Nat)) len
    (at' 0 (w * shapeN m.sh)).Nodup →
    ∃ u, exec (.matrixPerform m.unit) s = .next u ∧ (u.punit m.unit).mq = afterRow m rest ∧ (∀ v, (u.punit v).tiles = (s.punit v).tiles) ∧
      (∀ nh ∈ nHalves m.sh, ∀ j < 64, leNat ((at' (w * (64 * nh + j)) w).map fun k => Cells.get u.mem k) =
        outValue m ((s.punit (quadUnit s m.sh m.unit 0 nh)).tiles.get (tileKey t.toNat m.done j)) % 2 ^ (8 * w)) ∧
      ∀ k, k ∉ at' 0 (w * shapeN m.sh) → Cells.get u.mem k = Cells.get s.mem k
/-- `mst` in every format and shape: the next row of the image, times the columns of the active plane, is added to the row of the
tile, group of 16 positions after group: integers exactly, saturated where the mode says so; floats as the exact sum of a group
rounded once to FP32, then added. `.z` adds to zero, and its first row clears the others. -/
def MultipliesRow : Prop :=
  ∀ (z : Bool) (t : TileReg) (c : CReg) (xr n : SReg), ReadsRow (fun i m s => i = .mst z t c xr n ∧ m.done < 64 ∧
      comboOk m.fmt (s.punit m.unit).activeFmt (frACC m.fr) = true) fun m row s u =>
    let md := frMode m.fr
    let bf := (s.punit m.unit).activeFmt
    ∀ nh ∈ nHalves m.sh,
      let v := quadUnit s m.sh m.unit 0 nh
      let was := fun (r j : Nat) => if z = true ∧ m.done = 0 then (0 : W32) else (s.punit v).tiles.get (tileKey t.toNat r j)
      let x := fun (kh k : Nat) => held m.fmt m.perm (rowHalf m.fmt kh row) k
      let y := fun (j kh k : Nat) => (s.punit (quadUnit s m.sh m.unit kh nh)).active.get (64 * j + k)
      let groups := List.range (shapeK m.sh / 16)
      let places := fun (g : Nat) => (List.range 16).map fun i => 16 * g + i
      (u.punit v).live.getLsbD t.toNat = true ∧ (u.punit v).kind.getLsbD t.toNat = accInt (frACC m.fr) ∧
      (u.punit v).active = (s.punit v).active ∧
      (∀ r < 64, r ≠ m.done → ∀ j < 64, (u.punit v).tiles.get (tileKey t.toNat r j) = was r j) ∧
      ∀ j < 64, (u.punit v).tiles.get (tileKey t.toNat m.done j) =
        if accInt (frACC m.fr) = true then
          groups.foldl (fun (a : W32) g =>
            let e := a.toInt + ((places g).map fun k =>
              elemInt true 8 (x (k / 64) (k % 64)).toNat * elemInt true 8 (y j (k / 64) (k % 64)).toNat).sum
            BitVec.ofInt 32 (if md.sat = true then max (-2 ^ 31) (min (2 ^ 31 - 1) e) else e)) (was m.done j)
        else
          groups.foldl (fun (a : W32) g =>
            let at' := fun (c : Nat) (w : Nat → Nat → W32) => (places g).map fun k =>
              (posValues c md.ftz (w (k / 64))).getD (k % 64) (.fin false 0 0)
            BitVec.ofNat 32 (fenc fp32 0 md.ftz false (Fl.add 0 (fdec fp32 a.toNat) (fdec fp32 (groupSum md.ftz (at' m.fmt x) (at' bf (y j)))))))
            (was m.done j)
/-- `mmask.tree` in every shape: an element of a key that is neither of the prefix nor of a node in the chain of its row
becomes negative infinity, the others keep their values, and the tile is a live one of floats. -/
def MasksTree : Prop :=
  ∀ (t : TileReg) (v : VReg) (pre col : SReg),
    Performs (fun i m s _ => i = .mmaskTree t v pre col ∧ Whole s m ∧
        ∀ n < 64, parentIn (m.vecs.headD []) n < n ∨ parentIn (m.vecs.headD []) n = 0xFF)
      (fun m s _ u => ∀ nh ∈ nHalves m.sh,
        let v := quadUnit s m.sh m.unit 0 nh
        (u.punit v).live.getLsbD t.toNat = true ∧ (u.punit v).kind.getLsbD t.toNat = false ∧ ∀ r < 64, ∀ j < 64,
        let key := m.m + 64 * nh + j
        let vis := key < m.n ∨ ∃ node < 64, key = m.n + node ∧ Chain (parentIn (m.vecs.headD [])) node r
        (vis → (u.punit v).tiles.get (tileKey t.toNat r j) = (s.punit v).tiles.get (tileKey t.toNat r j)) ∧
        (¬vis → (u.punit v).tiles.get (tileKey t.toNat r j) = 0xFF800000))
/-- A change of shape at the head of the queue of every paddock that it concerns resets their planes and tiles; to the shape that the
paddock has it does nothing (15 R257). -/
def ChangesShape : Prop :=
  ∀ (d : Bool) (sh : Shape),
    Performs (fun i m _ _ => i = .mcfg d sh ∧ sh = m.sh) (fun _ s h u => u.punit h = { s.punit h with mq := (s.punit h).mq.tail } ∧
      ∀ v, v ≠ h → u.punit v = s.punit v) ∧
    Performs (fun i m s h => i = .mcfg d sh ∧ sh ≠ m.sh ∧ h ∈ mcfgUnits s (s.slice m.slice) sh m.sh ∧
        ∀ v ∈ mcfgUnits s (s.slice m.slice) sh m.sh, ∃ n l, (s.punit v).mq = n :: l ∧ n.seq = m.seq)
      (fun m s _ u => ∀ v ∈ mcfgUnits s (s.slice m.slice) sh m.sh, (u.punit v).mq = (s.punit v).mq.tail ∧ (u.punit v).tiles = [] ∧
        (u.punit v).active = [] ∧ (u.punit v).activeFmt = 1 ∧ (u.punit v).shadow = [] ∧ (u.punit v).shadowFmt = 1 ∧
        (u.punit v).live = 0 ∧ (u.punit v).kind = 0 ∧ (u.punit v).shape = (s.punit v).shape)

end Sys2Proof.Claims

/-- R255, R257, R259-R265, R270, R247, R147: the oldest instruction of the queue is performed, row after row where it has rows: columns
loaded, products summed into a tile, a tile written to memory; or whole: tiles set to +0 and masked, planes exchanged, a row of a
tile read and written, narrowed and widened for the types of 16 bits, a shape changed.
It rests on the model's own choices in logs 107, 119. -/
def Obligations.MatrixInstructionsPerform : Prop :=
  LoadsShadow ∧ MultipliesRow ∧ WritesTile ∧ MasksTree ∧ ChangesShape ∧
  (∀ t : TileReg, Performs (fun i _ _ _ => i = .mzero t) (fun m s h u => ∀ nh ∈ nHalves m.sh,
    let v := quadUnit s m.sh h 0 nh
    (u.punit v).live.getLsbD t.toNat = false ∧ (∀ r < 64, ∀ n < 64, (u.punit v).tiles.get (tileKey t.toNat r n) = 0) ∧
      ∀ k, k / 4096 ≠ t.toNat → (u.punit v).tiles.get k = (s.punit v).tiles.get k)) ∧
  Performs (fun i _ _ _ => i = .mswap) (fun m s h u => ∀ v ∈ shapeUnits s m.sh h,
    (u.punit v).active = (s.punit v).shadow ∧ (u.punit v).activeFmt = (s.punit v).shadowFmt ∧
      (u.punit v).shadow = (s.punit v).active ∧ (u.punit v).shadowFmt = (s.punit v).activeFmt ∧ (u.punit v).tiles = (s.punit v).tiles) ∧
  (∀ (ty : Ty) (d : VReg) (t : TileReg) (row col : SReg),
    Performs (fun i m s _ => i = .mrd ty d t row col ∧ s.has m.slice) (fun m s _ u =>
      let e := fun n => (s.punit (segUnit s m m.sh)).tiles.get (tileKey t.toNat m.n n)
      let md := frMode m.fr
      (ty = .f32 ∨ ty = .i32 → ∃ v w, (u.slice m.slice).land = (s.slice m.slice).land ++ [.v d (-1) v, .v (d + 1) (-1) w] ∧
        ∀ l < 32, v.getD l 0 = e l ∧ w.getD l 0 = e (32 + l)) ∧
      (ty = .f16 ∨ ty = .bf16 → ∃ v, (u.slice m.slice).land = (s.slice m.slice).land ++ [.v d (-1) v] ∧
        ∀ l < 32, v.getD l 0 = BitVec.ofNat 32 (cvt md ty .f32 (e (2 * l)).toNat + 2 ^ 16 * cvt md ty .f32 (e (2 * l + 1)).toNat)))) ∧
  ∀ (ty : Ty) (a : VReg) (t : TileReg) (row col : SReg),
    Performs (fun i m _ _ => i = .mwr ty t a row col ∧ m.n < 64) (fun m s _ u =>
      let v := segUnit s m m.sh
      let w := fun (i l : Nat) => (m.vecs.getD i []).getD l 0
      (∀ r < 64, r ≠ m.n → ∀ n < 64, (u.punit v).tiles.get (tileKey t.toNat r n) = (s.punit v).tiles.get (tileKey t.toNat r n)) ∧
      (ty = .f32 ∨ ty = .i32 → ∀ n < 64, (u.punit v).tiles.get (tileKey t.toNat m.n n) = w (n / 32) (n % 32)) ∧
      (ty = .f16 ∨ ty = .bf16 → ∀ n < 64, (u.punit v).tiles.get (tileKey t.toNat m.n n) =
        BitVec.ofNat 32 (cvt {} .f32 ty (elem (w 0 (n / 2)) 16 (n % 2)))))


namespace Sys2Proof.Claims

/-- A result that is added to what a slice awaits; one for `s0` is none. -/
def awaits (d : SReg) (v : W64) (x : Slice) : Slice := if d = 0 then x else { x with land := x.land ++ [.s d v] }
/-- The task that a lane's `spawn` makes (17 R285). -/
def spawned (x : Slice) (s : State) (h r : SReg) (c : CReg) (len : BitVec 12) (cls : BitVec 2) (l : Nat) : Task :=
  { bytes := recHeader (len.toNat / 16 + 1) 0 cls.toNat false 0 (x.rs h).toNat ++
      rdBytes s x (x.rc c) (addrS x (x.rc c) (.scalar r) 0 + (l * len.toNat : Nat)) len.toNat }
/-- A slice that issues afresh, not in the course of a `spawn`. -/
def Fresh (x : Slice) : Prop := x.run = .ready ∧ x.pushes = []

end Sys2Proof.Claims

/-- R285, R282, R283: `spawn` with an invalid handler writes all ones; a lane's task joins the stall that takes it, those of several
lanes in ascending order, and the slice
holds while none does; R284, R287: `tdone` begins the retirement of the tasks of the selected lanes, once each, and `targ` reads a
lane's payload. -/
def Sys2Proof.Claims.TasksSpawnAndRetire : Prop :=
  ∀ (p : Pred) (d h r : SReg) (c : CReg) (len : BitVec 12) (cls : BitVec 2),
    One (.spawn p d h r c len cls) (fun s x => Fresh x ∧ spawnOk s x h = false) (fun s x t =>
      t.slice x.id = goesOn (awaits d (-1) x) ∧ t.stalls = s.stalls) ∧
    (∀ l st : Nat, One (.spawn p d h r c len cls)
      (fun s x => Fresh x ∧ spawnOk s x h = true ∧ spawnFail p h r c len s x = none ∧ lanesOf (x.sel p) = [l] ∧
        stallFor s (x.die * 48 + x.core) x.ck (x.rs h).toNat cls.toNat = some st)
      (fun s x t => t.slice x.id = goesOn (awaits d 1 x) ∧
        (t.stall st).tasks = (if (s.stall st).state = 0 then [] else (s.stall st).tasks) ++ [spawned x s h r c len cls l] ∧
        ∀ n, n ≠ st → t.stall n = s.stall n)) ∧
    (∀ st : Nat, One (.spawn p d h r c len cls)
      (fun s x => Fresh x ∧ spawnOk s x h = true ∧ spawnFail p h r c len s x = none ∧
        stallFor s (x.die * 48 + x.core) x.ck (x.rs h).toNat cls.toNat = some st ∧ (s.stall st).state = 1 ∧
        (s.stall st).tasks.length + (lanesOf (x.sel p)).length ≤ (s.stall st).fill)
      (fun s x t => t.slice x.id = goesOn (awaits d (BitVec.ofNat 64 (lanesOf (x.sel p)).length) x) ∧
        (t.stall st).tasks = (s.stall st).tasks ++ (lanesOf (x.sel p)).map (spawned x s h r c len cls) ∧
        ∀ n, n ≠ st → t.stall n = s.stall n)) ∧
    One (.spawn p d h r c len cls) (fun s x => Fresh x ∧ spawnOk s x h = true ∧ x.sel p = 0) (fun s x t =>
      t.slice x.id = goesOn (awaits d 0 x) ∧ t.stalls = s.stalls) ∧
    (∀ l : Nat, One (.spawn p d h r c len cls)
      (fun s x => Fresh x ∧ spawnOk s x h = true ∧ spawnFail p h r c len s x = none ∧ lanesOf (x.sel p) = [l] ∧
        stallFor s (x.die * 48 + x.core) x.ck (x.rs h).toNat cls.toNat = none)
      (fun s x t => (t.slice x.id).run = .waiting .room ∧ (t.slice x.id).pc = x.pc ∧ (t.slice x.id).s = x.s ∧
        (t.slice x.id).pushes = [((x.rs h).toNat, cls.toNat, spawned x s h r c len cls l)] ∧ t.stalls = s.stalls)) ∧
    One (.tdone p) (fun _ x => x.handler = true) (fun s x t => t.slice x.id = goesOn x ∧ t.blocks = s.blocks ∧ t.retiring = s.retiring) ∧
    One (.tdone p) (fun _ x => x.handler = false) (fun s x t => t.slice x.id = goesOn x ∧
      (t.block x.block).wave = (s.block x.block).wave.map (fun k => if (x.sel p).getLsbD k.lane then { k with done := true } else k) ∧
      ∃ rs, t.retiring = s.retiring ++ rs ∧ (∀ k ∈ rs, k.slice = x.id ∧ k.block = x.block ∧ k.ctx = x.ck) ∧
        rs.map Retiring.task = ((s.block x.block).wave.filter fun k => (x.sel p).getLsbD k.lane && !k.done).map LaneTask.task) ∧
    ∀ off : BitVec 12, WritesV (.targ p d off) p (d.setWidth 8) (fun s x l =>
      match (s.block x.block).wave.find? fun k => k.lane == l && !x.handler with
      | some k => BitVec.ofNat 32 (leNat (((recPayload k.task.bytes).drop off.toNat).take 4))
      | none => 0)

/-- R288: a valid packet is recorded for the crew and answers 0, an invalid one 2, a 17th 1; R275: an invoke that can be sent leaves
as a message with its payload and awaits its answer, another writes 4 or 2 at once, and `rinv.t` goes on once it
has its answer; R353: a mark is written to the ring of a
session that takes marks. -/
def Sys2Proof.Claims.LaunchesInvokesMarks : Prop :=
  (∀ (d r : SReg) (c : CReg) (imm : BitVec 12),
    One (.launch d r c imm)
      (fun s x => capCheck s x (x.rc c) [1, 2, 3] [pL] (launchAddr x c r imm) 32 16 = none ∧ ∃ g ∈ s.grids, g.id = (s.block x.block).grid)
      (fun s x t =>
        let b := rdBytes s x (x.rc c) (launchAddr x c r imm) 32
        let g := (s.block x.block).grid
        t.slice x.id = goesOn (awaits d (if (packetBad b).isSome then 2 else if 16 ≤ (s.grid g).launches.length then 1 else 0) x) ∧
        (t.grid g).launches = (s.grid g).launches ++
          (if (packetBad b).isSome ∨ 16 ≤ (s.grid g).launches.length then [] else [((s.block x.block).crewBase, packetRec b)]) ∧
        ∀ k, Cells.get t.mem k = Cells.get s.mem k)) ∧
  (∀ (t ak : Bool) (node h len st : SReg) (c : CReg) (imm : BitVec 12) (cls : BitVec 2),
    let able := fun (x : Slice) => (x.rs len).toNat % 16 = 0 ∧ 16 ≤ (x.rs len).toNat ∧ (x.rs len).toNat ≤ 192
    One (.rinv t ak node h c imm len st cls)
      (fun s x => x.run = .ready ∧ able x ∧ (x.rs h).toNat < 256 ∧ rinvFail h len c imm s x = none ∧ openInvokes s x < 16 ∧ s.cuts = [] ∧ s.resend = [])
      (fun s x u => ∃ m, u.outbox = s.outbox ++ [m] ∧ m.type = mINVOKE ∧ m.dst = BitVec.ofNat 16 (x.rs node).toNat ∧ m.src = s.node ∧
        msgCls m = cls.toNat ∧ msgDie m = (x.rs node).toNat / 2 ^ 16 % 4 ∧ m.tag = s.tagSeq ∧ m.gen = (s.ctxOf x).gen ∧ m.grp = (s.ctxOf x).grp ∧
        m.payload = rdBytes s x (x.rc c) ((x.rc c).base + imm.toNat) (x.rs len).toNat ∧
        (∃ a, u.awaits = s.awaits ++ [a] ∧ a.tag = s.tagSeq ∧ a.slice = x.id ∧ a.reg = st ∧ a.kind = (if t then 0 else 1)) ∧
        u.slice x.id = if t then { x with run := .waiting (.answer s.tagSeq), hang := 0 } else goesOn x) ∧
    One (.rinv false ak node h c imm len st cls) (fun _ x => x.run = .ready ∧ ¬able x) (fun s x u =>
      u.slice x.id = goesOn (awaits st 4 x) ∧ u.outbox = s.outbox) ∧
    One (.rinv false ak node h c imm len st cls) (fun _ x => x.run = .ready ∧ able x ∧ 256 ≤ (x.rs h).toNat) (fun s x u =>
      u.slice x.id = goesOn (awaits st 2 x) ∧ u.outbox = s.outbox) ∧
    One (.rinv true ak node h c imm len st cls) (fun _ x => x.run = .ready ∧ (¬able x ∨ 256 ≤ (x.rs h).toNat)) (fun s x u =>
      u.slice x.id = { awaits st (if able x then 2 else 4) x with run := .waiting (.cmds []), hang := 0 } ∧ u.outbox = s.outbox) ∧
    One (.rinv t ak node h c imm len st cls) (fun _ x => x.run = .waiting (.cmds []) ∨ ∃ n, x.run = .waiting (.answer n)) (fun s x u =>
      u.slice x.id = { advance x with run := .ready } ∧ u.outbox = s.outbox)) ∧
  ∀ (tag : W16) (a : SReg),
    One (.tmark tag a) (fun s _ => s.sessions = []) (fun s x t => t.slice x.id = advance x ∧ ∀ k, Cells.get t.mem k = Cells.get s.mem k) ∧
    ∀ z : Session, One (.tmark tag a)
      (fun s x => s.sessions = [z] ∧ z.die * 64 + z.ctx = x.ck ∧ z.on 0 = true ∧ z.dropped = 0 ∧ 4 ≤ z.room ∧ 4 ≤ z.toEnd)
      (fun s x t => t.slice x.id = advance x ∧ (∃ y, t.sessions = [y] ∧ y.tail = z.tail + 4 ∧ y.seq = z.seq + 1) ∧
        t.rd (z.ringBase + 16 * (z.tail.toNat % 2 ^ z.ringK)) 64 = traceHdr 1 4 z.ctx (srcOf s x) (s.ccTurn x) z.seq ++
          (leBytes 8 x.pc.toNat ++ leBytes 8 (x.rs a).toNat ++ leBytes 2 tag.toNat ++ List.replicate 14 0))

/-- R275-R277, R282-R288, R353: what the task instructions do. It rests on the model's own choices in log 32. -/
def Obligations.TasksLaunchesAndInvokes : Prop := TasksSpawnAndRetire ∧ LaunchesInvokesMarks

namespace Sys2Proof.Claims

/-- A slice of the block goes on, so that the block does not end. -/
def Lives (s : State) (b : Nat) : Prop := ∃ y ∈ s.slices, y.block = b ∧ y.handler = false ∧ y.run ≠ .retired
/-- The controller of a die works and messages leave at once. -/
def Talks (s : State) (d : Nat) : Prop := (s.die d).failover = false ∧ (s.die d).failed = false ∧ s.cuts = [] ∧ s.resend = []
/-- One context of the package, whose one launch waits at the head of an enabled queue; nothing else asks for the controller. -/
def OneLaunch (s : State) (c : Ctx) (q : Nat) (e : LqEntry) : Prop :=
  s.ctxs = [c] ∧ c.valid = true ∧ c.killing = 0 ∧ c.lq = [(q, e)] ∧ (c.queue q).2.1 = true ∧ q < 64 ∧ eligible c e = true ∧
    Talks s c.die ∧ s.stalls = [] ∧ s.saved = [] ∧ (∀ g ∈ s.grids, g.relaunch = []) ∧ c.die < 4 ∧ (s.vdev c.vdev).resident = true

end Sys2Proof.Claims

/-- R284: a retiring task whose accesses have completed lowers the count of its successor and answers its sender; R283: a stall that
has waited its time is Ready, and an invoke that the controller takes joins a stall and frees its place; R302, R298-R300: a launch
that cannot be read is reported with its case bits and leaves its queue, and one that fits is placed, block by block.
It rests on the model's own choices in logs 39, 49, 51, 52, 101. -/
def Obligations.TasksRetireAndBlocksPlaced : Prop :=
  (∀ (s : State) (r : Retiring) (h off : Nat) (w : Where) (u : State), s.retiring.find? (fun k => k.id == r.id) = some r →
    retireReady s r = true → r.step = 0 → recSuccs r.task.bytes = [h] → recNote r.task.bytes = false → r.task.ack = none → Lives s r.block →
    handleOff (s.ctx r.ctx) h = some off →
    locate s { k := r.ctx, gen := (s.ctx r.ctx).gen, slice := r.slice, block := r.block } 0 ((s.ctx r.ctx).arenab + off) true true = (.ok w, u) →
    2 ≤ leNat (u.rd w.key 8) / 2 ^ 32 → u.poisoned w.key 8 = false →
    ∃ t, exec (.taskRetireSignals r.id) s = .next t ∧ leNat (t.rd w.key 8) = leNat (u.rd w.key 8) - 2 ^ 32 ∧
      t.retiring = s.retiring.filter fun k => k.id != r.id) ∧
  (∀ (s : State) (r : Retiring) (a : Ack), s.retiring.find? (fun k => k.id == r.id) = some r → retireReady s r = true → r.step = 0 →
    recSuccs r.task.bytes = [] → recNote r.task.bytes = false → r.task.ack = some a → r.ackOk = true → Lives s r.block → s.cuts = [] → s.resend = [] →
    ∃ t m, exec (.taskRetireSignals r.id) s = .next t ∧ t.outbox = s.outbox ++ [m] ∧ m.type = mANSWER ∧ m.dst = a.node ∧ m.tag = a.tag ∧
      m.arg = 0 ∧ m.gen = a.gen ∧ t.retiring = s.retiring.filter fun k => k.id != r.id) ∧
  (∀ (s : State) (n : Nat), (s.stall n).state = 1 → (s.stall n).started + (s.stall n).timer ≤ s.clk (n / 768) →
    ∃ t, exec (.stallTimerExpiry n) s = .next t ∧ t.stall n = { s.stall n with state := 2, readyAt := s.clk (n / 768) }) ∧
  (∀ (s : State) (d k core st : Nat) (v : Invoke), Talks s d → nextInvoke s d = some (k, v, core) → stallFor s core k v.hnd v.cls = some st →
    ∃ t, exec (.invokeTake d) s = .next t ∧ v.task ∈ (t.stall st).tasks ∧
      (t.ctx k).invokes = (s.ctx k).invokes.filter (fun y => y.order != v.order) ∧
      (t.ctx k).outstanding.get v.hnd = (s.ctx k).outstanding.get v.hnd - 1) ∧
  (∀ (s : State) (c : Ctx) (q bits : Nat) (e : LqEntry), OneLaunch s c q e → e.grid = 0 → (readLaunch s c.id e.lrec e.inline).1 = .error bits →
    ∃ t m, exec (.dispatch c.die) s = .next t ∧ (t.ctx c.id).lq = [] ∧ t.outbox = s.outbox ++ [m] ∧ m.type = mCOMPLETION ∧ m.dst = c.host ∧
      m.payload = leBytes 8 e.htag.toNat ++ [1, 0] ++ leBytes 2 bits ++ leBytes 4 0 ++ leBytes 8 0 ∧ t.blocks = s.blocks) ∧
  ∀ (s : State) (c : Ctx) (q k : Nat) (e : LqEntry) (spots : List Spot), OneLaunch s c q e → e.grid ≠ 0 → (s.grid e.grid).placed = 0 →
    unplaceable s (s.grid e.grid) = none → nextSpots s (s.grid e.grid) false = some (k, spots) →
    ∃ t, exec (.dispatch c.die) s = .next t ∧ (t.blocks.take s.blocks.length).map Block.id = s.blocks.map Block.id ∧
      let bs := t.blocks.drop s.blocks.length
      bs.map Block.lin = List.range spots.length ∧ ∀ b ∈ bs, b.grid = (s.grid e.grid).id ∧ b.run = .running ∧ b.header = (s.grid e.grid).header ∧ b.entry = (s.grid e.grid).lrec.entry

namespace Sys2Proof.Claims

/-- A record of a trap whose WORD is whatever the fetch found. -/
def RecordedAny (s t : State) (x : Slice) (i : TrapInfo) : Prop := ∃ w : W64, Recorded s t x { i with word := w }
/-- A block has been saved with the image of a state, in its context's save area. -/
def SavedIn (u t : State) (b kind : Nat) (light : Nat → Bool) (ready : Bool) : Prop :=
  let c := u.ctx ((u.block b).die * 64 + (u.block b).ctx)
  let img := imageBytes u (u.block b) kind light none
  ∀ o, chanStop u = false → c.prot = false → firstFit (saveAreas u ((u.block b).die * 64 + (u.block b).ctx)) 64 c.savel img.length = some o →
    (t.block b).run = .saved ∧ t.rd (c.saveb + o) img.length = img ∧
      ∃ v, t.saved = u.saved ++ [v] ∧ v.block = b ∧ v.addr = c.saveb + o ∧ v.len = img.length ∧ v.ready = ready
/-- The gangs of a block that have stopped, all of them. -/
def AllFrozen (f : State) (b : Nat) : Prop :=
  ((List.range (f.block b).ngang).all (gangFrozen (f.block b))) = true ∧ saveable f b = true ∧ ((settleBlock f b).block b).run = .running
/-- A block stopped by itself or by command, with a dump of its image. -/
def Stopped (s t : State) (b : Nat) : Prop := (t.block b).run = .stopped ∧ (t.block b).stop = none ∧ ∃ d, t.dumps = s.dumps ++ [d]
/-- A stop asked for in a state takes place at once: every slice is at a boundary, and what has been issued completes. -/
def StopsNow (u : State) (b : Nat) : Prop :=
  stopReady u b false = true ∧ ((settleBlock u b).block b).run = .running ∧
    ((settleBlock u b).ctx ((settleBlock u b).block b).ck).prot = false

end Sys2Proof.Claims

/-- R46, R245, R89: the hang detector and a word that cannot be fetched trap, each with what its record holds. -/
def Sys2Proof.Claims.HangAndFetchFault : Prop :=
  (∀ (s : State) (id : Nat), s.has id → Trappable s (s.slice id) → hangDue s (s.slice id) = true → (∀ p ∈ s.pdks, p.waiters = []) →
    ∃ t, exec (.hang id) s = .next t ∧ HeldAt { s.slice id with hang := 0 } (t.slice id) (s.slice id).pc ∧
      RecordedAny s t (s.slice id) { code := tHANG, subc := BitVec.ofNat 8 (hangState (s.slice id).run), lane := 255, pc := (s.slice id).pc
                                     rpc := (s.slice id).pc, info := BitVec.ofNat 64 (s.ctxOf (s.slice id)).hangh }) ∧
  (∀ (s : State) (id : Nat), s.has id → Trappable s (s.slice id) → inCode (s.ctxOf (s.slice id)) (s.slice id).pc = false →
    ∃ t, exec (.fetchFault id) s = .next t ∧ HeldAt (s.slice id) (t.slice id) (s.slice id).pc ∧
      Recorded s t (s.slice id) { code := tCAPBND, subc := 3, lane := 255, pc := (s.slice id).pc, rpc := (s.slice id).pc
                                  info := (s.slice id).pc, word := 0 }) ∧
  ∀ (s u : State) (id c : Nat), s.has id → Trappable s (s.slice id) → fetchAt s (s.slice id) = (.page c, u) →
    ∃ t, exec (.fetchFault id) s = .next t ∧ HeldAt (s.slice id) (t.slice id) (s.slice id).pc ∧
      Recorded s t (s.slice id) { code := tPAGEX, subc := BitVec.ofNat 8 c, lane := 255, pc := (s.slice id).pc, rpc := (s.slice id).pc
                                  info := (s.slice id).pc, word := 0 }

/-- R241, R306, R308, R311, R312, R305: blocks leave as images, which stand in the save area, and come back from them with their
registers; the issuing slot changes. -/
def Sys2Proof.Claims.SavesRestoresSwitches : Prop :=
  (∀ (s : State) (b : Nat), swapDue s (s.block b) = true → (s.block b).id = b → ((settleBlock s b).block b).run = .running →
    ∃ t, exec (.swapOut b) s = .next t ∧ SavedIn (settleBlock s b) t b 3 (fun _ => false) (answeredIn (settleBlock s b) b)) ∧
  (∀ (s : State) (b : Nat), askedFor s b = true →
    let f := freeze s b true (lightPoint s b)
    let light := fun (g : Nat) => (f.block b).frozen.any fun p => p.1 == g && p.2
    AllFrozen f b → ∃ t, exec (.lightSave b) s = .next t ∧
      SavedIn (settleBlock f b) t b (if (List.range (f.block b).ngang).all light then 1 else 2) light true) ∧
  (∀ (s : State) (b due : Nat), askedFor s b = true → (s.block b).preempt = some due → due ≤ s.clk (s.block b).die →
    let f := freeze s b false fun g => (liveSlices s b g).all fun x => !midway x
    let light := fun (g : Nat) => (f.block b).frozen.any fun p => p.1 == g && p.2
    AllFrozen f b → ∃ t, exec (.preemptTimeout b) s = .next t ∧
      SavedIn (settleBlock f b) t b (if (List.range (f.block b).ngang).all light then 1 else 2) light true) ∧
  (∀ (s : State) (v : Saved) (g : Img) (dst : Block) (y : Source) (renew : Bool), s.saved.find? (fun w => w.id == v.id && w.ready) = some v →
    (s.ctx ((s.block v.block).die * 64 + (s.block v.block).ctx)).killing = 0 → (s.block v.block).run = .saved → (s.block v.block).id = v.block →
    savedImage s v = some g → imagePoison s v = false →
    let d := (s.grid (s.block v.block).grid).die
    controllerUp s d = true → winner s d = some (y, renew) → y.head = .saved v → placing s false y = some (.back [(v, g, dst)]) → dst.id = v.block →
    (∀ p ∈ s.pdks, p.waiters = []) →
    let l := slotOrder s dst
    (l.map Slice.id).Nodup → (∃ p ∈ pairSlices l g.slices g.xvs, p.2.1.st ≠ 4 ∧ p.2.1.x.alive ≠ 0) →
    ∃ t, exec (.blockRestore v.id) s = .next t ∧ t.saved = s.saved.filter (fun w => w.id != v.id) ∧ (t.block v.block).core = dst.core ∧
      (t.block v.block).die = dst.die ∧ (t.block v.block).run = .running ∧
      ∀ x r z, (x, r, z) ∈ pairSlices l g.slices g.xvs → r.st ≠ 4 → r.x.alive ≠ 0 →
        (t.slice x.id).s = r.x.s ∧ (t.slice x.id).v = r.x.v ∧ (t.slice x.id).c = r.x.c ∧ (t.slice x.id).k = r.x.k) ∧
  ∀ (s : State) (pk : Nat), switchDue s pk = true → ∃ t, exec (.duplexSwitch pk) s = .next t ∧ (t.pdk pk).issuing = 1 - (s.pdk pk).issuing ∧
    (t.pdk pk).since = s.clk (pk / 192) ∧ (t.pdk pk).slot0 = (s.pdk pk).slot0 ∧ (t.pdk pk).slot1 = (s.pdk pk).slot1

/-- R316, R342: a killed context that is quiet frees everything, is as new but for its generation, and is reported; an uncorrectable
error takes a crew off the machine, to be placed again, and kills it the second time. -/
def Sys2Proof.Claims.KillsEnd : Prop :=
  (∀ (s : State) (k : Nat), (s.ctx k).killing ≠ 0 → quiescent s (killKeys s k) = true → s.mgmt = [] → s.cuts = [] → s.resend = [] →
    (s.die (k / 64)).failover = false → (s.vdev (s.ctx k).vdev).resident = true → (s.ctxs.map Ctx.id).Nodup →
    ∃ t m, exec (.killQuiescence k) s = .next t ∧
      t.ctx k = { (Ctx.fresh k).setFld 4 2 (s.ctx k).gen.toNat with last := (s.ctx k).vdev } ∧ (∀ x ∈ t.slices, x.ck ≠ k) ∧
      (∀ b ∈ t.blocks, b.ck ≠ k) ∧ t.outbox = s.outbox ++ [m] ∧ m.type = mCOMPLETION ∧ m.dst = (s.ctx k).host ∧
      m.payload = leBytes 8 0 ++ [3, 0] ++ leBytes 2 (s.ctx k).gen.toNat ++ leBytes 4 0 ++ leBytes 8 0) ∧
  (∀ (s : State) (b : Block), b ∈ s.blocks → s.block b.id = b → b.run ≠ .ended → b.run ≠ .dying → b.relaunched = false → (∀ p ∈ s.pdks, p.wstate ≠ .nominal ∧ p.wstate ≠ .derated) →
    (∃ g ∈ s.grids, g.id = b.grid) → 1 ≤ (s.grid b.grid).lrec.gangs →
    let crew := s.blocks.filter fun y => y.crewBase == b.crewBase && y.grid == b.grid
    (s.grid b.grid).relaunch = [] → (∀ c ∈ s.cmds, (c.stage = 2 ∨ c.stage = 5 ∧ c.inside = true) → ∀ y ∈ crew, y.id ≠ c.block) →
    ∃ t, exec (.crewKill b.id) s = .next t ∧ (∀ y ∈ crew, ∀ z ∈ t.blocks, z.id ≠ y.id) ∧
      (∀ y ∈ crew, ∀ x ∈ t.slices, x.block = y.id → x.handler = true) ∧
      (t.grid b.grid).relaunch = [((crew.map Block.lin).foldl min b.lin, crew.length, againTasks s b)]) ∧
  ∀ (s : State) (b : Block), b ∈ s.blocks → s.block b.id = b → b.run ≠ .ended → b.run ≠ .dying → b.relaunched = true → (s.slices.map Slice.id).Nodup →
    ∃ t, exec (.crewKill b.id) s = .next t ∧ ∀ x ∈ t.slices, x.block = b.id → x.handler = false → x.run = .retired

/-- R46, R89, R241, R245, R305-R312, R316, R342: the steps that stop, save, restore, switch and kill.
It rests on the model's own choices in logs 22, 40, 41, 42, 53, 55, 58, 60, 105, 120, 122. -/
def Obligations.BlocksStopSaveAndRestore : Prop := HangAndFetchFault ∧ SavesRestoresSwitches ∧ KillsEnd

/-- R317, R339-R347: outcomes of self-tests, link errors and their retries, refused messages sent again, the controller's takeover, wear. -/
def Sys2Proof.Claims.HealthSteps : Prop :=
  (∀ (s : State) (pk : Nat), ∃ t, exec (.selfTestDone (.paddock pk) .lasting) s = .next t ∧ (t.pdk pk).wstate = .retired ∧
    underTest t (.paddock pk) = false ∧
    (t.die (pk / 192)).errlog = (s.die (pk / 192)).errlog ++ [.test (.paddock pk) .lasting, .retired pk]) ∧
  (∀ (s : State) (pk : Nat), ∃ t, exec (.selfTestDone (.paddock pk) .repaired) s = .next t ∧ underTest t (.paddock pk) = false ∧
    (0 < (s.pdk pk).rows → t.pdk pk = { s.pdk pk with rows := (s.pdk pk).rows - 1 }) ∧
    ((s.pdk pk).rows = 0 → (t.pdk pk).wstate = .retired)) ∧
  (∀ (s : State) (pk : Nat), ∃ t, exec (.selfTestDone (.paddock pk) .transient) s = .next t ∧ underTest t (.paddock pk) = false ∧ t.pdks = s.pdks ∧
    (t.die (pk / 192)).errlog = (s.die (pk / 192)).errlog ++ [.test (.paddock pk) .transient]) ∧
  (∀ (s : State) (core : Nat),
    let used := ((s.bankRows.find? fun p => p.1 == core).map (·.2)).getD 0
    (used < Config.bankSpares core → ∃ t, exec (.selfTestDone (.bank core) .repaired) s = .next t ∧ t.pdks = s.pdks ∧
      t.bankRows.find? (fun p => p.1 == core) = some (core, used + 1) ∧ underTest t (.bank core) = false) ∧
    (Config.bankSpares core ≤ used → ∃ t, exec (.selfTestDone (.bank core) .repaired) s = .next t ∧
      (∀ p < 4, (t.pdk (core * 4 + p)).wstate = .retired) ∧ underTest t (.bank core) = false)) ∧
  (∀ (s : State) (core p : Nat), p < 4 → ∃ t, exec (.selfTestDone (.bank core) .lasting) s = .next t ∧ (t.pdk (core * 4 + p)).wstate = .retired ∧
    underTest t (.bank core) = false) ∧
  (∀ (s : State) (n : Nat) (r : TestResult), r ≠ .transient → ∃ t, exec (.selfTestDone (.channel n) r) s = .next t ∧
    (0 < (s.chan n).lanes → (t.chan n).lanes + 1 = (s.chan n).lanes ∧ (t.chan n).paused = true ∧ (t.chan n).since = s.clk (n % s.part.dies)) ∧
    ((s.chan n).lanes = 0 → (t.chan n).bare = true ∧ (t.chan n).paused = (s.chan n).paused)) ∧
  (∀ (s : State) (n : Nat), ∃ t, exec (.hbmChannelResume n) s = .next t ∧ t.chan n = { s.chan n with paused := false }) ∧
  (∀ (s : State) (n : Nat), n < portCount s.part → ∃ t, exec (.selfTestDone (.port n) .lasting) s = .next t ∧ (t.port n).fenced = true ∧
    underTest t (.port n) = false) ∧
  (∀ (s : State) (n : Nat) (r : TestResult), r ≠ .lasting → ∃ t, exec (.selfTestDone (.port n) r) s = .next t ∧
    t.port n = { s.port n with fails := 0 } ∧ underTest t (.port n) = false) ∧
  (∀ (s : State) (n : Nat), n < portCount s.part → (s.port n).fenced = false → underTest s (.port n) = false → ∃ t, exec (.flitCrcFail n) s = .next t ∧
    (t.port n).fenced = false ∧ (7 ≤ (s.port n).fails → underTest t (.port n) = true ∧ (t.port n).fails = 0) ∧
    ((s.port n).fails < 7 → (t.port n).fails = (s.port n).fails + 1)) ∧
  (∀ (s : State) (n : Nat) (r : Resend), s.resend[n]? = some r → resendDue s n = true → ∃ t, exec (.yardResend n) s = .next t ∧
    t.outbox = s.outbox ++ [r.msg] ∧ t.resend = s.resend.set n { r with sent := true }) ∧
  (∀ (s : State) (d : Nat), d < s.part.dies → (s.die d).failed = false → ∃ t, exec (.failover d) s = .next t ∧
    ((s.die d).failover = false → (s.die d).standby = true → (t.die d).failover = true ∧ (t.die d).standby = false ∧ t.outbox = s.outbox) ∧
    ((s.die d).failover = true → s.cuts = [] → s.resend = [] → (t.die d).failover = false ∧ (t.die d).held = [] ∧ t.outbox = s.outbox ++ (s.die d).held) ∧
    ((s.die d).failover = false → (s.die d).standby = false → d < 4 → (t.die d).failed = true ∧ t.fenced.getLsbD d = true ∧
      ∀ c ∈ s.ctxs, c.die = d → c.valid = true → (t.ctx c.id).killing ≠ 0)) ∧
  (∀ (s : State) (d i a : Nat), i < 192 → ∃ t, exec (.wearTick d [(i, a)]) s = .next t ∧ (t.die d).tick = s.clk d ∧
    (t.pdk (d * 192 + i)).wear = (s.pdk (d * 192 + i)).wear + (a * 2 ^ 32 + 500) / 1000 ∧
    (t.pdk (d * 192 + i)).peaks = dayPeak (s.pdk (d * 192 + i)).peaks (s.clk d) a ∧
    ((s.pdk (d * 192 + i)).wstate = .retired → (t.pdk (d * 192 + i)).wstate = .retired) ∧
    ((s.pdk (d * 192 + i)).wstate ≠ .retired → (t.pdk (d * 192 + i)).wstate = wearStateOf (t.pdk (d * 192 + i)).wear))

/-- R346, R367, R369, R370: derating, the lifetime record, the rails and bring-up: rails that go down lose all but flash, and a package
comes up with the wear that flash holds, 240 wu more where no orderly power-down closed the record. -/
def Sys2Proof.Claims.PowerSteps : Prop :=
  (∀ (s : State) (d : Nat), (∃ t, exec (.thermalDerate d) s = .next t ∧ t.die d = { s.die d with derated := true }) ∧
    ∃ t, exec (.thermalRestore d) s = .next t ∧ t.die d = { s.die d with derated := false }) ∧
  (∀ s : State, ∃ t, exec .lifetimeRecordWrite s = .next t ∧ t.recordAt = s.clk 0 ∧ t.flash.closed = false ∧ t.flash.node = s.flash.node ∧
    t.flash.record.map WearRec.id = s.pdks.map Pdk.id ∧ t.flash.record.map WearRec.wear = s.pdks.map Pdk.wear ∧
    t.flash.record.map WearRec.peaks = s.pdks.map Pdk.peaks ∧ t.flash.errs = s.dies.map (fun d => (d.id, d.errcnt)) ∧ t.mem = s.mem) ∧
  (∀ (i : Instr) (s : State), i = .railFault ∨ i = .thermalShutdown ∨ i = .powerDown → ∃ t, exec i s = .next t ∧ t.powered = false ∧
    t.mem = [] ∧ t.tags = [] ∧ t.slices = [] ∧ t.blocks = [] ∧ t.ctxs = [] ∧ t.flash.slotA = s.flash.slotA ∧ t.flash.slotB = s.flash.slotB ∧
    t.node = s.flash.node ∧ t.booted = false ∧ (i ≠ .powerDown → t.flash = s.flash) ∧
    (i = .powerDown → t.flash.closed = true ∧ t.flash.record.map WearRec.wear = s.pdks.map Pdk.wear)) ∧
  (∀ (s : State) (ok : BitVec 4), s.powered = true → s.booted = true → exec (.bringUp ok) s = .next s) ∧
  ∀ (s : State) (ok : BitVec 4), s.powered = false → ∃ t, exec (.bringUp ok) s = .next t ∧ t.powered = true ∧ t.booted = true ∧ t.node = s.node ∧
    t.flash.closed = false ∧ t.mem = s.mem ∧
    let a := fun d => Config.firmwareOk d s.flash.slotA
    let b := fun d => Config.firmwareOk d s.flash.slotB
    (∀ d < s.part.dies, (t.die d).slotB = (!a d && b d) ∧ (t.die d).recov = (!a d && !b d) ∧ (t.die d).finaliserOk = ok.getLsbD d) ∧
    (t.bootReady = true ↔ ∀ d < s.part.dies, a d = true ∨ b d = true) ∧
    ∀ i < 192 * s.part.dies, (t.pdk i).wear =
      (recGet WearRec.id { id := i } s.flash.record i).wear + (if s.flash.closed then 0 else 240 * 2 ^ 40)

/-- R354-R357: a breakpoint stops the block of the slice that is about to issue its word, and the end of a step stops it again. -/
def Sys2Proof.Claims.BlocksStop : Prop :=
  (∀ (s : State) (id i : Nat) (n : W16), breakAt s (s.slice id).ck (s.slice id).pc = some (n, i) → breakDue s (s.slice id) = true →
    let x := s.slice id
    let u := askStop (s.mapSlices fun y => if (formGroup s x).contains y.id then { y with bpDone := some y.pc } else y) x.block
      { cause := BitVec.ofNat 8 (2 + 16 * i), pc := x.pc, slice := id, node := some n }
    StopsNow u x.block → ∃ t, exec (.breakpointStop id) s = .next t ∧ Stopped s t x.block) ∧
  ∀ (s : State) (b : Nat), stepDue s b = true → StopsNow (askStop s b { cause := 4, pc := (firstPc s b).1, slice := (firstPc s b).2 }) b →
    ∃ t, exec (.stepEnd b) s = .next t ∧ Stopped s t b ∧ (t.block b).stepping = false

/-- R317, R339-R347, R354-R357, R367-R370: the steps that the hardware takes by itself for its health, its power and a debugger.
It rests on the model's own choices in logs 47, 77, 79, 80, 81, 83, 104, 105, 116, 123. -/
def Obligations.HealthPowerAndStops : Prop := HealthSteps ∧ PowerSteps ∧ BlocksStop

namespace Sys2Proof.Claims

/-- The message in hand reaches its endpoint: no port drops it for its form, no cut is recorded, no replay is under way and no
message has been refused. -/
def Arrives (s : State) : Prop := wellSent s.msg = true ∧ s.cuts = [] ∧ s.resend = [] ∧ s.replays = [] ∧ s.refused = []
/-- The one message that leaves answers the message in hand, with a type, a status and a payload (17 R290). -/
def Replied (s t : State) (type : Byte) (status : Nat) (payload : List Byte) : Prop :=
  ∃ r, t.outbox = s.outbox ++ [r] ∧ r.type = type ∧ r.dst = s.msg.src ∧ r.src = s.node ∧ r.tag = s.msg.tag ∧ r.grp = s.msg.grp ∧
    r.gen = s.msg.gen ∧ r.arg = BitVec.ofNat 16 status ∧ r.payload = payload
/-- The key and context that the die's commands of a message name. -/
def msgCtx (s : State) : Nat := msgDie s.msg * 64 + s.msg.arg.toNat % 64

end Sys2Proof.Claims

/-- R174, R292: a copy piece, a read and a far atomic at their target, and the data and results that come back. -/
def Sys2Proof.Claims.RemoteAccesses : Prop :=
  (∀ (s u : State) (o : Owner) (a : Nat), Arrives s → podAccess s s.msg.grp (s.msg.at' 0 8) (s.msg.pay.drop 8).length = some (o, a) →
    writeN s o 0 a (s.msg.pay.drop 8) = (.ok (), u) → ∃ t, exec .write s = .next t ∧ Replied s t mANSWER 0 [] ∧ t.mem = u.mem) ∧
  (∀ s : State, Arrives s → podAccess s s.msg.grp (s.msg.at' 0 8) (s.msg.pay.drop 8).length = none →
    ∃ t, exec .write s = .next t ∧ (∃ st, st ≠ 0 ∧ st < 8 ∧ Replied s t mANSWER st []) ∧ t.mem = s.mem) ∧
  (∀ (s u : State) (o : Owner) (a : Nat) (bs : List Byte), Arrives s → s.msg.at' 8 2 ≤ 256 →
    podAccess s s.msg.grp (s.msg.at' 0 8) (s.msg.at' 8 2) = some (o, a) → readN s o 0 a (s.msg.at' 8 2) = (.ok bs, u) →
    ∃ t, exec .read s = .next t ∧ Replied s t mDATA 0 bs ∧ t.mem = u.mem) ∧
  (∀ (s u : State) (o : Owner) (a : Nat) (w : Where), Arrives s →
    podAccess s s.msg.grp (s.msg.at' 0 8) (s.msg.at' 16 2) = some (o, a) → locate s o 0 a true true = (.ok w, u) →
    ∃ t, exec .fatm s = .next t ∧ Replied s t mANSWER 0 (leBytes 8 (leNat (u.rd w.key (s.msg.at' 16 2)))) ∧
      leNat (t.rd w.key (s.msg.at' 16 2)) = (leNat (u.rd w.key (s.msg.at' 16 2)) + s.msg.at' 8 8) % 2 ^ (8 * s.msg.at' 16 2)) ∧
  (∀ (s : State) (a : Await) (c : Command) (kd : Nat), Arrives s → Unparked s → awaited s s.msg = some a → olderGen s a.ctx s.msg.gen = false →
    a.kind = 2 → s.cmd a.cmd = some c → c.cmp < 16 → c.dying = false → s.sessions = [] → (c.pieceAt c.piece).dspace ∈ [1, 2, 3] →
    spaceKey s c.slice c.block (c.pieceAt c.piece).dspace ((c.pieceAt c.piece).dst + a.off) = some kd →
    s.msg.pay.length ≤ bankLeft s c.block (c.pieceAt c.piece).dspace ((c.pieceAt c.piece).dst + a.off) →
    ∃ t, exec .data s = .next t ∧ t.rd kd s.msg.pay.length = s.msg.pay ∧
      (∃ d, t.cmd c.id = some d ∧ d.off = a.off + s.msg.pay.length ∧ d.stage = 5 ∧ d.status = 1) ∧ t.awaits = s.awaits.erase a) ∧
  (∀ (s : State) (a : Await), Arrives s → Unparked s → awaited s s.msg = some a → olderGen s a.ctx s.msg.gen = false → a.kind = 1 → s.has a.slice →
    a.reg ≠ 0 → ∃ t, exec .answer s = .next t ∧
      t.slice a.slice = { s.slice a.slice with land := (s.slice a.slice).land ++ [.s a.reg (s.msg.arg.setWidth 64)] } ∧ t.awaits = s.awaits.erase a) ∧
  ∀ (s : State) (a : Await), Arrives s → awaited s s.msg = some a → olderGen s a.ctx s.msg.gen = true →
    ∃ t, exec .answer s = .next t ∧ t.slices = s.slices ∧
      let v := if (s.ctx a.ctx).valid then (s.ctx a.ctx).vdev else (s.ctx a.ctx).last
      (t.vdev v).stale = (s.vdev v).stale + 1

/-- R205, R294: a contribution at its home is added when its index is the next one; in a window of two members, whatever the
switches between, the first contribution waits in the tree, and with the second one sum goes to the home, the lower node's value
first. -/
def Sys2Proof.Claims.Reductions : Prop :=
  (∀ (s u : State) (w : RedWin) (x : Where), Arrives s → s.msg.arg ≠ 0x8000 → windowAt s s.msg.grp (s.msg.at' 0 8) = some w →
    locate s { k := w.ctx, gen := (s.ctx w.ctx).gen } 0 (w.base + s.msg.at' 0 8) false true = (.ok x, u) → u.red = [] → u.poison = [] →
    leNat (u.rd x.key 8) / 2 ^ 32 = s.msg.at' 8 4 →
    ∃ t, exec .red s = .next t ∧ Replied s t mANSWER 0 [] ∧ leNat (t.rd x.key 8) =
      (redAdd (BitVec.ofNat 32 (leNat (u.rd x.key 8) % 2 ^ 32)) (BitVec.ofNat 32 (s.msg.at' 12 4))).toNat + 2 ^ 32 * ((s.msg.at' 8 4 + 1) % 2 ^ 32)) ∧
  ∀ (s : State) (w : RedWin) (other : W16) (n : Msg), Arrives s → s.msg.arg ≠ 0x8001 → windowAt s s.msg.grp (s.msg.at' 0 8) = some w →
    w.members = [other, s.msg.src] ∨ w.members = [s.msg.src, other] → other ≠ s.msg.src → s.tree = [] →
    ∃ t h, exec .reductionTreeNode s = .next t ∧ t.tree = [h] ∧ h.window = w.index ∧ h.off = s.msg.at' 0 8 ∧ h.index.toNat = s.msg.at' 8 4 ∧
      h.value.toNat = s.msg.at' 12 4 ∧ h.summed = false ∧ t.outbox = s.outbox ∧
      (wellSent n = true → n.arg ≠ 0x8001 → n.src = other → n.grp = s.msg.grp → n.at' 0 8 = s.msg.at' 0 8 → n.at' 8 4 = s.msg.at' 8 4 →
        let mine : W32 := BitVec.ofNat 32 (s.msg.at' 12 4)
        let his : W32 := BitVec.ofNat 32 (n.at' 12 4)
        ∃ u m, exec .reductionTreeNode { t with msg := n } = .next u ∧ u.outbox = s.outbox ++ [m] ∧ m.type = mRED ∧ m.dst = s.node ∧
          m.payload = leBytes 8 (s.msg.at' 0 8) ++ leBytes 4 (s.msg.at' 8 4) ++
            leBytes 4 (if other.toNat < s.msg.src.toNat then redAdd his mine else redAdd mine his).toNat ∧
          ∀ x ∈ u.tree, x.summed = true)

/-- R274, R298: an invoke for a valid handler with room joins its queue, and is answered at once unless it asks for acknowledgement;
without room it is answered OVF; a valid launch joins its queue and is answered OK. -/
def Sys2Proof.Claims.InvokesAndLaunches : Prop :=
  (∀ (s : State) (k : Nat), Arrives s → Talks s (msgDie s.msg) → msgDie s.msg < s.part.dies → ctxOfGrp s (msgDie s.msg) s.msg.grp = some k →
    ((s.ctx k).handler (s.msg.arg.toNat % 256)).valid = true →
    let n := s.msg.arg.toNat % 256
    let room := ((s.ctx k).invokes.filter fun v => v.cls == msgCls s.msg).length < (s.ctx k).iqd ∧
      ((s.ctx k).outstanding.get n).toNat < ((s.ctx k).handler n).quota
    ∃ t, exec .invoke s = .next t ∧
      (room → (∃ v, (t.ctx k).invokes = (s.ctx k).invokes ++ [v] ∧ v.hnd = n ∧ v.cls = msgCls s.msg ∧ v.task = invokeTask s.msg n) ∧
        (t.ctx k).outstanding.get n = (s.ctx k).outstanding.get n + 1 ∧
        (s.msg.arg.getLsbD 15 = true → t.outbox = s.outbox) ∧ (s.msg.arg.getLsbD 15 = false → Replied s t mANSWER 0 [])) ∧
      (¬room → Replied s t mANSWER 1 [] ∧ (t.ctx k).invokes = (s.ctx k).invokes)) ∧
  (∀ s : State, Arrives s → Talks s (msgDie s.msg) → msgDie s.msg < s.part.dies → ctxOfGrp s (msgDie s.msg) s.msg.grp = none →
    ∃ t, exec .invoke s = .next t ∧ Replied s t mANSWER 2 [] ∧ t.ctxs = s.ctxs) ∧
  ∀ (s : State) (k : Nat), Arrives s → Talks s (msgDie s.msg) → msgDie s.msg < s.part.dies → k = msgDie s.msg * 64 + s.msg.at' 8 1 → s.msg.at' 8 1 < 64 →
    olderGen s k s.msg.gen = false → (s.ctx k).valid = true → (s.ctx k).killing = 0 → launchRes s.msg = false → s.msg.at' 9 1 = 0 →
    s.msg.len.toNat = 32 → s.msg.at' 0xC 2 < (s.ctx k).launchTable.length →
    let q := s.msg.arg.toNat % 64
    ((s.ctx k).queue q).2.1 = true →
    ∃ t, exec .launchMessage s = .next t ∧
      (((s.ctx k).lq.filter fun p => p.1 == q).length < ((s.ctx k).queue q).2.2.2 →
        Replied s t mANSWER 0 [] ∧ ∃ e, (t.ctx k).lq = (s.ctx k).lq ++ [(q, e)] ∧ e.htag.toNat = s.msg.at' 0 8 ∧
          e.lrec = (s.ctx k).launchTable.getD (s.msg.at' 0xC 2) {} ∧ e.inline = false) ∧
      (((s.ctx k).queue q).2.2.2 ≤ ((s.ctx k).lq.filter fun p => p.1 == q).length →
        Replied s t mANSWER 1 [] ∧ (t.ctx k).lq = (s.ctx k).lq)

/-- R186, R171, R207, R291, R358: cached entries that an INVAL covers are gone and the host is told; a page response has the command
retried; arrivals of another node count at the home; a refused message waits to be sent again; a marker closes its channel. -/
def Sys2Proof.Claims.OtherMessages : Prop :=
  (∀ s : State, Arrives s → olderGen s (msgCtx s) s.msg.gen = false → s.msg.arg.toNat < 64 → s.msg.at' 8 8 ≠ 0 →
    s.msg.at' 0 8 + s.msg.at' 8 8 ≤ 2 ^ 57 → s.msg.at' 0 8 < 2 ^ 57 → (s.vdev (s.ctx (msgCtx s)).vdev).resident = true →
    Talks s (msgDie s.msg) →
    ∃ t r, exec .inval s = .next t ∧ t.outbox = s.outbox ++ [r] ∧ r.type = mINVALDONE ∧ r.dst = s.msg.src ∧ r.tag = s.msg.tag ∧ r.arg = 0 ∧
      r.gen = s.msg.gen ∧
      (∀ e, e ∈ t.tlb ↔ e ∈ s.tlb ∧ ¬(e.die = msgDie s.msg ∧ e.ctx = msgCtx s % 64 ∧ e.base < s.msg.at' 0 8 + s.msg.at' 8 8 ∧
        s.msg.at' 0 8 < e.base + e.size)) ∧ t.mem = s.mem) ∧
  (∀ (s : State) (c : Command), Arrives s → Talks s (msgDie s.msg) → s.msg.gen = (s.ctx (msgCtx s)).gen →
    parkedUnder s (msgCtx s) (BitVec.ofNat 32 (s.msg.at' 0 4)) = some c → s.cmd c.id = some c →
    ∃ t d, exec .pageResp s = .next t ∧ t.cmd c.id = some d ∧ d.status = 4 ∧ d.off = c.off ∧ d.piece = c.piece ∧
      ∀ v ∈ t.saved, v.block = c.block → v.ready = true) ∧
  (∀ (s : State) (j : PodJoin) (b : Bar), Arrives s → s.joins.find? (fun j => j.grp == s.msg.grp && j.j.toNat == s.msg.at' 2 2) = some j →
    s.bars.find? (fun b => b.level == .pod && b.owner == j.key && b.num == s.msg.at' 1 1) = some b → s.bar b.id = b → s.msg.at' 0 1 = 1 →
    b.arrivals + s.msg.at' 4 4 < b.expected → ∃ t, exec .barrier s = .next t ∧ t.bar b.id = { b with arrivals := b.arrivals + s.msg.at' 4 4 }) ∧
  (∀ (s : State) (x : Msg), Arrives s → s.awaits = [] → s.resend = [] → s.outbox = [x] → x.dst = s.msg.src → x.tag = s.msg.tag → x.type ≠ mNACK →
    ∃ t, exec .nack s = .next t ∧ t.outbox = [] ∧ t.resend = [{ msg := x, refusals := 1, due := s.hopClk + 128 }]) ∧
  ∀ (s : State) (c : Cut), wellSent s.msg = true → s.cuts = [c] → c.die = msgDie s.msg → c.grp = s.msg.grp → c.num.toNat = s.msg.at' 0 4 → c.asked = none →
    s.refused = [] →
    let due := c.due.erase (s.msg.src, s.msg.at' 4 1)
    let whole := c.written = false ∧ due = [] ∧ ∀ b ∈ groupBlocks s c.die c.grp, b.run ≠ .running
    ∃ t, exec .marker s = .next t ∧ (¬whole → t.cuts = [{ c with due := due }] ∧ t.dumps = s.dumps) ∧
      (whole → t.cuts = [{ c with due := [], written := true }] ∧ ∃ bs, t.dumps = s.dumps ++ [(c.dest.toNat, bs)])

/-- R171, R174, R186, R205, R207, R274, R290-R294, R298, R358: what the messages that arrive do.
It rests on the model's own choices in logs 12, 32, 43, 46, 61, 62, 106. -/
def Obligations.MessagesTakeEffect : Prop := RemoteAccesses ∧ Reductions ∧ InvokesAndLaunches ∧ OtherMessages

namespace Sys2Proof.Claims

/-- A management command that its die takes up: `open'` for those that any node may send, `always` for those that a die in recovery
answers (23 R372). -/
def Taken (s : State) (open' always : Bool) : Prop :=
  wellSent s.msg = true ∧ msgDie s.msg < s.part.dies ∧ controllerUp s (msgDie s.msg) = true ∧
    (always = false → (s.die (msgDie s.msg)).recov = false) ∧ mgmtBusy s (msgDie s.msg) = false ∧ (open' = false → mgmtNode s s.msg = true)
/-- The last message out answers the command in hand. -/
def Answers (s t : State) (status : Nat) (payload : List Byte) : Prop :=
  ∃ xs r, t.outbox = s.outbox ++ xs ++ [r] ∧ r.type = mANSWER ∧ r.dst = s.msg.src ∧ r.tag = s.msg.tag ∧ r.arg = BitVec.ofNat 16 status ∧
    r.payload = payload
/-- The key of the context that the byte at an offset of the command's payload names, live. -/
def Live (s : State) (off k : Nat) : Prop := liveCtx s s.msg off = .ok k
/-- A kill of a context has begun, and the command waits for the end of it. -/
def KillBegun (s t : State) (k : Nat) : Prop :=
  (t.ctx k).killing = 1 ∧ (t.ctx k).gen = (s.ctx k).gen + 1 ∧ (t.ctx k).lq = [] ∧ (t.ctx k).invokes = [] ∧
    (∀ c ∈ t.cmds, c.ctx ≠ k) ∧ (∀ b ∈ t.blocks, b.ck = k → b.run = .stopped ∨ b.run = .ended)
/-- The bit of a paddock in the mask of a command. -/
def inMask (s : State) (off pk : Nat) : Prop := pk ∈ maskPdks s.msg off

end Sys2Proof.Claims

/-- R370-R372, R375: STATUS, the attestation report in 16 fragments, the registers, firmware, the package's reset, and a code that is
not assigned. -/
def Sys2Proof.Claims.PackageCommands : Prop :=
  (∀ s : State, Taken s true true → ∃ t, exec .status s = .next t ∧ Answers s t 0 (leBytes 8 (statusReg s (msgDie s.msg)))) ∧
  (∀ s : State, Taken s true true → msgDie s.msg = 0 → payOk s.msg 32 [] = true → ∃ t rs, exec .attest s = .next t ∧ t.outbox = s.outbox ++ rs ∧
    rs.length = 16 ∧ ∀ i < 16, ∃ r, rs[i]? = some r ∧ r.type = mANSWER ∧ r.dst = s.msg.src ∧
      r.payload = ((report s (s.msg.pay.take 32)).drop (256 * i)).take 256 ∧ r.arg = BitVec.ofNat 16 (i + if i = 15 then 0x8000 else 0)) ∧
  (∀ s : State, Taken s false false → payOk s.msg 8 [(2, 6)] = true → ∃ t, exec .regrd s = .next t ∧
    let d := msgDie s.msg
    match s.msg.at' 0 2 with
    | 0 => Answers s t 0 (leBytes 8 (s.part.code + 2 ^ 16 * d))
    | 1 => Answers s t 0 (leBytes 8 (statusReg s d))
    | 2 => Answers s t 0 (leBytes 8 (s.die d).mgmtNodes.toNat)
    | 3 => Answers s t 0 (leBytes 8 s.flash.node.toNat)
    | 4 => ∃ v, Answers s t 0 v
    | 5 => ∃ v, Answers s t 0 v
    | 6 => Answers s t 0 (leBytes 8 (s.die d).errcnt.toNat)
    | _ => Answers s t 1 []) ∧
  (∀ s : State, Taken s false false → payOk s.msg 16 [(2, 6)] = true → ∃ t, exec .regwr s = .next t ∧
    (s.msg.at' 0 2 = 2 → Answers s t 0 [] ∧ (t.die (msgDie s.msg)).mgmtNodes = BitVec.ofNat 64 (s.msg.at' 8 8)) ∧
    (s.msg.at' 0 2 = 3 → s.msg.at' 8 8 < 2 ^ 16 → Answers s t 0 [] ∧ t.flash.node.toNat = s.msg.at' 8 8) ∧
    (s.msg.at' 0 2 ≠ 2 → s.msg.at' 0 2 ≠ 3 → Answers s t 1 [] ∧ t.flash = s.flash)) ∧
  (∀ s : State, Taken s false true → s.msg.at' 4 1 ≤ 1 → s.msg.at' 5 3 = 0 → 16 ≤ s.msg.len.toNat → s.msg.len.toNat ≤ 264 →
    s.msg.at' 0 4 + (s.msg.len.toNat - 8) ≤ slotBytes → ∃ t, exec .fwwrite s = .next t ∧ Answers s t 0 [] ∧
      let other := fun (u : State) => if (s.die (msgDie s.msg)).slotB || (s.die (msgDie s.msg)).recov then u.flash.slotA else u.flash.slotB
      (∀ j < s.msg.len.toNat - 8, (other t).getD (s.msg.at' 0 4 + j) 0 = (s.msg.pay.drop 8).getD j 0) ∧
      (∀ j < s.msg.at' 0 4, (other t).getD j 0 = (other s).getD j 0)) ∧
  (∀ s : State, Taken s false false → ∃ t, exec .reset s = .next t ∧ Answers s t 0 [] ∧ t.slices = [] ∧ t.blocks = [] ∧ t.ctxs = [] ∧ t.cmds = [] ∧
    t.bootReady = false ∧ t.mem = s.mem ∧ t.flash = s.flash ∧ t.pdks.map Pdk.wear = s.pdks.map Pdk.wear) ∧
  ∀ s : State, Taken s false false → ∃ t, exec .mgmtUnknownCode s = .next t ∧ Answers s t 4 [] ∧ t.mem = s.mem ∧ t.ctxs = s.ctxs

/-- R296, R303, R304, R316, R301, R373, R372: a context is written and killed; residency begins where a slot and room are there and ends
where no block is left; the slot that issues changes; running blocks are asked for pre-emption, and the command is answered once
their requests have ended; an image is loaded. -/
def Sys2Proof.Claims.ContextCommands : Prop :=
  (∀ (s : State) (k part o : Nat) (bs : List Byte) (n : Ctx), Taken s false false → ctxwrArgs s.msg = some (k, part, o, bs) →
    (s.ctx k).killing = 0 → ctxWritten s k part o bs = some n → ((s.ctx k).valid = true → n.valid = true) →
    ∃ t, exec .ctxwr s = .next t ∧ t.ctx k = { n with born := (t.ctx k).born } ∧ ((s.ctx k).valid = n.valid → t.ctx k = n) ∧ Answers s t 0 [] ∧ ∀ j, j ≠ k → t.ctx j = s.ctx j) ∧
  (∀ (s : State) (k : Nat), Taken s false false → payOk s.msg 8 [(1, 7)] = true → Live s 0 k →
    ∃ t, exec .ctxkill s = .next t ∧ KillBegun s t k ∧ t.mgmt = s.mgmt ++ [(s.msg, ctxKeys s k)]) ∧
  (∀ (s : State) (k pk : Nat), Taken s false false → payOk s.msg 32 [(2, 6)] = true → s.msg.at' 1 1 = 1 → Live s 0 k → maskPdks s.msg 8 = [pk] →
    (s.pdk pk).slot0 = none → (s.pdk pk).slot1 = none → (s.pdk pk).vdev = some (s.ctx k).vdev → (s.pdk pk).wstate = .nominal → s.tests = [] →
    (s.ctx k).pool + 1 ≤ 64 → (s.ctx k).left = [] → ∃ t, exec .resideMake s = .next t ∧ (t.pdk pk).slot0 = some (k % 64) ∧ (t.pdk pk).slot1 = none ∧
      Answers s t 0 (leBytes 24 (2 ^ (pk % 192)))) ∧
  (∀ (s : State) (k pk : Nat), Taken s false false → payOk s.msg 32 [(2, 6)] = true → s.msg.at' 1 1 = 0 → Live s 0 k → maskPdks s.msg 8 = [pk] →
    (s.pdk pk).slot0 = some (k % 64) → blocksOn s k pk = [] → ((s.ctx k).prot = true → (endResident s k pk).isSome = true) →
    ∃ t, exec .resideEnd s = .next t ∧ (t.pdk pk).slot0 = none ∧ Answers s t 0 (leBytes 24 (2 ^ (pk % 192)))) ∧
  (∀ s : State, Taken s false false → payOk s.msg 8 [(2, 6)] = true → s.msg.at' 0 1 < 48 → s.msg.at' 1 1 < 4 →
    let pk := msgDie s.msg * 192 + 4 * s.msg.at' 0 1 + s.msg.at' 1 1
    ∃ t, exec .switch s = .next t ∧ (t.pdk pk).issuing = 1 - (s.pdk pk).issuing ∧ Answers s t 0 []) ∧
  (∀ (i : Instr) (op k : Nat) (p : State → Block → Prop) (s : State),
    (i = .preemptBlock ∧ op = 0 ∧ (p = fun s b => (s.grid b.grid).htag.toNat = s.msg.at' 8 8 ∧ b.blk.toNat = s.msg.at' 16 6)) ∨
      (i = .preemptGrid ∧ op = 1 ∧ (p = fun s b => (s.grid b.grid).htag.toNat = s.msg.at' 8 8)) ∨
      (i = .preemptContext ∧ op = 2 ∧ (p = fun _ _ => True)) →
    Taken s false false → payOk s.msg 24 [(2, 6), (22, 2)] = true → s.msg.at' 1 1 = op → Live s 0 k → (s.blocks.map Block.id).Nodup →
    (∃ b ∈ s.blocks, b.ck = k ∧ b.run ≠ .ended ∧ p s b) →
    ∃ t ids, exec i s = .next t ∧ t.asked = s.asked ++ [(s.msg, ids)] ∧ t.outbox = s.outbox ∧
      (∀ n, n ∈ ids ↔ ∃ b ∈ s.blocks, b.id = n ∧ b.ck = k ∧ b.run ≠ .ended ∧ p s b) ∧
      ∀ b ∈ s.blocks, b.ck = k → p s b → b.run = .running → b.preempt = none →
        (t.block b.id).preempt = some (s.clk b.die + (s.ctx k).preto * 1750)) ∧
  (∀ (s : State) (m : Msg) (ids : List Nat), s.asked = [(m, ids)] →
    ((∃ n ∈ ids, (s.block n).run = .running ∧ ((s.block n).preempt.isSome = true ∨ (s.block n).stepping = true)) → askedSettle s = s) ∧
    ((∀ n ∈ ids, (s.block n).run ≠ .running ∨ (s.block n).preempt = none ∧ (s.block n).stepping = false) →
      ∃ r, (askedSettle s).outbox = s.outbox ++ [r] ∧ (askedSettle s).asked = [] ∧ r.type = mANSWER ∧ r.dst = m.src ∧ r.tag = m.tag ∧ r.arg = 0)) ∧
  ∀ (s u : State) (k : Nat) (g : LoadImg), Taken s false false → payOk s.msg 32 [(2, 6)] = true → s.msg.at' 1 1 ≤ 1 → Live s 0 k →
    readLoad s k (s.msg.at' 8 8) = (some g, u) → g.launches.all (launchOk g) = true → g.handlers.all (handlerOk g) = true → g.relocs = [] →
    s.msg.at' 16 8 % 2 ^ g.calign = 0 → s.msg.at' 24 8 % 2 ^ g.dalign = 0 → s.msg.at' 16 8 + g.code.length ≤ 2 ^ 57 →
    s.msg.at' 24 8 + g.data.length ≤ 2 ^ 57 → (mappedRW u k g.code.length (s.msg.at' 16 8) g.code.length).1 = true →
    (mappedRW (mappedRW u k g.code.length (s.msg.at' 16 8) g.code.length).2 k g.data.length (s.msg.at' 24 8) g.data.length).1 = true →
    ∃ t v, exec .load s = .next t ∧ Answers s t 0 v ∧ (t.ctx k).codeb = s.msg.at' 16 8 ∧ (t.ctx k).codel = g.code.length ∧
      (t.ctx k).launchTable = g.launches.map (fun b => packetRec (rebase (s.msg.at' 16 8) (s.msg.at' 24 8) b))

/-- R207, R294, R312, R313, R314, R333, R352, R374: images leave and come in, paddocks and resources of virtual devices, windows and
joins, and debug sessions. -/
def Sys2Proof.Claims.DeviceCommands : Prop :=
  (∀ (s : State) (k : Nat) (v : Saved), Taken s false false → payOk s.msg 32 [(2, 6), (28, 4)] = true → s.msg.at' 1 1 = 0 → s.msg.at' 26 1 < 4 →
    s.msg.at' 27 1 < 64 → Live s 0 k → s.saved.find? (fun v => v.addr == s.msg.at' 8 8 && (s.block v.block).ck == k) = some v →
    (s.ctx k).prot = false → v.len ≤ s.msg.at' 16 8 → (s.vdev (s.ctx k).vdev).resident = true → s.cuts = [] → s.resend = [] → (s.block v.block).id = v.block →
    (s.block v.block).run = .saved →
    (let g := s.grid (s.block v.block).grid; g.die * 64 + g.ctx = k) →
    ∃ t, exec .migrateExport s = .next t ∧ Answers s t 0 (leBytes 8 v.len) ∧ (t.block v.block).run = .ended ∧
      t.saved = s.saved.filter (fun w => w.block != v.block) ∧
      t.rd (v.addr + 4) 4 = leBytes 4 (ctxId (BitVec.ofNat 16 (s.msg.at' 24 2)) (s.msg.at' 26 1) (s.msg.at' 27 1)) ∧
      t.rd (v.addr + 0x1E) 2 = leBytes 2 (s.ctx k).gen.toNat) ∧
  (∀ (s u : State) (k : Nat), Taken s false false → payOk s.msg 32 [(2, 6), (28, 4)] = true → s.msg.at' 1 1 = 1 → Live s 0 k →
    importImage s k (s.msg.at' 8 8) (s.msg.at' 16 8) false = some u → (∀ b ∈ s.blocks, b.id < s.uid) →
    ∃ t v, exec .migrateImport s = .next t ∧ Answers s t 0 (leBytes 8 (s.msg.at' 16 8)) ∧ t.saved = s.saved ++ [v] ∧
      v.addr = s.msg.at' 8 8 ∧ v.len = s.msg.at' 16 8 ∧ (t.block v.block).run = .saved ∧ (t.block v.block).ctx = k % 64) ∧
  (∀ s : State, Taken s false false → payOk s.msg 32 [(1, 7)] = true → s.msg.at' 0 1 < 32 → s.msg.arg = 0x18 →
    (reassigned s (s.msg.at' 0 1) (msgDie s.msg) (maskPdks s.msg 8)).flatMap (ctxsOfVdev s) = [] →
    ∃ t, exec .vdev s = .next t ∧ Answers s t 0 [] ∧ (∀ pk, inMask s 8 pk → (t.pdk pk).vdev = some (s.msg.at' 0 1)) ∧
      ∀ pk, pk / 192 = msgDie s.msg → ¬inMask s 8 pk → (t.pdk pk).vdev ≠ some (s.msg.at' 0 1)) ∧
  (∀ (i : Instr) (op : Nat) (r : Bool) (s : State), (i = .vdresClearResident ∧ op = 0 ∧ r = false) ∨ (i = .vdresSetResident ∧ op = 1 ∧ r = true) →
    Taken s false false → payOk s.msg 16 [(3, 5)] = true → s.msg.at' 0 1 < 32 → s.msg.at' 1 1 = op →
    ∃ t, exec i s = .next t ∧ Answers s t 0 [] ∧ t.vdev (s.msg.at' 0 1) = { s.vdev (s.msg.at' 0 1) with resident := r }) ∧
  (∀ s : State, Taken s false false → payOk s.msg 16 [(3, 5)] = true → s.msg.at' 0 1 < 32 → s.msg.at' 1 1 = 2 → s.msg.arg.toNat = 0x19 →
    ∃ t, exec .vdresReset s = .next t ∧ (∀ k ∈ ctxsOfVdev s (s.msg.at' 0 1), (t.ctx k).killing ≠ 0) ∧
      (ctxsOfVdev s (s.msg.at' 0 1) = [] → Answers s t 0 [])) ∧
  (∀ s : State, Taken s false false → payOk s.msg 16 [(3, 5)] = true → s.msg.at' 0 1 < 32 → s.msg.at' 1 1 = 3 → 4 ≤ s.msg.at' 2 1 →
    s.msg.at' 2 1 ≤ 12 → s.msg.at' 8 8 % 4096 = 0 → s.msg.at' 8 8 + 64 * 2 ^ s.msg.at' 2 1 ≤ s.part.hbmBytes →
    ∃ t, exec .vdresSetLog s = .next t ∧ Answers s t 0 [] ∧ t.vdev (s.msg.at' 0 1) =
      { s.vdev (s.msg.at' 0 1) with logBase := s.msg.at' 8 8, logK := s.msg.at' 2 1, head := 0, tail := 0, drops := 0 }) ∧
  (∀ (s : State) (k : Nat), Taken s false false → payOk s.msg (24 + 2 * s.msg.at' 2 1) [(4, 4)] = true → 2 ≤ s.msg.at' 2 1 → s.msg.at' 2 1 ≤ 64 →
    s.msg.at' 8 8 + s.msg.at' 16 8 ≤ 2 ^ 57 → Live s 3 k → ∃ t w, exec .redwin s = .next t ∧ Answers s t 0 [] ∧
      t.windows.find? (fun x => x.index == s.msg.at' 0 2) = some w ∧ w.ctx = k ∧ w.base = s.msg.at' 8 8 ∧ w.len = s.msg.at' 16 8 ∧
      w.members.length = s.msg.at' 2 1) ∧
  (∀ (s : State) (k : Nat), Taken s false false → payOk s.msg (8 + 2 * s.msg.at' 6 1) [] = true → s.msg.at' 0 2 ≠ 0 → s.msg.at' 4 2 ≠ 0 →
    s.msg.at' 4 2 ≤ 1024 → s.msg.at' 6 1 ≠ 0 → Live s 7 k → s.joins = [] →
    ∃ t j, exec .podjoin s = .next t ∧ Answers s t 0 [] ∧ t.joins = [j] ∧ j.grp = (s.ctx k).grp ∧ j.j.toNat = s.msg.at' 0 2 ∧
      j.home.toNat = s.msg.at' 2 2 ∧ j.m = s.msg.at' 4 2 ∧
      ∀ n < 2, ∃ b ∈ t.bars, b.level = .pod ∧ b.owner = j.key ∧ b.num = n ∧ b.arrivals = 0 ∧ b.expected = 0) ∧
  (∀ (s : State) (k i : Nat) (x : Session), Taken s false false → s.msg.at' 1 1 = 0 → Live s 0 k →
    (List.range 4).find? (fun i => !(s.sessions.any fun x => x.key == msgDie s.msg * 4 + i)) = some i → sessionOf s s.msg k i = some x → s.carried = [] →
    ∃ t u, exec .sessionOpen s = .next t ∧ t.sessions = s.sessions ++ [{ x with uid := u }] ∧ Answers s t 0 [BitVec.ofNat 8 i]) ∧
  (∀ (s : State) (k : Nat) (x y : Session), Taken s false false → s.msg.at' 1 1 = 1 → Live s 0 k → namedSession s s.msg k = some x →
    sessionOf s s.msg k x.id = some y → ∃ t, exec .sessionConfigure s = .next t ∧ Answers s t 0 [BitVec.ofNat 8 x.id] ∧
      t.sessions = s.sessions.map fun z => if z.key = x.key then configured x y else z) ∧
  ∀ (i : Instr) (op : Nat) (s : State) (k : Nat) (x : Session), (i = .sessionResetQueue ∧ op = 2) ∨ (i = .sessionClose ∧ op = 3) →
    Taken s false false → s.msg.at' 1 1 = op → Live s 0 k → namedSession s s.msg k = some x →
    ∃ t, exec i s = .next t ∧ Answers s t 0 [BitVec.ofNat 8 x.id] ∧ t.sessions = s.sessions.filter fun z => z.key != x.key

/-- R354-R360, R374: a block is stopped, stepped, continued and killed by command; a cut begins and ends; a section is replayed: its
images become saved blocks that are held, and once they have come back the command is answered and, with the last die of the
group, issue is released. -/
def Sys2Proof.Claims.DebugCommands : Prop :=
  let named := fun (s : State) (op k : Nat) (b : Block) => Taken s false false ∧ payOk s.msg 16 [(10, 6)] = true ∧ s.msg.at' 1 1 = op ∧ Live s 0 k ∧
    blockNamed s k (s.msg.at' 4 6) = some b ∧ sessionsOf s k ≠ [] ∧ s.block b.id = b
  let goes := fun (s : State) (b : Block) => ∃ y ∈ s.slices, y.block = b.id ∧ y.handler = false ∧ y.run ≠ .retired ∧ y.alive ≠ 0 ∧ s.slice y.id = y
  (∀ (s : State) (k : Nat) (b : Block), named s 0 k b → b.run = .running → b.stop = none →
    StopsNow (askStop s b.id { cause := 3, pc := (firstPc s b.id).1, slice := (firstPc s b.id).2, msg := some s.msg }) b.id →
    ∃ t, exec .debugStop s = .next t ∧ Stopped s t b.id ∧ Answers s t 0 []) ∧
  (∀ (s : State) (k : Nat) (b : Block), named s 1 k b → b.run = .stopped → s.msg.at' 2 2 ≠ 0 → goes s b →
    ∃ t, exec .debugStep s = .next t ∧ (t.block b.id).run = .running ∧ (t.block b.id).stepping = true ∧
      t.asked = s.asked ++ [(s.msg, [b.id])]) ∧
  (∀ (s : State) (k : Nat) (b : Block), named s 2 k b → b.run = .stopped → goes s b →
    ∃ t, exec .debugContinue s = .next t ∧ (t.block b.id).run = .running ∧ (t.block b.id).stepping = false ∧ Answers s t 0 []) ∧
  (∀ (s : State) (k : Nat) (b : Block), named s 3 k b → b.run = .stopped → (s.slices.map Slice.id).Nodup →
    ∃ t, exec .debugKill s = .next t ∧ Answers s t 0 [] ∧ ∀ x ∈ t.slices, x.block = b.id → x.handler = false → x.run = .retired) ∧
  (∀ s : State, Taken s false false → payOk s.msg (16 + 2 * s.msg.at' 6 1) [(10, 6)] = true → s.msg.at' 7 1 = 0 → s.cuts = [] → s.sessions = [] → s.resend = [] →
    groupCtxs s (msgDie s.msg) (BitVec.ofNat 16 (s.msg.at' 4 2)) ≠ [] → (nodesAt s.msg 16 (s.msg.at' 6 1)).contains s.node = true →
    (2 ≤ s.part.dies ∨ ∃ n ∈ nodesAt s.msg 16 (s.msg.at' 6 1), n ≠ s.node) → groupBlocks s (msgDie s.msg) (BitVec.ofNat 16 (s.msg.at' 4 2)) = [] →
    ∃ t c ms, exec .cutStart s = .next t ∧ t.cuts = [c] ∧ c.die = msgDie s.msg ∧ c.grp = BitVec.ofNat 16 (s.msg.at' 4 2) ∧
      c.num = BitVec.ofNat 32 (s.msg.at' 0 4) ∧ c.told = false ∧ c.written = false ∧ t.outbox = s.outbox ++ ms ∧ ms.map Msg.dst = c.due.map Prod.fst ∧
      ms.map msgDie = c.due.map (fun p => p.2 % 4) ∧ ∀ m ∈ ms, m.type = mMARKER) ∧
  (∀ (i : Instr) (op : Nat) (s : State) (c : Cut), (i = .cutContinue ∧ op = 1) ∨ (i = .cutEnd ∧ op = 2) → Taken s false false →
    payOk s.msg (16 + 2 * s.msg.at' 6 1) [(10, 6)] = true → s.msg.at' 7 1 = op →
    s.cuts.find? (fun c => c.die == msgDie s.msg && c.grp == BitVec.ofNat 16 (s.msg.at' 4 2) && c.num == BitVec.ofNat 32 (s.msg.at' 0 4)) = some c →
    s.cuts = [c] → s.resend = [] → c.told = true → c.held = [] → groupBlocks s c.die c.grp = [] →
    ∃ t r, exec i s = .next t ∧ t.cuts = [] ∧
      t.outbox = s.outbox ++ c.out ++ [r] ∧ r.type = mANSWER ∧ r.dst = s.msg.src ∧ r.arg = 0) ∧
  (∀ (s u : State) (k e : Nat), Taken s false false → payOk s.msg 24 [(2, 6)] = true → 64 ≤ s.msg.at' 16 8 →
    s.msg.at' 8 8 + s.msg.at' 16 8 ≤ s.part.hbmBytes → leAt (s.rd (s.msg.at' 8 8) 64) 4 2 = s.msg.at' 0 2 →
    ctxOfGrp s (msgDie s.msg) (BitVec.ofNat 16 (s.msg.at' 0 2)) = some k →
    importImages k (leAt (s.rd (s.msg.at' 8 8) 64) 0x18 4) (s.msg.at' 8 8 + 64) s = some (u, e) → e ≤ s.msg.at' 8 8 + s.msg.at' 16 8 →
    leAt (s.rd (s.msg.at' 8 8) 64) 0x1C 4 = 0 → s.replays = [] →
    ∃ t, exec .replay s = .next t ∧ t.saved = u.saved ∧ t.blocks = u.blocks ∧ t.outbox = u.outbox ∧
      t.replays = [{ grp := BitVec.ofNat 16 (s.msg.at' 0 2), waiting := [(msgDie s.msg, [], s.msg)] }]) ∧
  ∀ (s : State) (g : W16) (d : Nat) (m : Msg), s.replays = [{ grp := g, waiting := [(d, [], m)] }] → d < s.part.dies → (ctxOfGrp s d g).isSome = true →
    (stillAway s d g = true → replaysSettle s = s) ∧
    (stillAway s d g = false → (∀ e < s.part.dies, e ≠ d → ctxOfGrp s e g = none) →
      ∃ r, (replaysSettle s).outbox = s.outbox ++ [r] ∧ r.type = mANSWER ∧ r.dst = m.src ∧ r.tag = m.tag ∧ r.arg = 0 ∧
        (replaysSettle s).replays = [] ∧ ∀ b ∈ (replaysSettle s).blocks, (s.ctx b.ck).grp = g → b.hold = false)

/-- R371-R375, R296-R317: package and context commands of management.
It rests on the model's own choices in logs 63, 64, 65, 66, 67, 69, 76, 77, 78, 99, 131. -/
def Obligations.ManagementOfPackageAndContexts : Prop := PackageCommands ∧ ContextCommands
/-- R207, R294, R312, R313, R333, R349-R360, R374: device and debug commands of management.
It rests on the model's own choices in logs 64, 67, 68, 71, 72, 73, 74, 75, 96, 102, 123. -/
def Obligations.ManagementOfDevicesAndDebug : Prop := DeviceCommands ∧ DebugCommands

namespace Sys2Proof.Claims

/-- What the kernel header allows beside what the word alone decides: byte barriers and core barriers that it declares (03 R64, R77). -/
def admits (h : Hdr) : Instr → Bool
  | .barArr .core n => decide (n.toNat < h.cbar)
  | .barWait .core n => decide (n.toNat < h.cbar)
  | .bbExp b _ => decide (b.toNat < h.bb)
  | .bbArr _ b => decide (b.toNat < h.bb)
  | .bbArrDecl _ b => decide (b.toNat < h.bb)
  | .bbArrLeave _ b => decide (b.toNat < h.bb)
  | .bbWait b _ => decide (b.toNat < h.bb)
  | .cpy f _ _ => cmpOk h f.cmp
  | .cpy2d f _ _ => cmpOk h f.cmp
  | .cpyG _ f _ _ => cmpOk h f.cmp
  | .cpyS _ f _ _ => cmpOk h f.cmp
  | .kvc _ cmp _ _ _ _ _ _ => cmpOk h cmp
  | _ => true
/-- A version that a kernel of the header's generation may carry (03 R53). -/
def versionOk (h : Hdr) (v : BitVec 2) : Prop := v ≠ 3 ∧ (v = 2 → h.gen7 = true)

end Sys2Proof.Claims

/-- R52-R75: the word of a well-formed instruction decodes to that instruction with every operand, whatever its scheduling fields. -/
def Obligations.WordsDecodeToWhatTheyEncode : Prop :=
  ∀ (h : Hdr) (c : Sched) (i : Instr) (w : Nat), i.wf = true → admits h i = true → versionOk h c.ver → encode c i = some w →
    w < 2 ^ 64 ∧ decode h w = .ok i ∧ Sched.of w = c

/-- R52-R77: a word that decodes is the one word of its instruction, which is well formed: no bit of a word is left unread, and no
encoding that R77 refuses falls through to a neighbour. It rests on the model's own choices in log 11. -/
def Obligations.DecodedWordsEncodeBack : Prop :=
  ∀ (h : Hdr) (w : Nat) (i : Instr), w < 2 ^ 64 → decode h w = .ok i →
    (∃ o, i = .unassignedOpcode o ∧ o.toNat = w / 2 ^ 8 % 2 ^ 8) ∨
      (i.wf = true ∧ admits h i = true ∧ versionOk h (Sched.of w).ver ∧ encode (Sched.of w) i = some w)

/-- R53, R67-R76: words of the manual's own examples, and words that it refuses with a subcode.
It rests on the model's own choices in log 11. -/
def Obligations.SpecWordsDecode : Prop :=
  decode {} 0x0000000000000000 = .ok .nop ∧
  decode {} 0x0000000410702000 = .ok (.sadd 7 4 (.reg 4)) ∧
  decode {} 0x0000C00014502000 = .ok (.sadd 5 5 (.imm 1)) ∧
  decode {} 0xFFFFFE4200B00100 = .ok (.br .ne 11 0 (-7)) ∧
  decode {} 0x0300040040408300 = .ok (.vaddImm {} .n32 4 4 64) ∧
  decode {} 0x0900603030616A00 = .ok (.vfma ⟨1, false⟩ .f32 6 3 3 6) ∧
  decode {} 0x8000102030407A00 = .ok (.shf {} true 4 1 3 2) ∧
  decode {} 0x0000009101409000 = .ok (.xvStep true 20 16 1) ∧
  decode {} 0x01000D02E060A000 = .ok (.ld .plain .core .n32 6 14 (.scalar 2) 0x20) ∧
  decode {} 0x000070A141D1AA00 = .ok (.cpyG ⟨1, false⟩ ⟨0, .core, 0, 7, 1, 13⟩ 10 20) ∧
  decode {} 0x0C3C1904D050C000 = .ok (.atm {} .cas .acq .core .n32 5 13 (.scalar 4) 6) ∧
  decode {} 0x000003100000C800 = .ok (.barArr .quad 3) ∧
  decode {} 0x800643000D00D400 = .ok (.mst true 0 13 3 25) ∧
  decode {} 0x0200D58D30B0E500 = .ok (.rinv false false 11 12 13 0x20 13 22 0) ∧
  decode {} 0x0000000000000003 = .error 1 ∧ decode {} 0x0000000000000002 = .error 2 ∧ decode { gen7 := true } 0x0000000000000002 = .ok .nop ∧
  decode {} 0x0000000000000F00 = .ok (.unassignedOpcode 0x0F) ∧ decode {} 0x0000000000080000 = .error 4 ∧
  decode {} (0x01 <<< 8 + 9 <<< 32) = .error 5 ∧ decode {} (0xC8 <<< 8 + 8 <<< 40 + 1 <<< 36) = .error 6

/-- R25-R30, R52, R77, log 2: a move that issues a group fetches the word at its program counter and decodes it under its header; the
group executes that instruction in the state that its issue prepares, with the shadows of its members (R336), or it holds for a cycle
where a register, a turn or a shadow is not ready; where it would use a poisoned value, or a shadow differs from its slice, its crew
consumes an error (R337, R339). It rests on the model's own choices in logs 2, 18. -/
def Obligations.StepRunsDecodedInstruction : Prop :=
  ∀ (s u : State) (rest : List Act) (id : Nat) (w : W64) (i : Instr), s.powered = true → s.agenda = .issue id :: rest →
    let s0 : State := { s with agenda := rest }
    let ids := formGroup s0 (s0.slice id)
    let s1 := regroup s0 ids
    let x := s1.slice (ids.headD 0)
    id ∈ ids → fetchHeld s0 (s0.slice id) = false → (∀ j ∈ ids, breakDue s0 (s0.slice j) = false) → fetchAt s1 x = (.word w, u) →
    (decode (hdrOf u x) w.toNat = .ok i ∨
      (∃ e, decode (hdrOf u x) w.toNat = .error e) ∧ i = .unassignedOpcode (BitVec.ofNat 8 (w.toNat / 256))) →
    (mustHold u ids i w = true → step s = .next (moveEnd (followShadows s (holdCycle u ids i w)))) ∧
    (mustHold u ids i w = false → usesPoison u ids i = true →
      step s = .next (moveEnd (followShadows s (pass (u.consume (u.slice (ids.headD 0)).block none) (u.slice (ids.headD 0)).die 1)))) ∧
    (mustHold u ids i w = false → usesPoison u ids i = false →
      let p := atIssue u ids i w
      ∃ t, exec i p.1 = .next t ∧
        (∀ j, shadowIssue i ids p.2 p.1 t = .error j → step s = .next (moveEnd (followShadows s
          (pass (u.consume (u.slice j).block (some (.paddock (u.slice j).pk))) (u.slice (ids.headD 0)).die 1)))) ∧
        ∀ v, shadowIssue i ids p.2 p.1 t = .ok v → step s = .next (moveEnd (followShadows s
          (afterIssue (fun y => (refreshed p.1 p.2).slice y.id) (fun k => (u.slice k).nextIssue) p.1 (unstale i p.1 v p.2) ids i w
            ((issuing p.1 i ids).filter fun k => !reissued (u.slice k)).length))))

/-- Every instruction and step of the opcode table answers a next state in every state: the model refuses none, and a step stops only
where the rails are down and nothing arrives (23 R367). It rests on the model's own choices in log 2. -/
def Obligations.EveryInstructionAnswers : Prop :=
  (∀ (i : Instr) (s : State), ∃ t, exec i s = .next t) ∧
  ∀ s : State, (∃ t, step s = .next t) ∨ (s.powered = false ∧ s.agenda = [] ∧ step s = .fault .unpowered)

/-- R172, R179, log 1: every step keeps memory and its capability tags in canonical form, so that equal memories are equal data.
It rests on the model's own choices in log 1. -/
def Obligations.StepKeepsCanonicalMemory : Prop := ∀ s t : State, s.canonical → step s = .next t → t.canonical

/-- R18, R250, R296, R375: what the machine holds at reset, what a slice holds at its first instruction, and the matrix state that a
block with tiles finds. Memory that nothing has written reads 0 by this model's choice (log 1).
It rests on the model's own choices in logs 1, 4. -/
def Obligations.ResetAndStartValues : Prop :=
  (let s := State.reset
   s.canonical ∧ s.slices = [] ∧ s.blocks = [] ∧ s.cmds = [] ∧ s.outbox = [] ∧ s.bootReady = false ∧
    (∀ a, Cells.get s.mem a = 0) ∧
    (∀ k < 256, (s.ctx k).gen = 1 ∧ (s.ctx k).hangh = 24 ∧ (s.ctx k).park = 17 ∧ (s.ctx k).preto = 20 ∧ (s.ctx k).valid = false ∧
      (s.ctx k).prot = false ∧ (s.ctx k).csb = false ∧ (s.ctx k).pgs = false ∧ (s.ctx k).dqg = 0 ∧ (s.ctx k).lq = [] ∧
      (∀ q, ((s.ctx k).queue q).2.1 = false) ∧ (∀ n, ((s.ctx k).handler n).valid = false) ∧ ∀ n, (s.ctx k).counters.get n = 0) ∧
    (∀ k, (s.pdk k).slot0 = none ∧ (s.pdk k).slot1 = none) ∧
    ∀ d, (s.die d).mgmtNodes = 0xFFFFFFFFFFFFFFFF ∧ (s.die d).errcnt = 0 ∧ (s.die d).recov = false ∧ (s.die d).derated = false) ∧
  (∀ (s : State) (b : Block) (id gid idx p : Nat) (alive : W32),
    let x := startSlice s b id gid idx p alive
    x.pc = b.entry ∧ x.rk 0 = alive ∧ x.alive = alive ∧ (∀ r, r ≠ 0 → x.rk r = 0) ∧ (∀ r, x.rs r = 0) ∧ (∀ r l, x.rv r l = 0) ∧
    (∀ r, r ≠ 13 → r ≠ 14 → r ≠ 15 → x.rc r = {}) ∧ x.lc0 = {} ∧ x.lc1 = {} ∧ x.fr = 0 ∧ x.batch = 0 ∧ x.run = .ready ∧
    x.gm.toNat = (2 ^ hGang b.header - 1) % 16) ∧
  ∀ (s : State) (b : Block) (p : Nat), hTiles b.header ≠ 0 → p ∈ b.pdks →
    let u := (tilesReset s b).punit (((b.die * 48 + b.core) * 4 + p) * 64 + b.ctx)
    u.active = [] ∧ u.activeFmt = 1 ∧ u.shadow = [] ∧ u.shadowFmt = 1 ∧ u.tiles = [] ∧ u.live = 0 ∧ u.kind = 0 ∧ u.shape = .single ∧
      u.holder = none ∧ u.mq = []
end

