-- ==== Sys2Proof/Laws/Stores.lean ====
section
/-! SUPPORT. The sparse store and the lists of records: reading after writing, and the canonical form. -/
namespace Sys2Proof

/-! ### Stores -/
namespace Cells
variable {w : Nat}

theorem sorted_iff (m : Cells w) : sorted m = true ↔ m.Pairwise (fun p q => p.1 < q.1) := by
  induction m with
  | nil => simp [sorted]
  | cons p t ih =>
    cases t with
    | nil => simp [sorted]
    | cons q r =>
      simp only [sorted, Bool.and_eq_true, decide_eq_true_eq, ih, List.pairwise_cons, List.mem_cons]
      constructor
      · rintro ⟨h, h1, h2⟩
        refine ⟨?_, h1, h2⟩
        rintro a (rfl | ha)
        · exact h
        · exact Nat.lt_trans h (h1 a ha)
      · rintro ⟨h, h1⟩
        exact ⟨h q (.inl rfl), h1⟩

theorem wf_iff (m : Cells w) : wf m = true ↔ m.Pairwise (fun p q => p.1 < q.1) ∧ ∀ p ∈ m, p.2 ≠ 0 := by
  simp [wf, sorted_iff]

@[simp] theorem wf_nil : wf ([] : Cells w) = true := rfl
@[simp] theorem get_nil (k : Nat) : get ([] : Cells w) k = 0 := rfl

theorem get_cons (a : Nat) (v : BitVec w) (t : Cells w) (k : Nat) :
    get ((a, v) :: t) k = if a = k then v else get t k := rfl

theorem get_erase (m : Cells w) (k j : Nat) : get (erase m k) j = if j = k then 0 else get m j := by
  induction m with
  | nil => simp [erase, get]
  | cons p t ih =>
    obtain ⟨a, v⟩ := p
    simp only [erase, List.filter_cons] at ih ⊢
    by_cases h : a = k
    · subst h
      simp only [ne_eq, not_true, decide_false, Bool.false_eq_true, if_false, ih, get_cons]
      by_cases hj : j = a
      · simp [hj]
      · simp [hj, Ne.symm hj]
    · simp only [ne_eq, h, not_false_iff, decide_true, if_true, get_cons, ih]
      by_cases hj : a = j
      · subst hj; simp [h]
      · simp [hj]

theorem get_ins (m : Cells w) (k : Nat) (v : BitVec w) (j : Nat) (h : ∀ p ∈ m, p.1 ≠ k) :
    get (ins m k v) j = if j = k then v else get m j := by
  induction m with
  | nil => simp [ins, get, eq_comm]
  | cons p t ih =>
    obtain ⟨a, x⟩ := p
    have ha : a ≠ k := h (a, x) (by simp)
    have ht := ih fun q hq => h q (by simp [hq])
    simp only [ins]
    split
    · simp [get_cons, eq_comm]
    · simp only [get_cons, ht]
      by_cases hj : a = j
      · subst hj; simp [ha]
      · simp [hj]

theorem erase_ne (m : Cells w) (k : Nat) : ∀ p ∈ erase m k, p.1 ≠ k := by
  intro p hp
  simpa [erase] using (List.mem_filter.1 hp).2

/-- Reading after writing one value. -/
theorem get_set (m : Cells w) (k : Nat) (v : BitVec w) (j : Nat) : get (set m k v) j = if j = k then v else get m j := by
  unfold set
  split
  · next h => subst h; exact get_erase m k j
  · rw [get_ins _ _ _ _ (erase_ne m k), get_erase]
    split <;> rfl

@[simp] theorem get_set_eq (m : Cells w) (k : Nat) (v : BitVec w) : get (set m k v) k = v := by simp [get_set]
theorem get_set_ne (m : Cells w) {k j : Nat} (v : BitVec w) (h : j ≠ k) : get (set m k v) j = get m j := by
  simp [get_set, h]

theorem mem_ins (m : Cells w) (k : Nat) (v : BitVec w) (p : Nat × BitVec w) : p ∈ ins m k v ↔ p = (k, v) ∨ p ∈ m := by
  induction m with
  | nil => simp [ins]
  | cons q t ih =>
    obtain ⟨a, x⟩ := q
    simp only [ins]
    split
    · simp
    · simp only [List.mem_cons, ih]; exact or_left_comm

theorem wf_erase (m : Cells w) (k : Nat) (h : wf m = true) : wf (erase m k) = true := by
  rw [wf_iff] at h ⊢
  exact ⟨h.1.filter _, fun p hp => h.2 p (List.mem_filter.1 hp).1⟩

theorem wf_ins (m : Cells w) (k : Nat) (v : BitVec w) (hv : v ≠ 0) (hk : ∀ p ∈ m, p.1 ≠ k) (h : wf m = true) :
    wf (ins m k v) = true := by
  rw [wf_iff] at h ⊢
  obtain ⟨h1, h2⟩ := h
  refine ⟨?_, fun p hp => ((mem_ins m k v p).1 hp).elim (fun e => e ▸ hv) (h2 p)⟩
  clear h2
  induction m with
  | nil => simp [ins]
  | cons q t ih =>
    obtain ⟨a, x⟩ := q
    have hp := List.pairwise_cons.1 h1
    have ha : a ≠ k := hk (a, x) (by simp)
    simp only [ins]
    split
    · next hlt =>
      exact List.pairwise_cons.2 ⟨fun p hp' => (List.mem_cons.1 hp').elim (fun e => e ▸ hlt) fun hm => Nat.lt_trans hlt (hp.1 p hm), h1⟩
    · next hge =>
      refine List.pairwise_cons.2 ⟨fun p hp' => ?_, ih (fun p hp' => hk p (by simp [hp'])) hp.2⟩
      rcases (mem_ins t k v p).1 hp' with rfl | hm
      · exact Nat.lt_of_le_of_ne (Nat.le_of_not_lt hge) ha
      · exact hp.1 p hm

/-- A write keeps the canonical form. -/
theorem wf_set (m : Cells w) (k : Nat) (v : BitVec w) (h : wf m = true) : wf (set m k v) = true := by
  unfold set
  split
  · exact wf_erase m k h
  · next hv => exact wf_ins _ _ _ hv (erase_ne m k) (wf_erase m k h)

theorem wf_setList (bs : List (BitVec w)) (m : Cells w) (k : Nat) (h : wf m = true) : wf (setList m k bs) = true := by
  induction bs generalizing m k with
  | nil => exact h
  | cons b t ih => exact ih _ _ (wf_set m k b h)

theorem wf_filter (m : Cells w) (f : Nat × BitVec w → Bool) (h : wf m = true) : wf (m.filter f) = true := by
  rw [wf_iff] at h ⊢
  exact ⟨h.1.filter _, fun p hp => h.2 p (List.mem_filter.1 hp).1⟩

/-- Reading after writing consecutive values. -/
theorem get_setList (bs : List (BitVec w)) (m : Cells w) (k j : Nat) :
    get (setList m k bs) j = if k ≤ j ∧ j < k + bs.length then bs.getD (j - k) 0 else get m j := by
  induction bs generalizing m k with
  | nil => simp [setList] <;> omega
  | cons b t ih =>
    simp only [setList, ih, get_set, List.length_cons]
    by_cases h : j = k
    · subst h
      rw [if_neg (by omega), if_pos rfl, if_pos (by omega), Nat.sub_self]; rfl
    · by_cases h1 : k + 1 ≤ j ∧ j < k + 1 + t.length
      · have h2 : k ≤ j ∧ j < k + (t.length + 1) := by omega
        have h3 : j - k = (j - (k + 1)) + 1 := by omega
        simp only [h1, h2, and_self, if_true, h3, List.getD_cons_succ]
      · have h2 : ¬(k ≤ j ∧ j < k + (t.length + 1)) := by omega
        rw [if_neg h1, if_neg h2, if_neg h]

theorem get_setList_out (bs : List (BitVec w)) (m : Cells w) (k j : Nat) (h : ¬(k ≤ j ∧ j < k + bs.length)) :
    get (setList m k bs) j = get m j := by rw [get_setList, if_neg h]

end Cells

/-! ### Bytes -/

@[simp] theorem leBytes_length (n x : Nat) : (leBytes n x).length = n := by
  induction n generalizing x with
  | zero => rfl
  | succ n ih => simp [leBytes, ih]

theorem leNat_leBytes (n x : Nat) : leNat (leBytes n x) = x % 256 ^ n := by
  induction n generalizing x with
  | zero => simp [leBytes, leNat, Nat.mod_one]
  | succ n ih =>
    simp only [leBytes, leNat, ih, BitVec.toNat_ofNat, show 2 ^ 8 = 256 from rfl]
    rw [Nat.pow_succ, Nat.mul_comm (256 ^ n) 256, Nat.mod_mul]

/-! ### Records -/

section
variable {α : Type} (key : α → Nat)

/-- The record of a key after an update that keeps keys. -/
theorem recGet_map (d : α) (l : List α) (k : Nat) (f : α → α) (hk : ∀ x, key (f x) = key x)
    (h : (l.any fun x => key x == k) = true) : recGet key d (l.map f) k = f (recGet key d l k) := by
  induction l with
  | nil => simp at h
  | cons a t ih =>
    simp only [recGet, List.map_cons, List.find?_cons, hk] at ih ⊢
    by_cases ha : (key a == k) = true
    · simp [ha]
    · simp only [ha] at ih ⊢
      exact ih (by simpa [ha] using h)

theorem recGet_key (d : α) (l : List α) (k : Nat) (h : (l.any fun x => key x == k) = true) : key (recGet key d l k) = k := by
  induction l with
  | nil => simp at h
  | cons a t ih =>
    simp only [recGet, List.find?_cons] at ih ⊢
    by_cases ha : (key a == k) = true
    · simp only [ha]
      exact beq_iff_eq.1 ha
    · simp only [ha] at ih ⊢
      exact ih (by simpa [ha] using h)

theorem recGet_mem (d : α) (l : List α) (k : Nat) (h : (l.any fun x => key x == k) = true) : recGet key d l k ∈ l := by
  induction l with
  | nil => simp at h
  | cons a t ih =>
    simp only [recGet, List.find?_cons] at ih ⊢
    by_cases ha : (key a == k) = true
    · simp [ha]
    · simp only [ha] at ih ⊢
      exact List.mem_cons_of_mem _ (ih (by simpa [ha] using h))

theorem recGet_none (d : α) (l : List α) (k : Nat) (h : (l.any fun x => key x == k) = false) : recGet key d l k = d := by
  induction l with
  | nil => rfl
  | cons a t ih =>
    simp only [List.any_cons, Bool.or_eq_false_iff] at h
    simp only [recGet, List.find?_cons, h.1] at ih ⊢
    exact ih h.2

theorem any_map (l : List α) (k : Nat) (f : α → α) (hk : ∀ x, key (f x) = key x) :
    ((l.map f).any fun x => key x == k) = l.any fun x => key x == k := by simp [List.any_map, Function.comp_def, hk]

theorem recGet_recUpd (d : α) (l : List α) (k j : Nat) (f : α → α) (hk : ∀ x, key (f x) = key x)
    (h : (l.any fun x => key x == j) = true) :
    recGet key d (recUpd key l k f) j = if j = k then f (recGet key d l j) else recGet key d l j := by
  rw [recUpd, recGet_map key d l j _ (fun x => by split <;> simp [hk]) h, recGet_key key d l j h]
  by_cases hj : j = k <;> simp [hj]

theorem recGet_append (d : α) (l : List α) (j : Nat) (x : α) :
    recGet key d (l ++ [x]) j = if (l.any fun y => key y == j) then recGet key d l j else if key x = j then x else d := by
  induction l with
  | nil => by_cases h : key x = j <;> simp [recGet, h]
  | cons a t ih =>
    simp only [recGet, List.cons_append, List.find?_cons, List.any_cons] at ih ⊢
    by_cases ha : (key a == j) = true
    · simp [ha]
    · simp only [ha, Bool.false_or]
      exact ih

/-- The record of a key after another has been put in its place or added. -/
theorem recGet_recPut (d : α) (l : List α) (k j : Nat) (x : α) (hx : key x = k) :
    recGet key d (recPut key l k x) j = if j = k then x else recGet key d l j := by
  unfold recPut
  split
  · next h =>
    by_cases hj : j = k
    · subst hj
      unfold recUpd
      rw [if_pos rfl]
      induction l with
      | nil => simp at h
      | cons a t ih =>
        simp only [recGet, List.map_cons, List.find?_cons] at ih ⊢
        by_cases ha : (key a == j) = true
        · simp [ha, hx]
        · simp only [ha, Bool.false_eq_true, if_false]
          exact ih (by simpa [ha] using h)
    · rw [if_neg hj]
      clear h
      induction l with
      | nil => rfl
      | cons a t ih =>
        simp only [recUpd, recGet, List.map_cons, List.find?_cons] at ih ⊢
        by_cases ha : (key a == k) = true
        · have h1 : (key a == j) = false := by rw [beq_iff_eq.1 ha]; simpa using Ne.symm hj
          have h2 : (key x == j) = false := by rw [hx]; simpa using Ne.symm hj
          simp only [ha, if_true, h1, h2]
          exact ih
        · simp only [ha, Bool.false_eq_true, if_false]
          split
          · rfl
          · exact ih
  · next h =>
    rw [recGet_append, hx]
    have h' : (l.any fun y => key y == k) = false := by simpa using h
    by_cases hj : j = k
    · subst hj; simp [h']
    · rw [if_neg (Ne.symm hj), if_neg hj]
      split
      · rfl
      · next h1 => exact (recGet_none key d l j (by simpa using h1)).symm
end

end Sys2Proof
end

