-- ==== Sys2Proof/Laws/Canonical.lean ====
section
/-! SUPPORT. The canonical form of memory and its tags: every operation over memory keeps it, and so do the shared
operations that reach memory through the interrupt log or reach none. -/
namespace Sys2Proof.Machine
namespace State

/-- A state with the stores of a canonical one is canonical. -/
theorem canonical_of_eq {s t : State} (h : s.canonical) (hm : t.mem = s.mem) (ht : t.tags = s.tags) : t.canonical := by
  unfold canonical at *
  rwa [hm, ht]

/-- A fold of steps that keep the canonical form keeps it. -/
theorem canonical_foldl {α : Type} (f : State → α → State) (hf : ∀ s a, s.canonical → (f s a).canonical) (l : List α) (s : State)
    (h : s.canonical) : (l.foldl f s).canonical := by
  induction l generalizing s with
  | nil => exact h
  | cons a t ih => exact ih _ (hf s a h)

/-- Both ends of a choice. -/
theorem canonical_ite {c : Prop} [Decidable c] {a b : State} (ha : a.canonical) (hb : b.canonical) : (if c then a else b).canonical := by
  split <;> assumption

theorem canonical_reset : reset.canonical := by unfold canonical; decide

/-! ### Memory -/

theorem wf_eraseAll (l : List Nat) (k : Nat) (m : Cells 8) (h : Cells.wf m = true) :
    Cells.wf (l.foldl (fun t i => t.erase (k + i)) m) = true := by
  induction l generalizing m with
  | nil => exact h
  | cons a t ih => exact ih _ (Cells.wf_erase m (k + a) h)

theorem canonical_clearTags {s : State} (key n : Nat) (h : s.canonical) : (s.clearTags key n).canonical := by
  unfold clearTags
  split
  · exact h
  · exact ⟨h.1, wf_eraseAll _ _ _ h.2⟩

theorem canonical_setTag {s : State} (key : Nat) (t : Byte) (h : s.canonical) : (s.setTag key t).canonical :=
  ⟨h.1, Cells.wf_set _ _ _ h.2⟩

theorem canonical_wr {s : State} (key : Nat) (bs : List Byte) (h : s.canonical) : (s.wr key bs).canonical :=
  ⟨Cells.wf_setList _ _ _ h.1, (canonical_clearTags key bs.length h).2⟩

end State

theorem canonical_wrBytes {s : State} (x : Slice) (c : Cap) (a : Int) (bs : List Byte) (h : s.canonical) :
    (wrBytes s x c a bs).canonical :=
  State.canonical_foldl _ (fun _ p hs => State.canonical_wr p.1 [p.2] hs) _ _ h

/-! ### Messages -/

theorem canonical_send {s : State} (m : Msg) (h : s.canonical) : (s.send m).canonical := by
  unfold State.send
  extract_lets mine
  exact State.canonical_ite h (State.canonical_ite h h)

theorem canonical_sendCtl {s : State} (d : Nat) (m : Msg) (h : s.canonical) : (s.sendCtl d m).canonical := by
  unfold State.sendCtl
  split
  · exact h
  · exact canonical_send m h

theorem canonical_post {s : State} (k : Nat) (dst : W16) (type : Byte) (tag arg : W16) (p : List Byte) (h : s.canonical) (g : Option W16 := none) :
    (s.post k dst type tag arg p g).canonical := by
  unfold State.post
  extract_lets c v m s1
  have h1 : s1.canonical := State.canonical_wr _ _ h
  clear_value s1
  refine State.canonical_ite ?_ (State.canonical_ite ?_ ?_)
  · exact canonical_sendCtl _ _ h
  · exact h
  · exact h1

theorem canonical_complete {s : State} (k : Nat) (g : W64) (st a b c : Nat) (h : s.canonical) : (s.complete k g st a b c).canonical :=
  canonical_post _ _ _ _ _ _ h

theorem canonical_ackTask {s : State} (a : Ack) (st : Nat) (h : s.canonical) : (s.ackTask a st).canonical := canonical_send _ h

/-! ### Barriers, batons, allocation -/

theorem canonical_bumpBph {s : State} (bs : List Nat) (h : s.canonical) : (bumpBph s bs).canonical := h

theorem canonical_podNotify {s : State} (b : Bar) (h : s.canonical) : (podNotify s b).canonical := by
  unfold podNotify
  split
  · split
    · exact State.canonical_foldl _ (fun _ _ hs => canonical_send _ hs) _ _ h
    · exact h
  · exact h

theorem canonical_barComplete {s : State} (id : Nat) (h : s.canonical) : (barComplete s id).canonical :=
  canonical_podNotify (s.bar id) h

theorem canonical_barCheck {s : State} (id : Nat) (h : s.canonical) : (barCheck s id).canonical := by
  unfold barCheck
  dsimp only
  split
  · exact canonical_barComplete id h
  · exact h

theorem canonical_bbCheck {s : State} (k : Nat) (h : s.canonical) : (bbCheck s k).canonical := by
  unfold bbCheck
  dsimp only
  split <;> exact h

theorem canonical_barLower {s : State} (id x : Nat) (h : s.canonical) : (barLower s id x).canonical := by
  unfold barLower
  extract_lets b s1
  have h1 : s1.canonical := h
  clear_value s1
  refine State.canonical_ite ?_ (canonical_barCheck id h1)
  split
  · exact State.canonical_ite (canonical_barCheck id h1) (canonical_send _ h1)
  · exact h1

theorem canonical_batonDrop {s : State} (u : Nat) (g : Nat × Nat) (h : s.canonical) : (batonDrop s u g).canonical := by
  unfold batonDrop
  extract_lets s1
  have h1 : s1.canonical := h
  exact State.canonical_ite h1 h1

theorem canonical_takerGone {s : State} (x : Slice) (h : s.canonical) : (takerGone s x).canonical := by
  unfold takerGone
  split
  · exact State.canonical_ite h h
  · exact h

theorem canonical_allocGrant (n : Nat) (s : State) (pk ctx : Nat) (h : s.canonical) : (allocGrant s pk ctx n).canonical := by
  induction n generalizing s with
  | zero => exact h
  | succ n ih =>
    unfold allocGrant
    split
    · exact h
    · extract_lets free chk s1 s2
      have h1 : s1.canonical := h
      have h2 : s2.canonical := h1
      exact State.canonical_ite (ih _ h2) h

theorem canonical_allocGrants {s : State} (pk : Nat) (h : s.canonical) : (allocGrants s pk).canonical :=
  State.canonical_foldl _ (fun _ c hs => canonical_allocGrant 64 _ pk c hs) _ _ h

/-! ### Ends of slices, blocks and grids -/

theorem canonical_gridEnd {s : State} (id : Nat) (h : s.canonical) : (gridEnd s id).canonical := by
  unfold gridEnd
  extract_lets g k s1 s2 s3
  have h1 : s1.canonical := h
  have h2 : s2.canonical := h1
  have h3 : s3.canonical :=
    State.canonical_ite h2 (State.canonical_ite (canonical_complete _ _ _ _ _ _ h2) (canonical_complete _ _ _ _ _ _ h2))
  exact State.canonical_ite h h3

theorem canonical_blockEnd {s : State} (b : Nat) (h : s.canonical) : (blockEnd s b).canonical := by
  unfold blockEnd
  extract_lets x s1 s2
  have h1 : s1.canonical := h
  have h2 : s2.canonical := h1
  have h3 : (s2.updGrid x.grid fun g => { g with ended := g.ended + 1 }).canonical := h2
  exact State.canonical_ite h (canonical_gridEnd _ h3)

theorem canonical_retireSlice {s : State} (id : Nat) (h : s.canonical) : (retireSlice s id).canonical := by
  unfold retireSlice
  extract_lets x s1 s2 s3 s4 s5
  have h1 : s1.canonical := h
  clear_value s1
  have h2 : s2.canonical := by
    refine State.canonical_foldl _ (fun s b hs => ?_) _ _ h1
    exact canonical_barLower b.id id hs
  clear_value s2
  have h3 : s3.canonical := by
    refine State.canonical_foldl _ (fun s k hs => ?_) _ _ h2
    apply canonical_bbCheck
    exact hs
  clear_value s3
  have h4 : s4.canonical := State.canonical_ite (canonical_batonDrop _ _ h3) h3
  clear_value s4
  have h5 : s5.canonical := canonical_allocGrants _ h4
  exact State.canonical_ite h (State.canonical_ite (canonical_allocGrants _ h1) (canonical_blockEnd _ h5))

theorem canonical_retireHandler {s : State} (id : Nat) (h : s.canonical) : (retireHandler s id).canonical :=
  canonical_allocGrants (s := s.updSlice id fun h => { h with run := .retired }) _ h

theorem canonical_retireExited {s : State} (x : Slice) (gm : BitVec 4) (h : s.canonical) : (retireExited s x gm).canonical := by
  unfold retireExited
  refine State.canonical_foldl _ (fun s y hs => ?_) _ _ h
  exact canonical_retireSlice y.id hs

/-- Answering FAULT for the tasks of a wave. -/
theorem canonical_ackWave {s : State} (w : List LaneTask) (h : s.canonical) :
    (w.foldl (fun (s : State) t => match t.task.ack with
      | some a => if t.done || t.answered then s else s.ackTask a 3
      | none => s) s).canonical := by
  refine State.canonical_foldl _ (fun s t hs => ?_) _ _ h
  split
  · exact State.canonical_ite hs (canonical_ackTask _ _ hs)
  · exact hs

theorem canonical_killBlock {s : State} (b : Nat) (recs : List TrapRec) (h : s.canonical) : (killBlock s b recs).canonical := by
  unfold killBlock
  extract_lets x s1 s2 s3 s4 s5 s6
  have h1 : s1.canonical := canonical_ackWave _ h
  have h2 : s2.canonical := h1
  have h3 : s3.canonical := h2
  have h4 : s4.canonical := by
    refine State.canonical_foldl _ (fun s u hs => ?_) _ _ h3
    exact canonical_retireHandler _ hs
  have h5 : s5.canonical := h4
  have h6 : s6.canonical := by
    refine State.canonical_foldl _ (fun s y hs => ?_) _ _ h5
    exact canonical_retireSlice y.id hs
  exact State.canonical_ite h (canonical_blockEnd _ h6)

/-! ### Traps -/

theorem canonical_faultTasks {s : State} (b : Nat) (h : s.canonical) : (faultTasks s b).canonical := by
  unfold faultTasks
  extract_lets x s1
  have h1 : s1.canonical := canonical_ackWave _ h
  exact h1

theorem canonical_doubleTrap {s : State} (x : Slice) (t : TrapInfo) (h : s.canonical) : (doubleTrap s x t).canonical := by
  unfold doubleTrap
  extract_lets u s1
  have h1 : s1.canonical := h
  split
  · exact canonical_killBlock _ _ (canonical_retireHandler _ h1)
  · exact canonical_retireHandler _ h

/-- Taking a trap writes no memory but the interrupt log of a device that is not resident. -/
theorem canonical_takeTrap {s : State} (id : Nat) (t : TrapInfo) (h : s.canonical) : (takeTrap s id t).canonical := by
  unfold takeTrap
  extract_lets x s1 e s2
  have h1 : s1.canonical := canonical_faultTasks _ h
  have h2 : s2.canonical := canonical_takerGone x h1
  split
  · exact h
  · exact State.canonical_ite (canonical_doubleTrap _ _ h) (State.canonical_ite (canonical_killBlock _ _ h1) h2)

theorem canonical_trapMembers {s : State} (f : Slice → Option TrapInfo) (h : s.canonical) : (s.trapMembers f).canonical := by
  unfold State.trapMembers
  extract_lets bad s1
  have h1 : s1.canonical := by
    refine State.canonical_foldl _ (fun s p hs => ?_) _ _ h
    exact canonical_takeTrap p.1 p.2 hs
  exact h1

theorem canonical_trapReturn {s : State} (x : Slice) (h : s.canonical) : (trapReturn s x).canonical := by
  unfold trapReturn
  extract_lets u waiting blk s1 s2
  have h1 : s1.canonical := h
  have h2 : s2.canonical := canonical_retireHandler _ h1
  exact h2

end Sys2Proof.Machine
end

