-- ==== Sys2Proof/Laws/Elements.lean ====
section
/-! SUPPORT. Elements of a vector register's lane: reading one out of a packed word. -/
namespace Sys2Proof.Machine

/-- An element of a lane packed from values of its elements is that value in the element's width. -/
theorem elem_pack (w : Nat) (h : w = 8 ∨ w = 16 ∨ w = 32) (f : Nat → Nat) (e : Nat) (he : e < 32 / w) :
    elem (BitVec.ofNat 32 (packElems w ((List.range (32 / w)).map f))) w e = f e % 2 ^ w := by
  rcases h with rfl | rfl | rfl
  · have : e = 0 ∨ e = 1 ∨ e = 2 ∨ e = 3 := by omega
    rcases this with rfl | rfl | rfl | rfl <;> simp [elem, bitsOf, packElems, List.range, List.range.loop] <;> omega
  · have : e = 0 ∨ e = 1 := by omega
    rcases this with rfl | rfl <;> simp [elem, bitsOf, packElems, List.range, List.range.loop] <;> omega
  · have : e = 0 := by omega
    subst this; simp [elem, bitsOf, packElems, List.range, List.range.loop]

end Sys2Proof.Machine
end

