-- ==== Sys2Proof/Laws/State.lean ====
section
/-! SUPPORT. What each update of the state and of a slice leaves alone: one lemma per field and update. -/
namespace Sys2Proof.Machine

/-! ### Updates of the state -/

section
variable (s : State) (id : Nat) (f : Slice → Slice)
@[simp] theorem State.updSlice_part : (s.updSlice id f).part = s.part := rfl
@[simp] theorem State.updSlice_powered : (s.updSlice id f).powered = s.powered := rfl
@[simp] theorem State.updSlice_mem : (s.updSlice id f).mem = s.mem := rfl
@[simp] theorem State.updSlice_tags : (s.updSlice id f).tags = s.tags := rfl
@[simp] theorem State.updSlice_poison : (s.updSlice id f).poison = s.poison := rfl
@[simp] theorem State.updSlice_consumed : (s.updSlice id f).consumed = s.consumed := rfl
@[simp] theorem State.updSlice_dies : (s.updSlice id f).dies = s.dies := rfl
@[simp] theorem State.updSlice_ctxs : (s.updSlice id f).ctxs = s.ctxs := rfl
@[simp] theorem State.updSlice_pdks : (s.updSlice id f).pdks = s.pdks := rfl
@[simp] theorem State.updSlice_units : (s.updSlice id f).units = s.units := rfl
@[simp] theorem State.updSlice_grids : (s.updSlice id f).grids = s.grids := rfl
@[simp] theorem State.updSlice_blocks : (s.updSlice id f).blocks = s.blocks := rfl
@[simp] theorem State.updSlice_shadows : (s.updSlice id f).shadows = s.shadows := rfl
@[simp] theorem State.updSlice_bars : (s.updSlice id f).bars = s.bars := rfl
@[simp] theorem State.updSlice_bbs : (s.updSlice id f).bbs = s.bbs := rfl
@[simp] theorem State.updSlice_cmds : (s.updSlice id f).cmds = s.cmds := rfl
@[simp] theorem State.updSlice_stalls : (s.updSlice id f).stalls = s.stalls := rfl
@[simp] theorem State.updSlice_retiring : (s.updSlice id f).retiring = s.retiring := rfl
@[simp] theorem State.updSlice_pushbuf : (s.updSlice id f).pushbuf = s.pushbuf := rfl
@[simp] theorem State.updSlice_saved : (s.updSlice id f).saved = s.saved := rfl
@[simp] theorem State.updSlice_tlb : (s.updSlice id f).tlb = s.tlb := rfl
@[simp] theorem State.updSlice_red : (s.updSlice id f).red = s.red := rfl
@[simp] theorem State.updSlice_tree : (s.updSlice id f).tree = s.tree := rfl
@[simp] theorem State.updSlice_awaits : (s.updSlice id f).awaits = s.awaits := rfl
@[simp] theorem State.updSlice_mgmt : (s.updSlice id f).mgmt = s.mgmt := rfl
@[simp] theorem State.updSlice_asked : (s.updSlice id f).asked = s.asked := rfl
@[simp] theorem State.updSlice_mgmtq : (s.updSlice id f).mgmtq = s.mgmtq := rfl
@[simp] theorem State.updSlice_outbox : (s.updSlice id f).outbox = s.outbox := rfl
@[simp] theorem State.updSlice_resend : (s.updSlice id f).resend = s.resend := rfl
@[simp] theorem State.updSlice_vdevs : (s.updSlice id f).vdevs = s.vdevs := rfl
@[simp] theorem State.updSlice_joins : (s.updSlice id f).joins = s.joins := rfl
@[simp] theorem State.updSlice_windows : (s.updSlice id f).windows = s.windows := rfl
@[simp] theorem State.updSlice_sessions : (s.updSlice id f).sessions = s.sessions := rfl
@[simp] theorem State.updSlice_cuts : (s.updSlice id f).cuts = s.cuts := rfl
@[simp] theorem State.updSlice_replays : (s.updSlice id f).replays = s.replays := rfl
@[simp] theorem State.updSlice_refused : (s.updSlice id f).refused = s.refused := rfl
@[simp] theorem State.updSlice_behind : (s.updSlice id f).behind = s.behind := rfl
@[simp] theorem State.updSlice_linkq : (s.updSlice id f).linkq = s.linkq := rfl
@[simp] theorem State.updSlice_carried : (s.updSlice id f).carried = s.carried := rfl
@[simp] theorem State.updSlice_reads : (s.updSlice id f).reads = s.reads := rfl
@[simp] theorem State.updSlice_dumps : (s.updSlice id f).dumps = s.dumps := rfl
@[simp] theorem State.updSlice_ports : (s.updSlice id f).ports = s.ports := rfl
@[simp] theorem State.updSlice_chans : (s.updSlice id f).chans = s.chans := rfl
@[simp] theorem State.updSlice_tests : (s.updSlice id f).tests = s.tests := rfl
@[simp] theorem State.updSlice_unitErrs : (s.updSlice id f).unitErrs = s.unitErrs := rfl
@[simp] theorem State.updSlice_bankRows : (s.updSlice id f).bankRows = s.bankRows := rfl
@[simp] theorem State.updSlice_recordAt : (s.updSlice id f).recordAt = s.recordAt := rfl
@[simp] theorem State.updSlice_drops : (s.updSlice id f).drops = s.drops := rfl
@[simp] theorem State.updSlice_node : (s.updSlice id f).node = s.node := rfl
@[simp] theorem State.updSlice_fenced : (s.updSlice id f).fenced = s.fenced := rfl
@[simp] theorem State.updSlice_booted : (s.updSlice id f).booted = s.booted := rfl
@[simp] theorem State.updSlice_bootReady : (s.updSlice id f).bootReady = s.bootReady := rfl
@[simp] theorem State.updSlice_flash : (s.updSlice id f).flash = s.flash := rfl
@[simp] theorem State.updSlice_tagSeq : (s.updSlice id f).tagSeq = s.tagSeq := rfl
@[simp] theorem State.updSlice_agenda : (s.updSlice id f).agenda = s.agenda := rfl
@[simp] theorem State.updSlice_focus : (s.updSlice id f).focus = s.focus := rfl
@[simp] theorem State.updSlice_group : (s.updSlice id f).group = s.group := rfl
@[simp] theorem State.updSlice_msg : (s.updSlice id f).msg = s.msg := rfl
@[simp] theorem State.updSlice_free : (s.updSlice id f).free = s.free := rfl
@[simp] theorem State.updSlice_uid : (s.updSlice id f).uid = s.uid := rfl
@[simp] theorem State.updSlice_word : (s.updSlice id f).word = s.word := rfl
@[simp] theorem State.updSlice_proxy : (s.updSlice id f).proxy = s.proxy := rfl
end

section
variable (s : State) (x : Slice)
@[simp] theorem State.putSlice_part : (s.putSlice x).part = s.part := rfl
@[simp] theorem State.putSlice_powered : (s.putSlice x).powered = s.powered := rfl
@[simp] theorem State.putSlice_mem : (s.putSlice x).mem = s.mem := rfl
@[simp] theorem State.putSlice_tags : (s.putSlice x).tags = s.tags := rfl
@[simp] theorem State.putSlice_poison : (s.putSlice x).poison = s.poison := rfl
@[simp] theorem State.putSlice_consumed : (s.putSlice x).consumed = s.consumed := rfl
@[simp] theorem State.putSlice_dies : (s.putSlice x).dies = s.dies := rfl
@[simp] theorem State.putSlice_ctxs : (s.putSlice x).ctxs = s.ctxs := rfl
@[simp] theorem State.putSlice_pdks : (s.putSlice x).pdks = s.pdks := rfl
@[simp] theorem State.putSlice_units : (s.putSlice x).units = s.units := rfl
@[simp] theorem State.putSlice_grids : (s.putSlice x).grids = s.grids := rfl
@[simp] theorem State.putSlice_blocks : (s.putSlice x).blocks = s.blocks := rfl
@[simp] theorem State.putSlice_shadows : (s.putSlice x).shadows = s.shadows := rfl
@[simp] theorem State.putSlice_bars : (s.putSlice x).bars = s.bars := rfl
@[simp] theorem State.putSlice_bbs : (s.putSlice x).bbs = s.bbs := rfl
@[simp] theorem State.putSlice_cmds : (s.putSlice x).cmds = s.cmds := rfl
@[simp] theorem State.putSlice_stalls : (s.putSlice x).stalls = s.stalls := rfl
@[simp] theorem State.putSlice_retiring : (s.putSlice x).retiring = s.retiring := rfl
@[simp] theorem State.putSlice_pushbuf : (s.putSlice x).pushbuf = s.pushbuf := rfl
@[simp] theorem State.putSlice_saved : (s.putSlice x).saved = s.saved := rfl
@[simp] theorem State.putSlice_tlb : (s.putSlice x).tlb = s.tlb := rfl
@[simp] theorem State.putSlice_red : (s.putSlice x).red = s.red := rfl
@[simp] theorem State.putSlice_tree : (s.putSlice x).tree = s.tree := rfl
@[simp] theorem State.putSlice_awaits : (s.putSlice x).awaits = s.awaits := rfl
@[simp] theorem State.putSlice_mgmt : (s.putSlice x).mgmt = s.mgmt := rfl
@[simp] theorem State.putSlice_asked : (s.putSlice x).asked = s.asked := rfl
@[simp] theorem State.putSlice_mgmtq : (s.putSlice x).mgmtq = s.mgmtq := rfl
@[simp] theorem State.putSlice_outbox : (s.putSlice x).outbox = s.outbox := rfl
@[simp] theorem State.putSlice_resend : (s.putSlice x).resend = s.resend := rfl
@[simp] theorem State.putSlice_vdevs : (s.putSlice x).vdevs = s.vdevs := rfl
@[simp] theorem State.putSlice_joins : (s.putSlice x).joins = s.joins := rfl
@[simp] theorem State.putSlice_windows : (s.putSlice x).windows = s.windows := rfl
@[simp] theorem State.putSlice_sessions : (s.putSlice x).sessions = s.sessions := rfl
@[simp] theorem State.putSlice_cuts : (s.putSlice x).cuts = s.cuts := rfl
@[simp] theorem State.putSlice_replays : (s.putSlice x).replays = s.replays := rfl
@[simp] theorem State.putSlice_refused : (s.putSlice x).refused = s.refused := rfl
@[simp] theorem State.putSlice_behind : (s.putSlice x).behind = s.behind := rfl
@[simp] theorem State.putSlice_linkq : (s.putSlice x).linkq = s.linkq := rfl
@[simp] theorem State.putSlice_carried : (s.putSlice x).carried = s.carried := rfl
@[simp] theorem State.putSlice_reads : (s.putSlice x).reads = s.reads := rfl
@[simp] theorem State.putSlice_dumps : (s.putSlice x).dumps = s.dumps := rfl
@[simp] theorem State.putSlice_ports : (s.putSlice x).ports = s.ports := rfl
@[simp] theorem State.putSlice_chans : (s.putSlice x).chans = s.chans := rfl
@[simp] theorem State.putSlice_tests : (s.putSlice x).tests = s.tests := rfl
@[simp] theorem State.putSlice_unitErrs : (s.putSlice x).unitErrs = s.unitErrs := rfl
@[simp] theorem State.putSlice_bankRows : (s.putSlice x).bankRows = s.bankRows := rfl
@[simp] theorem State.putSlice_recordAt : (s.putSlice x).recordAt = s.recordAt := rfl
@[simp] theorem State.putSlice_drops : (s.putSlice x).drops = s.drops := rfl
@[simp] theorem State.putSlice_node : (s.putSlice x).node = s.node := rfl
@[simp] theorem State.putSlice_fenced : (s.putSlice x).fenced = s.fenced := rfl
@[simp] theorem State.putSlice_booted : (s.putSlice x).booted = s.booted := rfl
@[simp] theorem State.putSlice_bootReady : (s.putSlice x).bootReady = s.bootReady := rfl
@[simp] theorem State.putSlice_flash : (s.putSlice x).flash = s.flash := rfl
@[simp] theorem State.putSlice_tagSeq : (s.putSlice x).tagSeq = s.tagSeq := rfl
@[simp] theorem State.putSlice_agenda : (s.putSlice x).agenda = s.agenda := rfl
@[simp] theorem State.putSlice_focus : (s.putSlice x).focus = s.focus := rfl
@[simp] theorem State.putSlice_group : (s.putSlice x).group = s.group := rfl
@[simp] theorem State.putSlice_msg : (s.putSlice x).msg = s.msg := rfl
@[simp] theorem State.putSlice_free : (s.putSlice x).free = s.free := rfl
@[simp] theorem State.putSlice_uid : (s.putSlice x).uid = s.uid := rfl
@[simp] theorem State.putSlice_word : (s.putSlice x).word = s.word := rfl
@[simp] theorem State.putSlice_proxy : (s.putSlice x).proxy = s.proxy := rfl
end

section
variable (s : State) (f : Slice → Slice)
@[simp] theorem State.mapSlices_part : (s.mapSlices f).part = s.part := rfl
@[simp] theorem State.mapSlices_powered : (s.mapSlices f).powered = s.powered := rfl
@[simp] theorem State.mapSlices_mem : (s.mapSlices f).mem = s.mem := rfl
@[simp] theorem State.mapSlices_tags : (s.mapSlices f).tags = s.tags := rfl
@[simp] theorem State.mapSlices_poison : (s.mapSlices f).poison = s.poison := rfl
@[simp] theorem State.mapSlices_consumed : (s.mapSlices f).consumed = s.consumed := rfl
@[simp] theorem State.mapSlices_dies : (s.mapSlices f).dies = s.dies := rfl
@[simp] theorem State.mapSlices_ctxs : (s.mapSlices f).ctxs = s.ctxs := rfl
@[simp] theorem State.mapSlices_pdks : (s.mapSlices f).pdks = s.pdks := rfl
@[simp] theorem State.mapSlices_units : (s.mapSlices f).units = s.units := rfl
@[simp] theorem State.mapSlices_grids : (s.mapSlices f).grids = s.grids := rfl
@[simp] theorem State.mapSlices_blocks : (s.mapSlices f).blocks = s.blocks := rfl
@[simp] theorem State.mapSlices_shadows : (s.mapSlices f).shadows = s.shadows := rfl
@[simp] theorem State.mapSlices_bars : (s.mapSlices f).bars = s.bars := rfl
@[simp] theorem State.mapSlices_bbs : (s.mapSlices f).bbs = s.bbs := rfl
@[simp] theorem State.mapSlices_cmds : (s.mapSlices f).cmds = s.cmds := rfl
@[simp] theorem State.mapSlices_stalls : (s.mapSlices f).stalls = s.stalls := rfl
@[simp] theorem State.mapSlices_retiring : (s.mapSlices f).retiring = s.retiring := rfl
@[simp] theorem State.mapSlices_pushbuf : (s.mapSlices f).pushbuf = s.pushbuf := rfl
@[simp] theorem State.mapSlices_saved : (s.mapSlices f).saved = s.saved := rfl
@[simp] theorem State.mapSlices_tlb : (s.mapSlices f).tlb = s.tlb := rfl
@[simp] theorem State.mapSlices_red : (s.mapSlices f).red = s.red := rfl
@[simp] theorem State.mapSlices_tree : (s.mapSlices f).tree = s.tree := rfl
@[simp] theorem State.mapSlices_awaits : (s.mapSlices f).awaits = s.awaits := rfl
@[simp] theorem State.mapSlices_mgmt : (s.mapSlices f).mgmt = s.mgmt := rfl
@[simp] theorem State.mapSlices_asked : (s.mapSlices f).asked = s.asked := rfl
@[simp] theorem State.mapSlices_mgmtq : (s.mapSlices f).mgmtq = s.mgmtq := rfl
@[simp] theorem State.mapSlices_outbox : (s.mapSlices f).outbox = s.outbox := rfl
@[simp] theorem State.mapSlices_resend : (s.mapSlices f).resend = s.resend := rfl
@[simp] theorem State.mapSlices_vdevs : (s.mapSlices f).vdevs = s.vdevs := rfl
@[simp] theorem State.mapSlices_joins : (s.mapSlices f).joins = s.joins := rfl
@[simp] theorem State.mapSlices_windows : (s.mapSlices f).windows = s.windows := rfl
@[simp] theorem State.mapSlices_sessions : (s.mapSlices f).sessions = s.sessions := rfl
@[simp] theorem State.mapSlices_cuts : (s.mapSlices f).cuts = s.cuts := rfl
@[simp] theorem State.mapSlices_replays : (s.mapSlices f).replays = s.replays := rfl
@[simp] theorem State.mapSlices_refused : (s.mapSlices f).refused = s.refused := rfl
@[simp] theorem State.mapSlices_behind : (s.mapSlices f).behind = s.behind := rfl
@[simp] theorem State.mapSlices_linkq : (s.mapSlices f).linkq = s.linkq := rfl
@[simp] theorem State.mapSlices_carried : (s.mapSlices f).carried = s.carried := rfl
@[simp] theorem State.mapSlices_reads : (s.mapSlices f).reads = s.reads := rfl
@[simp] theorem State.mapSlices_dumps : (s.mapSlices f).dumps = s.dumps := rfl
@[simp] theorem State.mapSlices_ports : (s.mapSlices f).ports = s.ports := rfl
@[simp] theorem State.mapSlices_chans : (s.mapSlices f).chans = s.chans := rfl
@[simp] theorem State.mapSlices_tests : (s.mapSlices f).tests = s.tests := rfl
@[simp] theorem State.mapSlices_unitErrs : (s.mapSlices f).unitErrs = s.unitErrs := rfl
@[simp] theorem State.mapSlices_bankRows : (s.mapSlices f).bankRows = s.bankRows := rfl
@[simp] theorem State.mapSlices_recordAt : (s.mapSlices f).recordAt = s.recordAt := rfl
@[simp] theorem State.mapSlices_drops : (s.mapSlices f).drops = s.drops := rfl
@[simp] theorem State.mapSlices_node : (s.mapSlices f).node = s.node := rfl
@[simp] theorem State.mapSlices_fenced : (s.mapSlices f).fenced = s.fenced := rfl
@[simp] theorem State.mapSlices_booted : (s.mapSlices f).booted = s.booted := rfl
@[simp] theorem State.mapSlices_bootReady : (s.mapSlices f).bootReady = s.bootReady := rfl
@[simp] theorem State.mapSlices_flash : (s.mapSlices f).flash = s.flash := rfl
@[simp] theorem State.mapSlices_tagSeq : (s.mapSlices f).tagSeq = s.tagSeq := rfl
@[simp] theorem State.mapSlices_agenda : (s.mapSlices f).agenda = s.agenda := rfl
@[simp] theorem State.mapSlices_focus : (s.mapSlices f).focus = s.focus := rfl
@[simp] theorem State.mapSlices_group : (s.mapSlices f).group = s.group := rfl
@[simp] theorem State.mapSlices_msg : (s.mapSlices f).msg = s.msg := rfl
@[simp] theorem State.mapSlices_free : (s.mapSlices f).free = s.free := rfl
@[simp] theorem State.mapSlices_uid : (s.mapSlices f).uid = s.uid := rfl
@[simp] theorem State.mapSlices_word : (s.mapSlices f).word = s.word := rfl
@[simp] theorem State.mapSlices_proxy : (s.mapSlices f).proxy = s.proxy := rfl
end

section
variable (s : State) (f : Slice → Slice)
@[simp] theorem State.mapGroup_part : (s.mapGroup f).part = s.part := rfl
@[simp] theorem State.mapGroup_powered : (s.mapGroup f).powered = s.powered := rfl
@[simp] theorem State.mapGroup_mem : (s.mapGroup f).mem = s.mem := rfl
@[simp] theorem State.mapGroup_tags : (s.mapGroup f).tags = s.tags := rfl
@[simp] theorem State.mapGroup_poison : (s.mapGroup f).poison = s.poison := rfl
@[simp] theorem State.mapGroup_consumed : (s.mapGroup f).consumed = s.consumed := rfl
@[simp] theorem State.mapGroup_dies : (s.mapGroup f).dies = s.dies := rfl
@[simp] theorem State.mapGroup_ctxs : (s.mapGroup f).ctxs = s.ctxs := rfl
@[simp] theorem State.mapGroup_pdks : (s.mapGroup f).pdks = s.pdks := rfl
@[simp] theorem State.mapGroup_units : (s.mapGroup f).units = s.units := rfl
@[simp] theorem State.mapGroup_grids : (s.mapGroup f).grids = s.grids := rfl
@[simp] theorem State.mapGroup_blocks : (s.mapGroup f).blocks = s.blocks := rfl
@[simp] theorem State.mapGroup_shadows : (s.mapGroup f).shadows = s.shadows := rfl
@[simp] theorem State.mapGroup_bars : (s.mapGroup f).bars = s.bars := rfl
@[simp] theorem State.mapGroup_bbs : (s.mapGroup f).bbs = s.bbs := rfl
@[simp] theorem State.mapGroup_cmds : (s.mapGroup f).cmds = s.cmds := rfl
@[simp] theorem State.mapGroup_stalls : (s.mapGroup f).stalls = s.stalls := rfl
@[simp] theorem State.mapGroup_retiring : (s.mapGroup f).retiring = s.retiring := rfl
@[simp] theorem State.mapGroup_pushbuf : (s.mapGroup f).pushbuf = s.pushbuf := rfl
@[simp] theorem State.mapGroup_saved : (s.mapGroup f).saved = s.saved := rfl
@[simp] theorem State.mapGroup_tlb : (s.mapGroup f).tlb = s.tlb := rfl
@[simp] theorem State.mapGroup_red : (s.mapGroup f).red = s.red := rfl
@[simp] theorem State.mapGroup_tree : (s.mapGroup f).tree = s.tree := rfl
@[simp] theorem State.mapGroup_awaits : (s.mapGroup f).awaits = s.awaits := rfl
@[simp] theorem State.mapGroup_mgmt : (s.mapGroup f).mgmt = s.mgmt := rfl
@[simp] theorem State.mapGroup_asked : (s.mapGroup f).asked = s.asked := rfl
@[simp] theorem State.mapGroup_mgmtq : (s.mapGroup f).mgmtq = s.mgmtq := rfl
@[simp] theorem State.mapGroup_outbox : (s.mapGroup f).outbox = s.outbox := rfl
@[simp] theorem State.mapGroup_resend : (s.mapGroup f).resend = s.resend := rfl
@[simp] theorem State.mapGroup_vdevs : (s.mapGroup f).vdevs = s.vdevs := rfl
@[simp] theorem State.mapGroup_joins : (s.mapGroup f).joins = s.joins := rfl
@[simp] theorem State.mapGroup_windows : (s.mapGroup f).windows = s.windows := rfl
@[simp] theorem State.mapGroup_sessions : (s.mapGroup f).sessions = s.sessions := rfl
@[simp] theorem State.mapGroup_cuts : (s.mapGroup f).cuts = s.cuts := rfl
@[simp] theorem State.mapGroup_replays : (s.mapGroup f).replays = s.replays := rfl
@[simp] theorem State.mapGroup_refused : (s.mapGroup f).refused = s.refused := rfl
@[simp] theorem State.mapGroup_behind : (s.mapGroup f).behind = s.behind := rfl
@[simp] theorem State.mapGroup_linkq : (s.mapGroup f).linkq = s.linkq := rfl
@[simp] theorem State.mapGroup_carried : (s.mapGroup f).carried = s.carried := rfl
@[simp] theorem State.mapGroup_reads : (s.mapGroup f).reads = s.reads := rfl
@[simp] theorem State.mapGroup_dumps : (s.mapGroup f).dumps = s.dumps := rfl
@[simp] theorem State.mapGroup_ports : (s.mapGroup f).ports = s.ports := rfl
@[simp] theorem State.mapGroup_chans : (s.mapGroup f).chans = s.chans := rfl
@[simp] theorem State.mapGroup_tests : (s.mapGroup f).tests = s.tests := rfl
@[simp] theorem State.mapGroup_unitErrs : (s.mapGroup f).unitErrs = s.unitErrs := rfl
@[simp] theorem State.mapGroup_bankRows : (s.mapGroup f).bankRows = s.bankRows := rfl
@[simp] theorem State.mapGroup_recordAt : (s.mapGroup f).recordAt = s.recordAt := rfl
@[simp] theorem State.mapGroup_drops : (s.mapGroup f).drops = s.drops := rfl
@[simp] theorem State.mapGroup_node : (s.mapGroup f).node = s.node := rfl
@[simp] theorem State.mapGroup_fenced : (s.mapGroup f).fenced = s.fenced := rfl
@[simp] theorem State.mapGroup_booted : (s.mapGroup f).booted = s.booted := rfl
@[simp] theorem State.mapGroup_bootReady : (s.mapGroup f).bootReady = s.bootReady := rfl
@[simp] theorem State.mapGroup_flash : (s.mapGroup f).flash = s.flash := rfl
@[simp] theorem State.mapGroup_tagSeq : (s.mapGroup f).tagSeq = s.tagSeq := rfl
@[simp] theorem State.mapGroup_agenda : (s.mapGroup f).agenda = s.agenda := rfl
@[simp] theorem State.mapGroup_focus : (s.mapGroup f).focus = s.focus := rfl
@[simp] theorem State.mapGroup_group : (s.mapGroup f).group = s.group := rfl
@[simp] theorem State.mapGroup_msg : (s.mapGroup f).msg = s.msg := rfl
@[simp] theorem State.mapGroup_free : (s.mapGroup f).free = s.free := rfl
@[simp] theorem State.mapGroup_uid : (s.mapGroup f).uid = s.uid := rfl
@[simp] theorem State.mapGroup_word : (s.mapGroup f).word = s.word := rfl
@[simp] theorem State.mapGroup_proxy : (s.mapGroup f).proxy = s.proxy := rfl
end

section
variable (s : State) (id : Nat) (f : Block → Block)
@[simp] theorem State.updBlock_part : (s.updBlock id f).part = s.part := rfl
@[simp] theorem State.updBlock_powered : (s.updBlock id f).powered = s.powered := rfl
@[simp] theorem State.updBlock_mem : (s.updBlock id f).mem = s.mem := rfl
@[simp] theorem State.updBlock_tags : (s.updBlock id f).tags = s.tags := rfl
@[simp] theorem State.updBlock_poison : (s.updBlock id f).poison = s.poison := rfl
@[simp] theorem State.updBlock_consumed : (s.updBlock id f).consumed = s.consumed := rfl
@[simp] theorem State.updBlock_dies : (s.updBlock id f).dies = s.dies := rfl
@[simp] theorem State.updBlock_ctxs : (s.updBlock id f).ctxs = s.ctxs := rfl
@[simp] theorem State.updBlock_pdks : (s.updBlock id f).pdks = s.pdks := rfl
@[simp] theorem State.updBlock_units : (s.updBlock id f).units = s.units := rfl
@[simp] theorem State.updBlock_grids : (s.updBlock id f).grids = s.grids := rfl
@[simp] theorem State.updBlock_slices : (s.updBlock id f).slices = s.slices := rfl
@[simp] theorem State.updBlock_shadows : (s.updBlock id f).shadows = s.shadows := rfl
@[simp] theorem State.updBlock_bars : (s.updBlock id f).bars = s.bars := rfl
@[simp] theorem State.updBlock_bbs : (s.updBlock id f).bbs = s.bbs := rfl
@[simp] theorem State.updBlock_cmds : (s.updBlock id f).cmds = s.cmds := rfl
@[simp] theorem State.updBlock_stalls : (s.updBlock id f).stalls = s.stalls := rfl
@[simp] theorem State.updBlock_retiring : (s.updBlock id f).retiring = s.retiring := rfl
@[simp] theorem State.updBlock_pushbuf : (s.updBlock id f).pushbuf = s.pushbuf := rfl
@[simp] theorem State.updBlock_saved : (s.updBlock id f).saved = s.saved := rfl
@[simp] theorem State.updBlock_tlb : (s.updBlock id f).tlb = s.tlb := rfl
@[simp] theorem State.updBlock_red : (s.updBlock id f).red = s.red := rfl
@[simp] theorem State.updBlock_tree : (s.updBlock id f).tree = s.tree := rfl
@[simp] theorem State.updBlock_awaits : (s.updBlock id f).awaits = s.awaits := rfl
@[simp] theorem State.updBlock_mgmt : (s.updBlock id f).mgmt = s.mgmt := rfl
@[simp] theorem State.updBlock_asked : (s.updBlock id f).asked = s.asked := rfl
@[simp] theorem State.updBlock_mgmtq : (s.updBlock id f).mgmtq = s.mgmtq := rfl
@[simp] theorem State.updBlock_outbox : (s.updBlock id f).outbox = s.outbox := rfl
@[simp] theorem State.updBlock_resend : (s.updBlock id f).resend = s.resend := rfl
@[simp] theorem State.updBlock_vdevs : (s.updBlock id f).vdevs = s.vdevs := rfl
@[simp] theorem State.updBlock_joins : (s.updBlock id f).joins = s.joins := rfl
@[simp] theorem State.updBlock_windows : (s.updBlock id f).windows = s.windows := rfl
@[simp] theorem State.updBlock_sessions : (s.updBlock id f).sessions = s.sessions := rfl
@[simp] theorem State.updBlock_cuts : (s.updBlock id f).cuts = s.cuts := rfl
@[simp] theorem State.updBlock_replays : (s.updBlock id f).replays = s.replays := rfl
@[simp] theorem State.updBlock_refused : (s.updBlock id f).refused = s.refused := rfl
@[simp] theorem State.updBlock_behind : (s.updBlock id f).behind = s.behind := rfl
@[simp] theorem State.updBlock_linkq : (s.updBlock id f).linkq = s.linkq := rfl
@[simp] theorem State.updBlock_carried : (s.updBlock id f).carried = s.carried := rfl
@[simp] theorem State.updBlock_reads : (s.updBlock id f).reads = s.reads := rfl
@[simp] theorem State.updBlock_dumps : (s.updBlock id f).dumps = s.dumps := rfl
@[simp] theorem State.updBlock_ports : (s.updBlock id f).ports = s.ports := rfl
@[simp] theorem State.updBlock_chans : (s.updBlock id f).chans = s.chans := rfl
@[simp] theorem State.updBlock_tests : (s.updBlock id f).tests = s.tests := rfl
@[simp] theorem State.updBlock_unitErrs : (s.updBlock id f).unitErrs = s.unitErrs := rfl
@[simp] theorem State.updBlock_bankRows : (s.updBlock id f).bankRows = s.bankRows := rfl
@[simp] theorem State.updBlock_recordAt : (s.updBlock id f).recordAt = s.recordAt := rfl
@[simp] theorem State.updBlock_drops : (s.updBlock id f).drops = s.drops := rfl
@[simp] theorem State.updBlock_node : (s.updBlock id f).node = s.node := rfl
@[simp] theorem State.updBlock_fenced : (s.updBlock id f).fenced = s.fenced := rfl
@[simp] theorem State.updBlock_booted : (s.updBlock id f).booted = s.booted := rfl
@[simp] theorem State.updBlock_bootReady : (s.updBlock id f).bootReady = s.bootReady := rfl
@[simp] theorem State.updBlock_flash : (s.updBlock id f).flash = s.flash := rfl
@[simp] theorem State.updBlock_tagSeq : (s.updBlock id f).tagSeq = s.tagSeq := rfl
@[simp] theorem State.updBlock_agenda : (s.updBlock id f).agenda = s.agenda := rfl
@[simp] theorem State.updBlock_focus : (s.updBlock id f).focus = s.focus := rfl
@[simp] theorem State.updBlock_group : (s.updBlock id f).group = s.group := rfl
@[simp] theorem State.updBlock_msg : (s.updBlock id f).msg = s.msg := rfl
@[simp] theorem State.updBlock_free : (s.updBlock id f).free = s.free := rfl
@[simp] theorem State.updBlock_uid : (s.updBlock id f).uid = s.uid := rfl
@[simp] theorem State.updBlock_word : (s.updBlock id f).word = s.word := rfl
@[simp] theorem State.updBlock_proxy : (s.updBlock id f).proxy = s.proxy := rfl
end

section
variable (s : State) (x : Block)
@[simp] theorem State.putBlock_part : (s.putBlock x).part = s.part := rfl
@[simp] theorem State.putBlock_powered : (s.putBlock x).powered = s.powered := rfl
@[simp] theorem State.putBlock_mem : (s.putBlock x).mem = s.mem := rfl
@[simp] theorem State.putBlock_tags : (s.putBlock x).tags = s.tags := rfl
@[simp] theorem State.putBlock_poison : (s.putBlock x).poison = s.poison := rfl
@[simp] theorem State.putBlock_consumed : (s.putBlock x).consumed = s.consumed := rfl
@[simp] theorem State.putBlock_dies : (s.putBlock x).dies = s.dies := rfl
@[simp] theorem State.putBlock_ctxs : (s.putBlock x).ctxs = s.ctxs := rfl
@[simp] theorem State.putBlock_pdks : (s.putBlock x).pdks = s.pdks := rfl
@[simp] theorem State.putBlock_units : (s.putBlock x).units = s.units := rfl
@[simp] theorem State.putBlock_grids : (s.putBlock x).grids = s.grids := rfl
@[simp] theorem State.putBlock_slices : (s.putBlock x).slices = s.slices := rfl
@[simp] theorem State.putBlock_shadows : (s.putBlock x).shadows = s.shadows := rfl
@[simp] theorem State.putBlock_bars : (s.putBlock x).bars = s.bars := rfl
@[simp] theorem State.putBlock_bbs : (s.putBlock x).bbs = s.bbs := rfl
@[simp] theorem State.putBlock_cmds : (s.putBlock x).cmds = s.cmds := rfl
@[simp] theorem State.putBlock_stalls : (s.putBlock x).stalls = s.stalls := rfl
@[simp] theorem State.putBlock_retiring : (s.putBlock x).retiring = s.retiring := rfl
@[simp] theorem State.putBlock_pushbuf : (s.putBlock x).pushbuf = s.pushbuf := rfl
@[simp] theorem State.putBlock_saved : (s.putBlock x).saved = s.saved := rfl
@[simp] theorem State.putBlock_tlb : (s.putBlock x).tlb = s.tlb := rfl
@[simp] theorem State.putBlock_red : (s.putBlock x).red = s.red := rfl
@[simp] theorem State.putBlock_tree : (s.putBlock x).tree = s.tree := rfl
@[simp] theorem State.putBlock_awaits : (s.putBlock x).awaits = s.awaits := rfl
@[simp] theorem State.putBlock_mgmt : (s.putBlock x).mgmt = s.mgmt := rfl
@[simp] theorem State.putBlock_asked : (s.putBlock x).asked = s.asked := rfl
@[simp] theorem State.putBlock_mgmtq : (s.putBlock x).mgmtq = s.mgmtq := rfl
@[simp] theorem State.putBlock_outbox : (s.putBlock x).outbox = s.outbox := rfl
@[simp] theorem State.putBlock_resend : (s.putBlock x).resend = s.resend := rfl
@[simp] theorem State.putBlock_vdevs : (s.putBlock x).vdevs = s.vdevs := rfl
@[simp] theorem State.putBlock_joins : (s.putBlock x).joins = s.joins := rfl
@[simp] theorem State.putBlock_windows : (s.putBlock x).windows = s.windows := rfl
@[simp] theorem State.putBlock_sessions : (s.putBlock x).sessions = s.sessions := rfl
@[simp] theorem State.putBlock_cuts : (s.putBlock x).cuts = s.cuts := rfl
@[simp] theorem State.putBlock_replays : (s.putBlock x).replays = s.replays := rfl
@[simp] theorem State.putBlock_refused : (s.putBlock x).refused = s.refused := rfl
@[simp] theorem State.putBlock_behind : (s.putBlock x).behind = s.behind := rfl
@[simp] theorem State.putBlock_linkq : (s.putBlock x).linkq = s.linkq := rfl
@[simp] theorem State.putBlock_carried : (s.putBlock x).carried = s.carried := rfl
@[simp] theorem State.putBlock_reads : (s.putBlock x).reads = s.reads := rfl
@[simp] theorem State.putBlock_dumps : (s.putBlock x).dumps = s.dumps := rfl
@[simp] theorem State.putBlock_ports : (s.putBlock x).ports = s.ports := rfl
@[simp] theorem State.putBlock_chans : (s.putBlock x).chans = s.chans := rfl
@[simp] theorem State.putBlock_tests : (s.putBlock x).tests = s.tests := rfl
@[simp] theorem State.putBlock_unitErrs : (s.putBlock x).unitErrs = s.unitErrs := rfl
@[simp] theorem State.putBlock_bankRows : (s.putBlock x).bankRows = s.bankRows := rfl
@[simp] theorem State.putBlock_recordAt : (s.putBlock x).recordAt = s.recordAt := rfl
@[simp] theorem State.putBlock_drops : (s.putBlock x).drops = s.drops := rfl
@[simp] theorem State.putBlock_node : (s.putBlock x).node = s.node := rfl
@[simp] theorem State.putBlock_fenced : (s.putBlock x).fenced = s.fenced := rfl
@[simp] theorem State.putBlock_booted : (s.putBlock x).booted = s.booted := rfl
@[simp] theorem State.putBlock_bootReady : (s.putBlock x).bootReady = s.bootReady := rfl
@[simp] theorem State.putBlock_flash : (s.putBlock x).flash = s.flash := rfl
@[simp] theorem State.putBlock_tagSeq : (s.putBlock x).tagSeq = s.tagSeq := rfl
@[simp] theorem State.putBlock_agenda : (s.putBlock x).agenda = s.agenda := rfl
@[simp] theorem State.putBlock_focus : (s.putBlock x).focus = s.focus := rfl
@[simp] theorem State.putBlock_group : (s.putBlock x).group = s.group := rfl
@[simp] theorem State.putBlock_msg : (s.putBlock x).msg = s.msg := rfl
@[simp] theorem State.putBlock_free : (s.putBlock x).free = s.free := rfl
@[simp] theorem State.putBlock_uid : (s.putBlock x).uid = s.uid := rfl
@[simp] theorem State.putBlock_word : (s.putBlock x).word = s.word := rfl
@[simp] theorem State.putBlock_proxy : (s.putBlock x).proxy = s.proxy := rfl
end

section
variable (s : State) (id : Nat) (f : Grid → Grid)
@[simp] theorem State.updGrid_part : (s.updGrid id f).part = s.part := rfl
@[simp] theorem State.updGrid_powered : (s.updGrid id f).powered = s.powered := rfl
@[simp] theorem State.updGrid_mem : (s.updGrid id f).mem = s.mem := rfl
@[simp] theorem State.updGrid_tags : (s.updGrid id f).tags = s.tags := rfl
@[simp] theorem State.updGrid_poison : (s.updGrid id f).poison = s.poison := rfl
@[simp] theorem State.updGrid_consumed : (s.updGrid id f).consumed = s.consumed := rfl
@[simp] theorem State.updGrid_dies : (s.updGrid id f).dies = s.dies := rfl
@[simp] theorem State.updGrid_ctxs : (s.updGrid id f).ctxs = s.ctxs := rfl
@[simp] theorem State.updGrid_pdks : (s.updGrid id f).pdks = s.pdks := rfl
@[simp] theorem State.updGrid_units : (s.updGrid id f).units = s.units := rfl
@[simp] theorem State.updGrid_blocks : (s.updGrid id f).blocks = s.blocks := rfl
@[simp] theorem State.updGrid_slices : (s.updGrid id f).slices = s.slices := rfl
@[simp] theorem State.updGrid_shadows : (s.updGrid id f).shadows = s.shadows := rfl
@[simp] theorem State.updGrid_bars : (s.updGrid id f).bars = s.bars := rfl
@[simp] theorem State.updGrid_bbs : (s.updGrid id f).bbs = s.bbs := rfl
@[simp] theorem State.updGrid_cmds : (s.updGrid id f).cmds = s.cmds := rfl
@[simp] theorem State.updGrid_stalls : (s.updGrid id f).stalls = s.stalls := rfl
@[simp] theorem State.updGrid_retiring : (s.updGrid id f).retiring = s.retiring := rfl
@[simp] theorem State.updGrid_pushbuf : (s.updGrid id f).pushbuf = s.pushbuf := rfl
@[simp] theorem State.updGrid_saved : (s.updGrid id f).saved = s.saved := rfl
@[simp] theorem State.updGrid_tlb : (s.updGrid id f).tlb = s.tlb := rfl
@[simp] theorem State.updGrid_red : (s.updGrid id f).red = s.red := rfl
@[simp] theorem State.updGrid_tree : (s.updGrid id f).tree = s.tree := rfl
@[simp] theorem State.updGrid_awaits : (s.updGrid id f).awaits = s.awaits := rfl
@[simp] theorem State.updGrid_mgmt : (s.updGrid id f).mgmt = s.mgmt := rfl
@[simp] theorem State.updGrid_asked : (s.updGrid id f).asked = s.asked := rfl
@[simp] theorem State.updGrid_mgmtq : (s.updGrid id f).mgmtq = s.mgmtq := rfl
@[simp] theorem State.updGrid_outbox : (s.updGrid id f).outbox = s.outbox := rfl
@[simp] theorem State.updGrid_resend : (s.updGrid id f).resend = s.resend := rfl
@[simp] theorem State.updGrid_vdevs : (s.updGrid id f).vdevs = s.vdevs := rfl
@[simp] theorem State.updGrid_joins : (s.updGrid id f).joins = s.joins := rfl
@[simp] theorem State.updGrid_windows : (s.updGrid id f).windows = s.windows := rfl
@[simp] theorem State.updGrid_sessions : (s.updGrid id f).sessions = s.sessions := rfl
@[simp] theorem State.updGrid_cuts : (s.updGrid id f).cuts = s.cuts := rfl
@[simp] theorem State.updGrid_replays : (s.updGrid id f).replays = s.replays := rfl
@[simp] theorem State.updGrid_refused : (s.updGrid id f).refused = s.refused := rfl
@[simp] theorem State.updGrid_behind : (s.updGrid id f).behind = s.behind := rfl
@[simp] theorem State.updGrid_linkq : (s.updGrid id f).linkq = s.linkq := rfl
@[simp] theorem State.updGrid_carried : (s.updGrid id f).carried = s.carried := rfl
@[simp] theorem State.updGrid_reads : (s.updGrid id f).reads = s.reads := rfl
@[simp] theorem State.updGrid_dumps : (s.updGrid id f).dumps = s.dumps := rfl
@[simp] theorem State.updGrid_ports : (s.updGrid id f).ports = s.ports := rfl
@[simp] theorem State.updGrid_chans : (s.updGrid id f).chans = s.chans := rfl
@[simp] theorem State.updGrid_tests : (s.updGrid id f).tests = s.tests := rfl
@[simp] theorem State.updGrid_unitErrs : (s.updGrid id f).unitErrs = s.unitErrs := rfl
@[simp] theorem State.updGrid_bankRows : (s.updGrid id f).bankRows = s.bankRows := rfl
@[simp] theorem State.updGrid_recordAt : (s.updGrid id f).recordAt = s.recordAt := rfl
@[simp] theorem State.updGrid_drops : (s.updGrid id f).drops = s.drops := rfl
@[simp] theorem State.updGrid_node : (s.updGrid id f).node = s.node := rfl
@[simp] theorem State.updGrid_fenced : (s.updGrid id f).fenced = s.fenced := rfl
@[simp] theorem State.updGrid_booted : (s.updGrid id f).booted = s.booted := rfl
@[simp] theorem State.updGrid_bootReady : (s.updGrid id f).bootReady = s.bootReady := rfl
@[simp] theorem State.updGrid_flash : (s.updGrid id f).flash = s.flash := rfl
@[simp] theorem State.updGrid_tagSeq : (s.updGrid id f).tagSeq = s.tagSeq := rfl
@[simp] theorem State.updGrid_agenda : (s.updGrid id f).agenda = s.agenda := rfl
@[simp] theorem State.updGrid_focus : (s.updGrid id f).focus = s.focus := rfl
@[simp] theorem State.updGrid_group : (s.updGrid id f).group = s.group := rfl
@[simp] theorem State.updGrid_msg : (s.updGrid id f).msg = s.msg := rfl
@[simp] theorem State.updGrid_free : (s.updGrid id f).free = s.free := rfl
@[simp] theorem State.updGrid_uid : (s.updGrid id f).uid = s.uid := rfl
@[simp] theorem State.updGrid_word : (s.updGrid id f).word = s.word := rfl
@[simp] theorem State.updGrid_proxy : (s.updGrid id f).proxy = s.proxy := rfl
end

section
variable (s : State) (x : Grid)
@[simp] theorem State.putGrid_part : (s.putGrid x).part = s.part := rfl
@[simp] theorem State.putGrid_powered : (s.putGrid x).powered = s.powered := rfl
@[simp] theorem State.putGrid_mem : (s.putGrid x).mem = s.mem := rfl
@[simp] theorem State.putGrid_tags : (s.putGrid x).tags = s.tags := rfl
@[simp] theorem State.putGrid_poison : (s.putGrid x).poison = s.poison := rfl
@[simp] theorem State.putGrid_consumed : (s.putGrid x).consumed = s.consumed := rfl
@[simp] theorem State.putGrid_dies : (s.putGrid x).dies = s.dies := rfl
@[simp] theorem State.putGrid_ctxs : (s.putGrid x).ctxs = s.ctxs := rfl
@[simp] theorem State.putGrid_pdks : (s.putGrid x).pdks = s.pdks := rfl
@[simp] theorem State.putGrid_units : (s.putGrid x).units = s.units := rfl
@[simp] theorem State.putGrid_blocks : (s.putGrid x).blocks = s.blocks := rfl
@[simp] theorem State.putGrid_slices : (s.putGrid x).slices = s.slices := rfl
@[simp] theorem State.putGrid_shadows : (s.putGrid x).shadows = s.shadows := rfl
@[simp] theorem State.putGrid_bars : (s.putGrid x).bars = s.bars := rfl
@[simp] theorem State.putGrid_bbs : (s.putGrid x).bbs = s.bbs := rfl
@[simp] theorem State.putGrid_cmds : (s.putGrid x).cmds = s.cmds := rfl
@[simp] theorem State.putGrid_stalls : (s.putGrid x).stalls = s.stalls := rfl
@[simp] theorem State.putGrid_retiring : (s.putGrid x).retiring = s.retiring := rfl
@[simp] theorem State.putGrid_pushbuf : (s.putGrid x).pushbuf = s.pushbuf := rfl
@[simp] theorem State.putGrid_saved : (s.putGrid x).saved = s.saved := rfl
@[simp] theorem State.putGrid_tlb : (s.putGrid x).tlb = s.tlb := rfl
@[simp] theorem State.putGrid_red : (s.putGrid x).red = s.red := rfl
@[simp] theorem State.putGrid_tree : (s.putGrid x).tree = s.tree := rfl
@[simp] theorem State.putGrid_awaits : (s.putGrid x).awaits = s.awaits := rfl
@[simp] theorem State.putGrid_mgmt : (s.putGrid x).mgmt = s.mgmt := rfl
@[simp] theorem State.putGrid_asked : (s.putGrid x).asked = s.asked := rfl
@[simp] theorem State.putGrid_mgmtq : (s.putGrid x).mgmtq = s.mgmtq := rfl
@[simp] theorem State.putGrid_outbox : (s.putGrid x).outbox = s.outbox := rfl
@[simp] theorem State.putGrid_resend : (s.putGrid x).resend = s.resend := rfl
@[simp] theorem State.putGrid_vdevs : (s.putGrid x).vdevs = s.vdevs := rfl
@[simp] theorem State.putGrid_joins : (s.putGrid x).joins = s.joins := rfl
@[simp] theorem State.putGrid_windows : (s.putGrid x).windows = s.windows := rfl
@[simp] theorem State.putGrid_sessions : (s.putGrid x).sessions = s.sessions := rfl
@[simp] theorem State.putGrid_cuts : (s.putGrid x).cuts = s.cuts := rfl
@[simp] theorem State.putGrid_replays : (s.putGrid x).replays = s.replays := rfl
@[simp] theorem State.putGrid_refused : (s.putGrid x).refused = s.refused := rfl
@[simp] theorem State.putGrid_behind : (s.putGrid x).behind = s.behind := rfl
@[simp] theorem State.putGrid_linkq : (s.putGrid x).linkq = s.linkq := rfl
@[simp] theorem State.putGrid_carried : (s.putGrid x).carried = s.carried := rfl
@[simp] theorem State.putGrid_reads : (s.putGrid x).reads = s.reads := rfl
@[simp] theorem State.putGrid_dumps : (s.putGrid x).dumps = s.dumps := rfl
@[simp] theorem State.putGrid_ports : (s.putGrid x).ports = s.ports := rfl
@[simp] theorem State.putGrid_chans : (s.putGrid x).chans = s.chans := rfl
@[simp] theorem State.putGrid_tests : (s.putGrid x).tests = s.tests := rfl
@[simp] theorem State.putGrid_unitErrs : (s.putGrid x).unitErrs = s.unitErrs := rfl
@[simp] theorem State.putGrid_bankRows : (s.putGrid x).bankRows = s.bankRows := rfl
@[simp] theorem State.putGrid_recordAt : (s.putGrid x).recordAt = s.recordAt := rfl
@[simp] theorem State.putGrid_drops : (s.putGrid x).drops = s.drops := rfl
@[simp] theorem State.putGrid_node : (s.putGrid x).node = s.node := rfl
@[simp] theorem State.putGrid_fenced : (s.putGrid x).fenced = s.fenced := rfl
@[simp] theorem State.putGrid_booted : (s.putGrid x).booted = s.booted := rfl
@[simp] theorem State.putGrid_bootReady : (s.putGrid x).bootReady = s.bootReady := rfl
@[simp] theorem State.putGrid_flash : (s.putGrid x).flash = s.flash := rfl
@[simp] theorem State.putGrid_tagSeq : (s.putGrid x).tagSeq = s.tagSeq := rfl
@[simp] theorem State.putGrid_agenda : (s.putGrid x).agenda = s.agenda := rfl
@[simp] theorem State.putGrid_focus : (s.putGrid x).focus = s.focus := rfl
@[simp] theorem State.putGrid_group : (s.putGrid x).group = s.group := rfl
@[simp] theorem State.putGrid_msg : (s.putGrid x).msg = s.msg := rfl
@[simp] theorem State.putGrid_free : (s.putGrid x).free = s.free := rfl
@[simp] theorem State.putGrid_uid : (s.putGrid x).uid = s.uid := rfl
@[simp] theorem State.putGrid_word : (s.putGrid x).word = s.word := rfl
@[simp] theorem State.putGrid_proxy : (s.putGrid x).proxy = s.proxy := rfl
end

section
variable (s : State) (k : Nat) (f : Ctx → Ctx)
@[simp] theorem State.updCtx_part : (s.updCtx k f).part = s.part := rfl
@[simp] theorem State.updCtx_powered : (s.updCtx k f).powered = s.powered := rfl
@[simp] theorem State.updCtx_mem : (s.updCtx k f).mem = s.mem := rfl
@[simp] theorem State.updCtx_tags : (s.updCtx k f).tags = s.tags := rfl
@[simp] theorem State.updCtx_poison : (s.updCtx k f).poison = s.poison := rfl
@[simp] theorem State.updCtx_consumed : (s.updCtx k f).consumed = s.consumed := rfl
@[simp] theorem State.updCtx_dies : (s.updCtx k f).dies = s.dies := rfl
@[simp] theorem State.updCtx_pdks : (s.updCtx k f).pdks = s.pdks := rfl
@[simp] theorem State.updCtx_units : (s.updCtx k f).units = s.units := rfl
@[simp] theorem State.updCtx_grids : (s.updCtx k f).grids = s.grids := rfl
@[simp] theorem State.updCtx_blocks : (s.updCtx k f).blocks = s.blocks := rfl
@[simp] theorem State.updCtx_slices : (s.updCtx k f).slices = s.slices := rfl
@[simp] theorem State.updCtx_shadows : (s.updCtx k f).shadows = s.shadows := rfl
@[simp] theorem State.updCtx_bars : (s.updCtx k f).bars = s.bars := rfl
@[simp] theorem State.updCtx_bbs : (s.updCtx k f).bbs = s.bbs := rfl
@[simp] theorem State.updCtx_cmds : (s.updCtx k f).cmds = s.cmds := rfl
@[simp] theorem State.updCtx_stalls : (s.updCtx k f).stalls = s.stalls := rfl
@[simp] theorem State.updCtx_retiring : (s.updCtx k f).retiring = s.retiring := rfl
@[simp] theorem State.updCtx_pushbuf : (s.updCtx k f).pushbuf = s.pushbuf := rfl
@[simp] theorem State.updCtx_saved : (s.updCtx k f).saved = s.saved := rfl
@[simp] theorem State.updCtx_tlb : (s.updCtx k f).tlb = s.tlb := rfl
@[simp] theorem State.updCtx_red : (s.updCtx k f).red = s.red := rfl
@[simp] theorem State.updCtx_tree : (s.updCtx k f).tree = s.tree := rfl
@[simp] theorem State.updCtx_awaits : (s.updCtx k f).awaits = s.awaits := rfl
@[simp] theorem State.updCtx_mgmt : (s.updCtx k f).mgmt = s.mgmt := rfl
@[simp] theorem State.updCtx_asked : (s.updCtx k f).asked = s.asked := rfl
@[simp] theorem State.updCtx_mgmtq : (s.updCtx k f).mgmtq = s.mgmtq := rfl
@[simp] theorem State.updCtx_outbox : (s.updCtx k f).outbox = s.outbox := rfl
@[simp] theorem State.updCtx_resend : (s.updCtx k f).resend = s.resend := rfl
@[simp] theorem State.updCtx_vdevs : (s.updCtx k f).vdevs = s.vdevs := rfl
@[simp] theorem State.updCtx_joins : (s.updCtx k f).joins = s.joins := rfl
@[simp] theorem State.updCtx_windows : (s.updCtx k f).windows = s.windows := rfl
@[simp] theorem State.updCtx_sessions : (s.updCtx k f).sessions = s.sessions := rfl
@[simp] theorem State.updCtx_cuts : (s.updCtx k f).cuts = s.cuts := rfl
@[simp] theorem State.updCtx_replays : (s.updCtx k f).replays = s.replays := rfl
@[simp] theorem State.updCtx_refused : (s.updCtx k f).refused = s.refused := rfl
@[simp] theorem State.updCtx_behind : (s.updCtx k f).behind = s.behind := rfl
@[simp] theorem State.updCtx_linkq : (s.updCtx k f).linkq = s.linkq := rfl
@[simp] theorem State.updCtx_carried : (s.updCtx k f).carried = s.carried := rfl
@[simp] theorem State.updCtx_reads : (s.updCtx k f).reads = s.reads := rfl
@[simp] theorem State.updCtx_dumps : (s.updCtx k f).dumps = s.dumps := rfl
@[simp] theorem State.updCtx_ports : (s.updCtx k f).ports = s.ports := rfl
@[simp] theorem State.updCtx_chans : (s.updCtx k f).chans = s.chans := rfl
@[simp] theorem State.updCtx_tests : (s.updCtx k f).tests = s.tests := rfl
@[simp] theorem State.updCtx_unitErrs : (s.updCtx k f).unitErrs = s.unitErrs := rfl
@[simp] theorem State.updCtx_bankRows : (s.updCtx k f).bankRows = s.bankRows := rfl
@[simp] theorem State.updCtx_recordAt : (s.updCtx k f).recordAt = s.recordAt := rfl
@[simp] theorem State.updCtx_drops : (s.updCtx k f).drops = s.drops := rfl
@[simp] theorem State.updCtx_node : (s.updCtx k f).node = s.node := rfl
@[simp] theorem State.updCtx_fenced : (s.updCtx k f).fenced = s.fenced := rfl
@[simp] theorem State.updCtx_booted : (s.updCtx k f).booted = s.booted := rfl
@[simp] theorem State.updCtx_bootReady : (s.updCtx k f).bootReady = s.bootReady := rfl
@[simp] theorem State.updCtx_flash : (s.updCtx k f).flash = s.flash := rfl
@[simp] theorem State.updCtx_tagSeq : (s.updCtx k f).tagSeq = s.tagSeq := rfl
@[simp] theorem State.updCtx_agenda : (s.updCtx k f).agenda = s.agenda := rfl
@[simp] theorem State.updCtx_focus : (s.updCtx k f).focus = s.focus := rfl
@[simp] theorem State.updCtx_group : (s.updCtx k f).group = s.group := rfl
@[simp] theorem State.updCtx_msg : (s.updCtx k f).msg = s.msg := rfl
@[simp] theorem State.updCtx_free : (s.updCtx k f).free = s.free := rfl
@[simp] theorem State.updCtx_uid : (s.updCtx k f).uid = s.uid := rfl
@[simp] theorem State.updCtx_word : (s.updCtx k f).word = s.word := rfl
@[simp] theorem State.updCtx_proxy : (s.updCtx k f).proxy = s.proxy := rfl
end

section
variable (s : State) (k : Nat) (f : Pdk → Pdk)
@[simp] theorem State.updPdk_part : (s.updPdk k f).part = s.part := rfl
@[simp] theorem State.updPdk_powered : (s.updPdk k f).powered = s.powered := rfl
@[simp] theorem State.updPdk_mem : (s.updPdk k f).mem = s.mem := rfl
@[simp] theorem State.updPdk_tags : (s.updPdk k f).tags = s.tags := rfl
@[simp] theorem State.updPdk_poison : (s.updPdk k f).poison = s.poison := rfl
@[simp] theorem State.updPdk_consumed : (s.updPdk k f).consumed = s.consumed := rfl
@[simp] theorem State.updPdk_dies : (s.updPdk k f).dies = s.dies := rfl
@[simp] theorem State.updPdk_ctxs : (s.updPdk k f).ctxs = s.ctxs := rfl
@[simp] theorem State.updPdk_units : (s.updPdk k f).units = s.units := rfl
@[simp] theorem State.updPdk_grids : (s.updPdk k f).grids = s.grids := rfl
@[simp] theorem State.updPdk_blocks : (s.updPdk k f).blocks = s.blocks := rfl
@[simp] theorem State.updPdk_slices : (s.updPdk k f).slices = s.slices := rfl
@[simp] theorem State.updPdk_shadows : (s.updPdk k f).shadows = s.shadows := rfl
@[simp] theorem State.updPdk_bars : (s.updPdk k f).bars = s.bars := rfl
@[simp] theorem State.updPdk_bbs : (s.updPdk k f).bbs = s.bbs := rfl
@[simp] theorem State.updPdk_cmds : (s.updPdk k f).cmds = s.cmds := rfl
@[simp] theorem State.updPdk_stalls : (s.updPdk k f).stalls = s.stalls := rfl
@[simp] theorem State.updPdk_retiring : (s.updPdk k f).retiring = s.retiring := rfl
@[simp] theorem State.updPdk_pushbuf : (s.updPdk k f).pushbuf = s.pushbuf := rfl
@[simp] theorem State.updPdk_saved : (s.updPdk k f).saved = s.saved := rfl
@[simp] theorem State.updPdk_tlb : (s.updPdk k f).tlb = s.tlb := rfl
@[simp] theorem State.updPdk_red : (s.updPdk k f).red = s.red := rfl
@[simp] theorem State.updPdk_tree : (s.updPdk k f).tree = s.tree := rfl
@[simp] theorem State.updPdk_awaits : (s.updPdk k f).awaits = s.awaits := rfl
@[simp] theorem State.updPdk_mgmt : (s.updPdk k f).mgmt = s.mgmt := rfl
@[simp] theorem State.updPdk_asked : (s.updPdk k f).asked = s.asked := rfl
@[simp] theorem State.updPdk_mgmtq : (s.updPdk k f).mgmtq = s.mgmtq := rfl
@[simp] theorem State.updPdk_outbox : (s.updPdk k f).outbox = s.outbox := rfl
@[simp] theorem State.updPdk_resend : (s.updPdk k f).resend = s.resend := rfl
@[simp] theorem State.updPdk_vdevs : (s.updPdk k f).vdevs = s.vdevs := rfl
@[simp] theorem State.updPdk_joins : (s.updPdk k f).joins = s.joins := rfl
@[simp] theorem State.updPdk_windows : (s.updPdk k f).windows = s.windows := rfl
@[simp] theorem State.updPdk_sessions : (s.updPdk k f).sessions = s.sessions := rfl
@[simp] theorem State.updPdk_cuts : (s.updPdk k f).cuts = s.cuts := rfl
@[simp] theorem State.updPdk_replays : (s.updPdk k f).replays = s.replays := rfl
@[simp] theorem State.updPdk_refused : (s.updPdk k f).refused = s.refused := rfl
@[simp] theorem State.updPdk_behind : (s.updPdk k f).behind = s.behind := rfl
@[simp] theorem State.updPdk_linkq : (s.updPdk k f).linkq = s.linkq := rfl
@[simp] theorem State.updPdk_carried : (s.updPdk k f).carried = s.carried := rfl
@[simp] theorem State.updPdk_reads : (s.updPdk k f).reads = s.reads := rfl
@[simp] theorem State.updPdk_dumps : (s.updPdk k f).dumps = s.dumps := rfl
@[simp] theorem State.updPdk_ports : (s.updPdk k f).ports = s.ports := rfl
@[simp] theorem State.updPdk_chans : (s.updPdk k f).chans = s.chans := rfl
@[simp] theorem State.updPdk_tests : (s.updPdk k f).tests = s.tests := rfl
@[simp] theorem State.updPdk_unitErrs : (s.updPdk k f).unitErrs = s.unitErrs := rfl
@[simp] theorem State.updPdk_bankRows : (s.updPdk k f).bankRows = s.bankRows := rfl
@[simp] theorem State.updPdk_recordAt : (s.updPdk k f).recordAt = s.recordAt := rfl
@[simp] theorem State.updPdk_drops : (s.updPdk k f).drops = s.drops := rfl
@[simp] theorem State.updPdk_node : (s.updPdk k f).node = s.node := rfl
@[simp] theorem State.updPdk_fenced : (s.updPdk k f).fenced = s.fenced := rfl
@[simp] theorem State.updPdk_booted : (s.updPdk k f).booted = s.booted := rfl
@[simp] theorem State.updPdk_bootReady : (s.updPdk k f).bootReady = s.bootReady := rfl
@[simp] theorem State.updPdk_flash : (s.updPdk k f).flash = s.flash := rfl
@[simp] theorem State.updPdk_tagSeq : (s.updPdk k f).tagSeq = s.tagSeq := rfl
@[simp] theorem State.updPdk_agenda : (s.updPdk k f).agenda = s.agenda := rfl
@[simp] theorem State.updPdk_focus : (s.updPdk k f).focus = s.focus := rfl
@[simp] theorem State.updPdk_group : (s.updPdk k f).group = s.group := rfl
@[simp] theorem State.updPdk_msg : (s.updPdk k f).msg = s.msg := rfl
@[simp] theorem State.updPdk_free : (s.updPdk k f).free = s.free := rfl
@[simp] theorem State.updPdk_uid : (s.updPdk k f).uid = s.uid := rfl
@[simp] theorem State.updPdk_word : (s.updPdk k f).word = s.word := rfl
@[simp] theorem State.updPdk_proxy : (s.updPdk k f).proxy = s.proxy := rfl
end

section
variable (s : State) (k : Nat) (f : PUnit → PUnit)
@[simp] theorem State.updUnit_part : (s.updUnit k f).part = s.part := rfl
@[simp] theorem State.updUnit_powered : (s.updUnit k f).powered = s.powered := rfl
@[simp] theorem State.updUnit_mem : (s.updUnit k f).mem = s.mem := rfl
@[simp] theorem State.updUnit_tags : (s.updUnit k f).tags = s.tags := rfl
@[simp] theorem State.updUnit_poison : (s.updUnit k f).poison = s.poison := rfl
@[simp] theorem State.updUnit_consumed : (s.updUnit k f).consumed = s.consumed := rfl
@[simp] theorem State.updUnit_dies : (s.updUnit k f).dies = s.dies := rfl
@[simp] theorem State.updUnit_ctxs : (s.updUnit k f).ctxs = s.ctxs := rfl
@[simp] theorem State.updUnit_pdks : (s.updUnit k f).pdks = s.pdks := rfl
@[simp] theorem State.updUnit_grids : (s.updUnit k f).grids = s.grids := rfl
@[simp] theorem State.updUnit_blocks : (s.updUnit k f).blocks = s.blocks := rfl
@[simp] theorem State.updUnit_slices : (s.updUnit k f).slices = s.slices := rfl
@[simp] theorem State.updUnit_shadows : (s.updUnit k f).shadows = s.shadows := rfl
@[simp] theorem State.updUnit_bars : (s.updUnit k f).bars = s.bars := rfl
@[simp] theorem State.updUnit_bbs : (s.updUnit k f).bbs = s.bbs := rfl
@[simp] theorem State.updUnit_cmds : (s.updUnit k f).cmds = s.cmds := rfl
@[simp] theorem State.updUnit_stalls : (s.updUnit k f).stalls = s.stalls := rfl
@[simp] theorem State.updUnit_retiring : (s.updUnit k f).retiring = s.retiring := rfl
@[simp] theorem State.updUnit_pushbuf : (s.updUnit k f).pushbuf = s.pushbuf := rfl
@[simp] theorem State.updUnit_saved : (s.updUnit k f).saved = s.saved := rfl
@[simp] theorem State.updUnit_tlb : (s.updUnit k f).tlb = s.tlb := rfl
@[simp] theorem State.updUnit_red : (s.updUnit k f).red = s.red := rfl
@[simp] theorem State.updUnit_tree : (s.updUnit k f).tree = s.tree := rfl
@[simp] theorem State.updUnit_awaits : (s.updUnit k f).awaits = s.awaits := rfl
@[simp] theorem State.updUnit_mgmt : (s.updUnit k f).mgmt = s.mgmt := rfl
@[simp] theorem State.updUnit_asked : (s.updUnit k f).asked = s.asked := rfl
@[simp] theorem State.updUnit_mgmtq : (s.updUnit k f).mgmtq = s.mgmtq := rfl
@[simp] theorem State.updUnit_outbox : (s.updUnit k f).outbox = s.outbox := rfl
@[simp] theorem State.updUnit_resend : (s.updUnit k f).resend = s.resend := rfl
@[simp] theorem State.updUnit_vdevs : (s.updUnit k f).vdevs = s.vdevs := rfl
@[simp] theorem State.updUnit_joins : (s.updUnit k f).joins = s.joins := rfl
@[simp] theorem State.updUnit_windows : (s.updUnit k f).windows = s.windows := rfl
@[simp] theorem State.updUnit_sessions : (s.updUnit k f).sessions = s.sessions := rfl
@[simp] theorem State.updUnit_cuts : (s.updUnit k f).cuts = s.cuts := rfl
@[simp] theorem State.updUnit_replays : (s.updUnit k f).replays = s.replays := rfl
@[simp] theorem State.updUnit_refused : (s.updUnit k f).refused = s.refused := rfl
@[simp] theorem State.updUnit_behind : (s.updUnit k f).behind = s.behind := rfl
@[simp] theorem State.updUnit_linkq : (s.updUnit k f).linkq = s.linkq := rfl
@[simp] theorem State.updUnit_carried : (s.updUnit k f).carried = s.carried := rfl
@[simp] theorem State.updUnit_reads : (s.updUnit k f).reads = s.reads := rfl
@[simp] theorem State.updUnit_dumps : (s.updUnit k f).dumps = s.dumps := rfl
@[simp] theorem State.updUnit_ports : (s.updUnit k f).ports = s.ports := rfl
@[simp] theorem State.updUnit_chans : (s.updUnit k f).chans = s.chans := rfl
@[simp] theorem State.updUnit_tests : (s.updUnit k f).tests = s.tests := rfl
@[simp] theorem State.updUnit_unitErrs : (s.updUnit k f).unitErrs = s.unitErrs := rfl
@[simp] theorem State.updUnit_bankRows : (s.updUnit k f).bankRows = s.bankRows := rfl
@[simp] theorem State.updUnit_recordAt : (s.updUnit k f).recordAt = s.recordAt := rfl
@[simp] theorem State.updUnit_drops : (s.updUnit k f).drops = s.drops := rfl
@[simp] theorem State.updUnit_node : (s.updUnit k f).node = s.node := rfl
@[simp] theorem State.updUnit_fenced : (s.updUnit k f).fenced = s.fenced := rfl
@[simp] theorem State.updUnit_booted : (s.updUnit k f).booted = s.booted := rfl
@[simp] theorem State.updUnit_bootReady : (s.updUnit k f).bootReady = s.bootReady := rfl
@[simp] theorem State.updUnit_flash : (s.updUnit k f).flash = s.flash := rfl
@[simp] theorem State.updUnit_tagSeq : (s.updUnit k f).tagSeq = s.tagSeq := rfl
@[simp] theorem State.updUnit_agenda : (s.updUnit k f).agenda = s.agenda := rfl
@[simp] theorem State.updUnit_focus : (s.updUnit k f).focus = s.focus := rfl
@[simp] theorem State.updUnit_group : (s.updUnit k f).group = s.group := rfl
@[simp] theorem State.updUnit_msg : (s.updUnit k f).msg = s.msg := rfl
@[simp] theorem State.updUnit_free : (s.updUnit k f).free = s.free := rfl
@[simp] theorem State.updUnit_uid : (s.updUnit k f).uid = s.uid := rfl
@[simp] theorem State.updUnit_word : (s.updUnit k f).word = s.word := rfl
@[simp] theorem State.updUnit_proxy : (s.updUnit k f).proxy = s.proxy := rfl
end

section
variable (s : State) (k : Nat) (f : Die → Die)
@[simp] theorem State.updDie_part : (s.updDie k f).part = s.part := rfl
@[simp] theorem State.updDie_powered : (s.updDie k f).powered = s.powered := rfl
@[simp] theorem State.updDie_mem : (s.updDie k f).mem = s.mem := rfl
@[simp] theorem State.updDie_tags : (s.updDie k f).tags = s.tags := rfl
@[simp] theorem State.updDie_poison : (s.updDie k f).poison = s.poison := rfl
@[simp] theorem State.updDie_consumed : (s.updDie k f).consumed = s.consumed := rfl
@[simp] theorem State.updDie_ctxs : (s.updDie k f).ctxs = s.ctxs := rfl
@[simp] theorem State.updDie_pdks : (s.updDie k f).pdks = s.pdks := rfl
@[simp] theorem State.updDie_units : (s.updDie k f).units = s.units := rfl
@[simp] theorem State.updDie_grids : (s.updDie k f).grids = s.grids := rfl
@[simp] theorem State.updDie_blocks : (s.updDie k f).blocks = s.blocks := rfl
@[simp] theorem State.updDie_slices : (s.updDie k f).slices = s.slices := rfl
@[simp] theorem State.updDie_shadows : (s.updDie k f).shadows = s.shadows := rfl
@[simp] theorem State.updDie_bars : (s.updDie k f).bars = s.bars := rfl
@[simp] theorem State.updDie_bbs : (s.updDie k f).bbs = s.bbs := rfl
@[simp] theorem State.updDie_cmds : (s.updDie k f).cmds = s.cmds := rfl
@[simp] theorem State.updDie_stalls : (s.updDie k f).stalls = s.stalls := rfl
@[simp] theorem State.updDie_retiring : (s.updDie k f).retiring = s.retiring := rfl
@[simp] theorem State.updDie_pushbuf : (s.updDie k f).pushbuf = s.pushbuf := rfl
@[simp] theorem State.updDie_saved : (s.updDie k f).saved = s.saved := rfl
@[simp] theorem State.updDie_tlb : (s.updDie k f).tlb = s.tlb := rfl
@[simp] theorem State.updDie_red : (s.updDie k f).red = s.red := rfl
@[simp] theorem State.updDie_tree : (s.updDie k f).tree = s.tree := rfl
@[simp] theorem State.updDie_awaits : (s.updDie k f).awaits = s.awaits := rfl
@[simp] theorem State.updDie_mgmt : (s.updDie k f).mgmt = s.mgmt := rfl
@[simp] theorem State.updDie_asked : (s.updDie k f).asked = s.asked := rfl
@[simp] theorem State.updDie_mgmtq : (s.updDie k f).mgmtq = s.mgmtq := rfl
@[simp] theorem State.updDie_outbox : (s.updDie k f).outbox = s.outbox := rfl
@[simp] theorem State.updDie_resend : (s.updDie k f).resend = s.resend := rfl
@[simp] theorem State.updDie_vdevs : (s.updDie k f).vdevs = s.vdevs := rfl
@[simp] theorem State.updDie_joins : (s.updDie k f).joins = s.joins := rfl
@[simp] theorem State.updDie_windows : (s.updDie k f).windows = s.windows := rfl
@[simp] theorem State.updDie_sessions : (s.updDie k f).sessions = s.sessions := rfl
@[simp] theorem State.updDie_cuts : (s.updDie k f).cuts = s.cuts := rfl
@[simp] theorem State.updDie_replays : (s.updDie k f).replays = s.replays := rfl
@[simp] theorem State.updDie_refused : (s.updDie k f).refused = s.refused := rfl
@[simp] theorem State.updDie_behind : (s.updDie k f).behind = s.behind := rfl
@[simp] theorem State.updDie_linkq : (s.updDie k f).linkq = s.linkq := rfl
@[simp] theorem State.updDie_carried : (s.updDie k f).carried = s.carried := rfl
@[simp] theorem State.updDie_reads : (s.updDie k f).reads = s.reads := rfl
@[simp] theorem State.updDie_dumps : (s.updDie k f).dumps = s.dumps := rfl
@[simp] theorem State.updDie_ports : (s.updDie k f).ports = s.ports := rfl
@[simp] theorem State.updDie_chans : (s.updDie k f).chans = s.chans := rfl
@[simp] theorem State.updDie_tests : (s.updDie k f).tests = s.tests := rfl
@[simp] theorem State.updDie_unitErrs : (s.updDie k f).unitErrs = s.unitErrs := rfl
@[simp] theorem State.updDie_bankRows : (s.updDie k f).bankRows = s.bankRows := rfl
@[simp] theorem State.updDie_recordAt : (s.updDie k f).recordAt = s.recordAt := rfl
@[simp] theorem State.updDie_drops : (s.updDie k f).drops = s.drops := rfl
@[simp] theorem State.updDie_node : (s.updDie k f).node = s.node := rfl
@[simp] theorem State.updDie_fenced : (s.updDie k f).fenced = s.fenced := rfl
@[simp] theorem State.updDie_booted : (s.updDie k f).booted = s.booted := rfl
@[simp] theorem State.updDie_bootReady : (s.updDie k f).bootReady = s.bootReady := rfl
@[simp] theorem State.updDie_flash : (s.updDie k f).flash = s.flash := rfl
@[simp] theorem State.updDie_tagSeq : (s.updDie k f).tagSeq = s.tagSeq := rfl
@[simp] theorem State.updDie_agenda : (s.updDie k f).agenda = s.agenda := rfl
@[simp] theorem State.updDie_focus : (s.updDie k f).focus = s.focus := rfl
@[simp] theorem State.updDie_group : (s.updDie k f).group = s.group := rfl
@[simp] theorem State.updDie_msg : (s.updDie k f).msg = s.msg := rfl
@[simp] theorem State.updDie_free : (s.updDie k f).free = s.free := rfl
@[simp] theorem State.updDie_uid : (s.updDie k f).uid = s.uid := rfl
@[simp] theorem State.updDie_word : (s.updDie k f).word = s.word := rfl
@[simp] theorem State.updDie_proxy : (s.updDie k f).proxy = s.proxy := rfl
end

section
variable (s : State) (k : Nat) (f : Command → Command)
@[simp] theorem State.updCmd_part : (s.updCmd k f).part = s.part := rfl
@[simp] theorem State.updCmd_powered : (s.updCmd k f).powered = s.powered := rfl
@[simp] theorem State.updCmd_mem : (s.updCmd k f).mem = s.mem := rfl
@[simp] theorem State.updCmd_tags : (s.updCmd k f).tags = s.tags := rfl
@[simp] theorem State.updCmd_poison : (s.updCmd k f).poison = s.poison := rfl
@[simp] theorem State.updCmd_consumed : (s.updCmd k f).consumed = s.consumed := rfl
@[simp] theorem State.updCmd_dies : (s.updCmd k f).dies = s.dies := rfl
@[simp] theorem State.updCmd_ctxs : (s.updCmd k f).ctxs = s.ctxs := rfl
@[simp] theorem State.updCmd_pdks : (s.updCmd k f).pdks = s.pdks := rfl
@[simp] theorem State.updCmd_units : (s.updCmd k f).units = s.units := rfl
@[simp] theorem State.updCmd_grids : (s.updCmd k f).grids = s.grids := rfl
@[simp] theorem State.updCmd_blocks : (s.updCmd k f).blocks = s.blocks := rfl
@[simp] theorem State.updCmd_slices : (s.updCmd k f).slices = s.slices := rfl
@[simp] theorem State.updCmd_shadows : (s.updCmd k f).shadows = s.shadows := rfl
@[simp] theorem State.updCmd_bars : (s.updCmd k f).bars = s.bars := rfl
@[simp] theorem State.updCmd_bbs : (s.updCmd k f).bbs = s.bbs := rfl
@[simp] theorem State.updCmd_stalls : (s.updCmd k f).stalls = s.stalls := rfl
@[simp] theorem State.updCmd_retiring : (s.updCmd k f).retiring = s.retiring := rfl
@[simp] theorem State.updCmd_pushbuf : (s.updCmd k f).pushbuf = s.pushbuf := rfl
@[simp] theorem State.updCmd_saved : (s.updCmd k f).saved = s.saved := rfl
@[simp] theorem State.updCmd_tlb : (s.updCmd k f).tlb = s.tlb := rfl
@[simp] theorem State.updCmd_red : (s.updCmd k f).red = s.red := rfl
@[simp] theorem State.updCmd_tree : (s.updCmd k f).tree = s.tree := rfl
@[simp] theorem State.updCmd_awaits : (s.updCmd k f).awaits = s.awaits := rfl
@[simp] theorem State.updCmd_mgmt : (s.updCmd k f).mgmt = s.mgmt := rfl
@[simp] theorem State.updCmd_asked : (s.updCmd k f).asked = s.asked := rfl
@[simp] theorem State.updCmd_mgmtq : (s.updCmd k f).mgmtq = s.mgmtq := rfl
@[simp] theorem State.updCmd_outbox : (s.updCmd k f).outbox = s.outbox := rfl
@[simp] theorem State.updCmd_resend : (s.updCmd k f).resend = s.resend := rfl
@[simp] theorem State.updCmd_vdevs : (s.updCmd k f).vdevs = s.vdevs := rfl
@[simp] theorem State.updCmd_joins : (s.updCmd k f).joins = s.joins := rfl
@[simp] theorem State.updCmd_windows : (s.updCmd k f).windows = s.windows := rfl
@[simp] theorem State.updCmd_sessions : (s.updCmd k f).sessions = s.sessions := rfl
@[simp] theorem State.updCmd_cuts : (s.updCmd k f).cuts = s.cuts := rfl
@[simp] theorem State.updCmd_replays : (s.updCmd k f).replays = s.replays := rfl
@[simp] theorem State.updCmd_refused : (s.updCmd k f).refused = s.refused := rfl
@[simp] theorem State.updCmd_behind : (s.updCmd k f).behind = s.behind := rfl
@[simp] theorem State.updCmd_linkq : (s.updCmd k f).linkq = s.linkq := rfl
@[simp] theorem State.updCmd_carried : (s.updCmd k f).carried = s.carried := rfl
@[simp] theorem State.updCmd_reads : (s.updCmd k f).reads = s.reads := rfl
@[simp] theorem State.updCmd_dumps : (s.updCmd k f).dumps = s.dumps := rfl
@[simp] theorem State.updCmd_ports : (s.updCmd k f).ports = s.ports := rfl
@[simp] theorem State.updCmd_chans : (s.updCmd k f).chans = s.chans := rfl
@[simp] theorem State.updCmd_tests : (s.updCmd k f).tests = s.tests := rfl
@[simp] theorem State.updCmd_unitErrs : (s.updCmd k f).unitErrs = s.unitErrs := rfl
@[simp] theorem State.updCmd_bankRows : (s.updCmd k f).bankRows = s.bankRows := rfl
@[simp] theorem State.updCmd_recordAt : (s.updCmd k f).recordAt = s.recordAt := rfl
@[simp] theorem State.updCmd_drops : (s.updCmd k f).drops = s.drops := rfl
@[simp] theorem State.updCmd_node : (s.updCmd k f).node = s.node := rfl
@[simp] theorem State.updCmd_fenced : (s.updCmd k f).fenced = s.fenced := rfl
@[simp] theorem State.updCmd_booted : (s.updCmd k f).booted = s.booted := rfl
@[simp] theorem State.updCmd_bootReady : (s.updCmd k f).bootReady = s.bootReady := rfl
@[simp] theorem State.updCmd_flash : (s.updCmd k f).flash = s.flash := rfl
@[simp] theorem State.updCmd_tagSeq : (s.updCmd k f).tagSeq = s.tagSeq := rfl
@[simp] theorem State.updCmd_agenda : (s.updCmd k f).agenda = s.agenda := rfl
@[simp] theorem State.updCmd_focus : (s.updCmd k f).focus = s.focus := rfl
@[simp] theorem State.updCmd_group : (s.updCmd k f).group = s.group := rfl
@[simp] theorem State.updCmd_msg : (s.updCmd k f).msg = s.msg := rfl
@[simp] theorem State.updCmd_free : (s.updCmd k f).free = s.free := rfl
@[simp] theorem State.updCmd_uid : (s.updCmd k f).uid = s.uid := rfl
@[simp] theorem State.updCmd_word : (s.updCmd k f).word = s.word := rfl
@[simp] theorem State.updCmd_proxy : (s.updCmd k f).proxy = s.proxy := rfl
end

section
variable (s : State) (k : Nat) (f : Bar → Bar)
@[simp] theorem State.updBar_part : (s.updBar k f).part = s.part := rfl
@[simp] theorem State.updBar_powered : (s.updBar k f).powered = s.powered := rfl
@[simp] theorem State.updBar_mem : (s.updBar k f).mem = s.mem := rfl
@[simp] theorem State.updBar_tags : (s.updBar k f).tags = s.tags := rfl
@[simp] theorem State.updBar_poison : (s.updBar k f).poison = s.poison := rfl
@[simp] theorem State.updBar_consumed : (s.updBar k f).consumed = s.consumed := rfl
@[simp] theorem State.updBar_dies : (s.updBar k f).dies = s.dies := rfl
@[simp] theorem State.updBar_ctxs : (s.updBar k f).ctxs = s.ctxs := rfl
@[simp] theorem State.updBar_pdks : (s.updBar k f).pdks = s.pdks := rfl
@[simp] theorem State.updBar_units : (s.updBar k f).units = s.units := rfl
@[simp] theorem State.updBar_grids : (s.updBar k f).grids = s.grids := rfl
@[simp] theorem State.updBar_blocks : (s.updBar k f).blocks = s.blocks := rfl
@[simp] theorem State.updBar_slices : (s.updBar k f).slices = s.slices := rfl
@[simp] theorem State.updBar_shadows : (s.updBar k f).shadows = s.shadows := rfl
@[simp] theorem State.updBar_bbs : (s.updBar k f).bbs = s.bbs := rfl
@[simp] theorem State.updBar_cmds : (s.updBar k f).cmds = s.cmds := rfl
@[simp] theorem State.updBar_stalls : (s.updBar k f).stalls = s.stalls := rfl
@[simp] theorem State.updBar_retiring : (s.updBar k f).retiring = s.retiring := rfl
@[simp] theorem State.updBar_pushbuf : (s.updBar k f).pushbuf = s.pushbuf := rfl
@[simp] theorem State.updBar_saved : (s.updBar k f).saved = s.saved := rfl
@[simp] theorem State.updBar_tlb : (s.updBar k f).tlb = s.tlb := rfl
@[simp] theorem State.updBar_red : (s.updBar k f).red = s.red := rfl
@[simp] theorem State.updBar_tree : (s.updBar k f).tree = s.tree := rfl
@[simp] theorem State.updBar_awaits : (s.updBar k f).awaits = s.awaits := rfl
@[simp] theorem State.updBar_mgmt : (s.updBar k f).mgmt = s.mgmt := rfl
@[simp] theorem State.updBar_asked : (s.updBar k f).asked = s.asked := rfl
@[simp] theorem State.updBar_mgmtq : (s.updBar k f).mgmtq = s.mgmtq := rfl
@[simp] theorem State.updBar_outbox : (s.updBar k f).outbox = s.outbox := rfl
@[simp] theorem State.updBar_resend : (s.updBar k f).resend = s.resend := rfl
@[simp] theorem State.updBar_vdevs : (s.updBar k f).vdevs = s.vdevs := rfl
@[simp] theorem State.updBar_joins : (s.updBar k f).joins = s.joins := rfl
@[simp] theorem State.updBar_windows : (s.updBar k f).windows = s.windows := rfl
@[simp] theorem State.updBar_sessions : (s.updBar k f).sessions = s.sessions := rfl
@[simp] theorem State.updBar_cuts : (s.updBar k f).cuts = s.cuts := rfl
@[simp] theorem State.updBar_replays : (s.updBar k f).replays = s.replays := rfl
@[simp] theorem State.updBar_refused : (s.updBar k f).refused = s.refused := rfl
@[simp] theorem State.updBar_behind : (s.updBar k f).behind = s.behind := rfl
@[simp] theorem State.updBar_linkq : (s.updBar k f).linkq = s.linkq := rfl
@[simp] theorem State.updBar_carried : (s.updBar k f).carried = s.carried := rfl
@[simp] theorem State.updBar_reads : (s.updBar k f).reads = s.reads := rfl
@[simp] theorem State.updBar_dumps : (s.updBar k f).dumps = s.dumps := rfl
@[simp] theorem State.updBar_ports : (s.updBar k f).ports = s.ports := rfl
@[simp] theorem State.updBar_chans : (s.updBar k f).chans = s.chans := rfl
@[simp] theorem State.updBar_tests : (s.updBar k f).tests = s.tests := rfl
@[simp] theorem State.updBar_unitErrs : (s.updBar k f).unitErrs = s.unitErrs := rfl
@[simp] theorem State.updBar_bankRows : (s.updBar k f).bankRows = s.bankRows := rfl
@[simp] theorem State.updBar_recordAt : (s.updBar k f).recordAt = s.recordAt := rfl
@[simp] theorem State.updBar_drops : (s.updBar k f).drops = s.drops := rfl
@[simp] theorem State.updBar_node : (s.updBar k f).node = s.node := rfl
@[simp] theorem State.updBar_fenced : (s.updBar k f).fenced = s.fenced := rfl
@[simp] theorem State.updBar_booted : (s.updBar k f).booted = s.booted := rfl
@[simp] theorem State.updBar_bootReady : (s.updBar k f).bootReady = s.bootReady := rfl
@[simp] theorem State.updBar_flash : (s.updBar k f).flash = s.flash := rfl
@[simp] theorem State.updBar_tagSeq : (s.updBar k f).tagSeq = s.tagSeq := rfl
@[simp] theorem State.updBar_agenda : (s.updBar k f).agenda = s.agenda := rfl
@[simp] theorem State.updBar_focus : (s.updBar k f).focus = s.focus := rfl
@[simp] theorem State.updBar_group : (s.updBar k f).group = s.group := rfl
@[simp] theorem State.updBar_msg : (s.updBar k f).msg = s.msg := rfl
@[simp] theorem State.updBar_free : (s.updBar k f).free = s.free := rfl
@[simp] theorem State.updBar_uid : (s.updBar k f).uid = s.uid := rfl
@[simp] theorem State.updBar_word : (s.updBar k f).word = s.word := rfl
@[simp] theorem State.updBar_proxy : (s.updBar k f).proxy = s.proxy := rfl
end

section
variable (s : State) (k : Nat) (f : ByteBar → ByteBar)
@[simp] theorem State.updBb_part : (s.updBb k f).part = s.part := rfl
@[simp] theorem State.updBb_powered : (s.updBb k f).powered = s.powered := rfl
@[simp] theorem State.updBb_mem : (s.updBb k f).mem = s.mem := rfl
@[simp] theorem State.updBb_tags : (s.updBb k f).tags = s.tags := rfl
@[simp] theorem State.updBb_poison : (s.updBb k f).poison = s.poison := rfl
@[simp] theorem State.updBb_consumed : (s.updBb k f).consumed = s.consumed := rfl
@[simp] theorem State.updBb_dies : (s.updBb k f).dies = s.dies := rfl
@[simp] theorem State.updBb_ctxs : (s.updBb k f).ctxs = s.ctxs := rfl
@[simp] theorem State.updBb_pdks : (s.updBb k f).pdks = s.pdks := rfl
@[simp] theorem State.updBb_units : (s.updBb k f).units = s.units := rfl
@[simp] theorem State.updBb_grids : (s.updBb k f).grids = s.grids := rfl
@[simp] theorem State.updBb_blocks : (s.updBb k f).blocks = s.blocks := rfl
@[simp] theorem State.updBb_slices : (s.updBb k f).slices = s.slices := rfl
@[simp] theorem State.updBb_shadows : (s.updBb k f).shadows = s.shadows := rfl
@[simp] theorem State.updBb_bars : (s.updBb k f).bars = s.bars := rfl
@[simp] theorem State.updBb_cmds : (s.updBb k f).cmds = s.cmds := rfl
@[simp] theorem State.updBb_stalls : (s.updBb k f).stalls = s.stalls := rfl
@[simp] theorem State.updBb_retiring : (s.updBb k f).retiring = s.retiring := rfl
@[simp] theorem State.updBb_pushbuf : (s.updBb k f).pushbuf = s.pushbuf := rfl
@[simp] theorem State.updBb_saved : (s.updBb k f).saved = s.saved := rfl
@[simp] theorem State.updBb_tlb : (s.updBb k f).tlb = s.tlb := rfl
@[simp] theorem State.updBb_red : (s.updBb k f).red = s.red := rfl
@[simp] theorem State.updBb_tree : (s.updBb k f).tree = s.tree := rfl
@[simp] theorem State.updBb_awaits : (s.updBb k f).awaits = s.awaits := rfl
@[simp] theorem State.updBb_mgmt : (s.updBb k f).mgmt = s.mgmt := rfl
@[simp] theorem State.updBb_asked : (s.updBb k f).asked = s.asked := rfl
@[simp] theorem State.updBb_mgmtq : (s.updBb k f).mgmtq = s.mgmtq := rfl
@[simp] theorem State.updBb_outbox : (s.updBb k f).outbox = s.outbox := rfl
@[simp] theorem State.updBb_resend : (s.updBb k f).resend = s.resend := rfl
@[simp] theorem State.updBb_vdevs : (s.updBb k f).vdevs = s.vdevs := rfl
@[simp] theorem State.updBb_joins : (s.updBb k f).joins = s.joins := rfl
@[simp] theorem State.updBb_windows : (s.updBb k f).windows = s.windows := rfl
@[simp] theorem State.updBb_sessions : (s.updBb k f).sessions = s.sessions := rfl
@[simp] theorem State.updBb_cuts : (s.updBb k f).cuts = s.cuts := rfl
@[simp] theorem State.updBb_replays : (s.updBb k f).replays = s.replays := rfl
@[simp] theorem State.updBb_refused : (s.updBb k f).refused = s.refused := rfl
@[simp] theorem State.updBb_behind : (s.updBb k f).behind = s.behind := rfl
@[simp] theorem State.updBb_linkq : (s.updBb k f).linkq = s.linkq := rfl
@[simp] theorem State.updBb_carried : (s.updBb k f).carried = s.carried := rfl
@[simp] theorem State.updBb_reads : (s.updBb k f).reads = s.reads := rfl
@[simp] theorem State.updBb_dumps : (s.updBb k f).dumps = s.dumps := rfl
@[simp] theorem State.updBb_ports : (s.updBb k f).ports = s.ports := rfl
@[simp] theorem State.updBb_chans : (s.updBb k f).chans = s.chans := rfl
@[simp] theorem State.updBb_tests : (s.updBb k f).tests = s.tests := rfl
@[simp] theorem State.updBb_unitErrs : (s.updBb k f).unitErrs = s.unitErrs := rfl
@[simp] theorem State.updBb_bankRows : (s.updBb k f).bankRows = s.bankRows := rfl
@[simp] theorem State.updBb_recordAt : (s.updBb k f).recordAt = s.recordAt := rfl
@[simp] theorem State.updBb_drops : (s.updBb k f).drops = s.drops := rfl
@[simp] theorem State.updBb_node : (s.updBb k f).node = s.node := rfl
@[simp] theorem State.updBb_fenced : (s.updBb k f).fenced = s.fenced := rfl
@[simp] theorem State.updBb_booted : (s.updBb k f).booted = s.booted := rfl
@[simp] theorem State.updBb_bootReady : (s.updBb k f).bootReady = s.bootReady := rfl
@[simp] theorem State.updBb_flash : (s.updBb k f).flash = s.flash := rfl
@[simp] theorem State.updBb_tagSeq : (s.updBb k f).tagSeq = s.tagSeq := rfl
@[simp] theorem State.updBb_agenda : (s.updBb k f).agenda = s.agenda := rfl
@[simp] theorem State.updBb_focus : (s.updBb k f).focus = s.focus := rfl
@[simp] theorem State.updBb_group : (s.updBb k f).group = s.group := rfl
@[simp] theorem State.updBb_msg : (s.updBb k f).msg = s.msg := rfl
@[simp] theorem State.updBb_free : (s.updBb k f).free = s.free := rfl
@[simp] theorem State.updBb_uid : (s.updBb k f).uid = s.uid := rfl
@[simp] theorem State.updBb_word : (s.updBb k f).word = s.word := rfl
@[simp] theorem State.updBb_proxy : (s.updBb k f).proxy = s.proxy := rfl
end

section
variable (s : State) (k : Nat) (f : Stall → Stall)
@[simp] theorem State.updStall_part : (s.updStall k f).part = s.part := rfl
@[simp] theorem State.updStall_powered : (s.updStall k f).powered = s.powered := rfl
@[simp] theorem State.updStall_mem : (s.updStall k f).mem = s.mem := rfl
@[simp] theorem State.updStall_tags : (s.updStall k f).tags = s.tags := rfl
@[simp] theorem State.updStall_poison : (s.updStall k f).poison = s.poison := rfl
@[simp] theorem State.updStall_consumed : (s.updStall k f).consumed = s.consumed := rfl
@[simp] theorem State.updStall_dies : (s.updStall k f).dies = s.dies := rfl
@[simp] theorem State.updStall_ctxs : (s.updStall k f).ctxs = s.ctxs := rfl
@[simp] theorem State.updStall_pdks : (s.updStall k f).pdks = s.pdks := rfl
@[simp] theorem State.updStall_units : (s.updStall k f).units = s.units := rfl
@[simp] theorem State.updStall_grids : (s.updStall k f).grids = s.grids := rfl
@[simp] theorem State.updStall_blocks : (s.updStall k f).blocks = s.blocks := rfl
@[simp] theorem State.updStall_slices : (s.updStall k f).slices = s.slices := rfl
@[simp] theorem State.updStall_shadows : (s.updStall k f).shadows = s.shadows := rfl
@[simp] theorem State.updStall_bars : (s.updStall k f).bars = s.bars := rfl
@[simp] theorem State.updStall_bbs : (s.updStall k f).bbs = s.bbs := rfl
@[simp] theorem State.updStall_cmds : (s.updStall k f).cmds = s.cmds := rfl
@[simp] theorem State.updStall_retiring : (s.updStall k f).retiring = s.retiring := rfl
@[simp] theorem State.updStall_pushbuf : (s.updStall k f).pushbuf = s.pushbuf := rfl
@[simp] theorem State.updStall_saved : (s.updStall k f).saved = s.saved := rfl
@[simp] theorem State.updStall_tlb : (s.updStall k f).tlb = s.tlb := rfl
@[simp] theorem State.updStall_red : (s.updStall k f).red = s.red := rfl
@[simp] theorem State.updStall_tree : (s.updStall k f).tree = s.tree := rfl
@[simp] theorem State.updStall_awaits : (s.updStall k f).awaits = s.awaits := rfl
@[simp] theorem State.updStall_mgmt : (s.updStall k f).mgmt = s.mgmt := rfl
@[simp] theorem State.updStall_asked : (s.updStall k f).asked = s.asked := rfl
@[simp] theorem State.updStall_mgmtq : (s.updStall k f).mgmtq = s.mgmtq := rfl
@[simp] theorem State.updStall_outbox : (s.updStall k f).outbox = s.outbox := rfl
@[simp] theorem State.updStall_resend : (s.updStall k f).resend = s.resend := rfl
@[simp] theorem State.updStall_vdevs : (s.updStall k f).vdevs = s.vdevs := rfl
@[simp] theorem State.updStall_joins : (s.updStall k f).joins = s.joins := rfl
@[simp] theorem State.updStall_windows : (s.updStall k f).windows = s.windows := rfl
@[simp] theorem State.updStall_sessions : (s.updStall k f).sessions = s.sessions := rfl
@[simp] theorem State.updStall_cuts : (s.updStall k f).cuts = s.cuts := rfl
@[simp] theorem State.updStall_replays : (s.updStall k f).replays = s.replays := rfl
@[simp] theorem State.updStall_refused : (s.updStall k f).refused = s.refused := rfl
@[simp] theorem State.updStall_behind : (s.updStall k f).behind = s.behind := rfl
@[simp] theorem State.updStall_linkq : (s.updStall k f).linkq = s.linkq := rfl
@[simp] theorem State.updStall_carried : (s.updStall k f).carried = s.carried := rfl
@[simp] theorem State.updStall_reads : (s.updStall k f).reads = s.reads := rfl
@[simp] theorem State.updStall_dumps : (s.updStall k f).dumps = s.dumps := rfl
@[simp] theorem State.updStall_ports : (s.updStall k f).ports = s.ports := rfl
@[simp] theorem State.updStall_chans : (s.updStall k f).chans = s.chans := rfl
@[simp] theorem State.updStall_tests : (s.updStall k f).tests = s.tests := rfl
@[simp] theorem State.updStall_unitErrs : (s.updStall k f).unitErrs = s.unitErrs := rfl
@[simp] theorem State.updStall_bankRows : (s.updStall k f).bankRows = s.bankRows := rfl
@[simp] theorem State.updStall_recordAt : (s.updStall k f).recordAt = s.recordAt := rfl
@[simp] theorem State.updStall_drops : (s.updStall k f).drops = s.drops := rfl
@[simp] theorem State.updStall_node : (s.updStall k f).node = s.node := rfl
@[simp] theorem State.updStall_fenced : (s.updStall k f).fenced = s.fenced := rfl
@[simp] theorem State.updStall_booted : (s.updStall k f).booted = s.booted := rfl
@[simp] theorem State.updStall_bootReady : (s.updStall k f).bootReady = s.bootReady := rfl
@[simp] theorem State.updStall_flash : (s.updStall k f).flash = s.flash := rfl
@[simp] theorem State.updStall_tagSeq : (s.updStall k f).tagSeq = s.tagSeq := rfl
@[simp] theorem State.updStall_agenda : (s.updStall k f).agenda = s.agenda := rfl
@[simp] theorem State.updStall_focus : (s.updStall k f).focus = s.focus := rfl
@[simp] theorem State.updStall_group : (s.updStall k f).group = s.group := rfl
@[simp] theorem State.updStall_msg : (s.updStall k f).msg = s.msg := rfl
@[simp] theorem State.updStall_free : (s.updStall k f).free = s.free := rfl
@[simp] theorem State.updStall_uid : (s.updStall k f).uid = s.uid := rfl
@[simp] theorem State.updStall_word : (s.updStall k f).word = s.word := rfl
@[simp] theorem State.updStall_proxy : (s.updStall k f).proxy = s.proxy := rfl
end

section
variable (s : State) (k : Nat) (f : VDev → VDev)
@[simp] theorem State.updVdev_part : (s.updVdev k f).part = s.part := rfl
@[simp] theorem State.updVdev_powered : (s.updVdev k f).powered = s.powered := rfl
@[simp] theorem State.updVdev_mem : (s.updVdev k f).mem = s.mem := rfl
@[simp] theorem State.updVdev_tags : (s.updVdev k f).tags = s.tags := rfl
@[simp] theorem State.updVdev_poison : (s.updVdev k f).poison = s.poison := rfl
@[simp] theorem State.updVdev_consumed : (s.updVdev k f).consumed = s.consumed := rfl
@[simp] theorem State.updVdev_dies : (s.updVdev k f).dies = s.dies := rfl
@[simp] theorem State.updVdev_ctxs : (s.updVdev k f).ctxs = s.ctxs := rfl
@[simp] theorem State.updVdev_pdks : (s.updVdev k f).pdks = s.pdks := rfl
@[simp] theorem State.updVdev_units : (s.updVdev k f).units = s.units := rfl
@[simp] theorem State.updVdev_grids : (s.updVdev k f).grids = s.grids := rfl
@[simp] theorem State.updVdev_blocks : (s.updVdev k f).blocks = s.blocks := rfl
@[simp] theorem State.updVdev_slices : (s.updVdev k f).slices = s.slices := rfl
@[simp] theorem State.updVdev_shadows : (s.updVdev k f).shadows = s.shadows := rfl
@[simp] theorem State.updVdev_bars : (s.updVdev k f).bars = s.bars := rfl
@[simp] theorem State.updVdev_bbs : (s.updVdev k f).bbs = s.bbs := rfl
@[simp] theorem State.updVdev_cmds : (s.updVdev k f).cmds = s.cmds := rfl
@[simp] theorem State.updVdev_stalls : (s.updVdev k f).stalls = s.stalls := rfl
@[simp] theorem State.updVdev_retiring : (s.updVdev k f).retiring = s.retiring := rfl
@[simp] theorem State.updVdev_pushbuf : (s.updVdev k f).pushbuf = s.pushbuf := rfl
@[simp] theorem State.updVdev_saved : (s.updVdev k f).saved = s.saved := rfl
@[simp] theorem State.updVdev_tlb : (s.updVdev k f).tlb = s.tlb := rfl
@[simp] theorem State.updVdev_red : (s.updVdev k f).red = s.red := rfl
@[simp] theorem State.updVdev_tree : (s.updVdev k f).tree = s.tree := rfl
@[simp] theorem State.updVdev_awaits : (s.updVdev k f).awaits = s.awaits := rfl
@[simp] theorem State.updVdev_mgmt : (s.updVdev k f).mgmt = s.mgmt := rfl
@[simp] theorem State.updVdev_asked : (s.updVdev k f).asked = s.asked := rfl
@[simp] theorem State.updVdev_mgmtq : (s.updVdev k f).mgmtq = s.mgmtq := rfl
@[simp] theorem State.updVdev_outbox : (s.updVdev k f).outbox = s.outbox := rfl
@[simp] theorem State.updVdev_resend : (s.updVdev k f).resend = s.resend := rfl
@[simp] theorem State.updVdev_joins : (s.updVdev k f).joins = s.joins := rfl
@[simp] theorem State.updVdev_windows : (s.updVdev k f).windows = s.windows := rfl
@[simp] theorem State.updVdev_sessions : (s.updVdev k f).sessions = s.sessions := rfl
@[simp] theorem State.updVdev_cuts : (s.updVdev k f).cuts = s.cuts := rfl
@[simp] theorem State.updVdev_replays : (s.updVdev k f).replays = s.replays := rfl
@[simp] theorem State.updVdev_refused : (s.updVdev k f).refused = s.refused := rfl
@[simp] theorem State.updVdev_behind : (s.updVdev k f).behind = s.behind := rfl
@[simp] theorem State.updVdev_linkq : (s.updVdev k f).linkq = s.linkq := rfl
@[simp] theorem State.updVdev_carried : (s.updVdev k f).carried = s.carried := rfl
@[simp] theorem State.updVdev_reads : (s.updVdev k f).reads = s.reads := rfl
@[simp] theorem State.updVdev_dumps : (s.updVdev k f).dumps = s.dumps := rfl
@[simp] theorem State.updVdev_ports : (s.updVdev k f).ports = s.ports := rfl
@[simp] theorem State.updVdev_chans : (s.updVdev k f).chans = s.chans := rfl
@[simp] theorem State.updVdev_tests : (s.updVdev k f).tests = s.tests := rfl
@[simp] theorem State.updVdev_unitErrs : (s.updVdev k f).unitErrs = s.unitErrs := rfl
@[simp] theorem State.updVdev_bankRows : (s.updVdev k f).bankRows = s.bankRows := rfl
@[simp] theorem State.updVdev_recordAt : (s.updVdev k f).recordAt = s.recordAt := rfl
@[simp] theorem State.updVdev_drops : (s.updVdev k f).drops = s.drops := rfl
@[simp] theorem State.updVdev_node : (s.updVdev k f).node = s.node := rfl
@[simp] theorem State.updVdev_fenced : (s.updVdev k f).fenced = s.fenced := rfl
@[simp] theorem State.updVdev_booted : (s.updVdev k f).booted = s.booted := rfl
@[simp] theorem State.updVdev_bootReady : (s.updVdev k f).bootReady = s.bootReady := rfl
@[simp] theorem State.updVdev_flash : (s.updVdev k f).flash = s.flash := rfl
@[simp] theorem State.updVdev_tagSeq : (s.updVdev k f).tagSeq = s.tagSeq := rfl
@[simp] theorem State.updVdev_agenda : (s.updVdev k f).agenda = s.agenda := rfl
@[simp] theorem State.updVdev_focus : (s.updVdev k f).focus = s.focus := rfl
@[simp] theorem State.updVdev_group : (s.updVdev k f).group = s.group := rfl
@[simp] theorem State.updVdev_msg : (s.updVdev k f).msg = s.msg := rfl
@[simp] theorem State.updVdev_free : (s.updVdev k f).free = s.free := rfl
@[simp] theorem State.updVdev_uid : (s.updVdev k f).uid = s.uid := rfl
@[simp] theorem State.updVdev_word : (s.updVdev k f).word = s.word := rfl
@[simp] theorem State.updVdev_proxy : (s.updVdev k f).proxy = s.proxy := rfl
end

section
variable (s : State) (k : Nat) (t : Byte)
@[simp] theorem State.setTag_part : (s.setTag k t).part = s.part := rfl
@[simp] theorem State.setTag_powered : (s.setTag k t).powered = s.powered := rfl
@[simp] theorem State.setTag_mem : (s.setTag k t).mem = s.mem := rfl
@[simp] theorem State.setTag_poison : (s.setTag k t).poison = s.poison := rfl
@[simp] theorem State.setTag_consumed : (s.setTag k t).consumed = s.consumed := rfl
@[simp] theorem State.setTag_dies : (s.setTag k t).dies = s.dies := rfl
@[simp] theorem State.setTag_ctxs : (s.setTag k t).ctxs = s.ctxs := rfl
@[simp] theorem State.setTag_pdks : (s.setTag k t).pdks = s.pdks := rfl
@[simp] theorem State.setTag_units : (s.setTag k t).units = s.units := rfl
@[simp] theorem State.setTag_grids : (s.setTag k t).grids = s.grids := rfl
@[simp] theorem State.setTag_blocks : (s.setTag k t).blocks = s.blocks := rfl
@[simp] theorem State.setTag_slices : (s.setTag k t).slices = s.slices := rfl
@[simp] theorem State.setTag_shadows : (s.setTag k t).shadows = s.shadows := rfl
@[simp] theorem State.setTag_bars : (s.setTag k t).bars = s.bars := rfl
@[simp] theorem State.setTag_bbs : (s.setTag k t).bbs = s.bbs := rfl
@[simp] theorem State.setTag_cmds : (s.setTag k t).cmds = s.cmds := rfl
@[simp] theorem State.setTag_stalls : (s.setTag k t).stalls = s.stalls := rfl
@[simp] theorem State.setTag_retiring : (s.setTag k t).retiring = s.retiring := rfl
@[simp] theorem State.setTag_pushbuf : (s.setTag k t).pushbuf = s.pushbuf := rfl
@[simp] theorem State.setTag_saved : (s.setTag k t).saved = s.saved := rfl
@[simp] theorem State.setTag_tlb : (s.setTag k t).tlb = s.tlb := rfl
@[simp] theorem State.setTag_red : (s.setTag k t).red = s.red := rfl
@[simp] theorem State.setTag_tree : (s.setTag k t).tree = s.tree := rfl
@[simp] theorem State.setTag_awaits : (s.setTag k t).awaits = s.awaits := rfl
@[simp] theorem State.setTag_mgmt : (s.setTag k t).mgmt = s.mgmt := rfl
@[simp] theorem State.setTag_asked : (s.setTag k t).asked = s.asked := rfl
@[simp] theorem State.setTag_mgmtq : (s.setTag k t).mgmtq = s.mgmtq := rfl
@[simp] theorem State.setTag_outbox : (s.setTag k t).outbox = s.outbox := rfl
@[simp] theorem State.setTag_resend : (s.setTag k t).resend = s.resend := rfl
@[simp] theorem State.setTag_vdevs : (s.setTag k t).vdevs = s.vdevs := rfl
@[simp] theorem State.setTag_joins : (s.setTag k t).joins = s.joins := rfl
@[simp] theorem State.setTag_windows : (s.setTag k t).windows = s.windows := rfl
@[simp] theorem State.setTag_sessions : (s.setTag k t).sessions = s.sessions := rfl
@[simp] theorem State.setTag_cuts : (s.setTag k t).cuts = s.cuts := rfl
@[simp] theorem State.setTag_replays : (s.setTag k t).replays = s.replays := rfl
@[simp] theorem State.setTag_refused : (s.setTag k t).refused = s.refused := rfl
@[simp] theorem State.setTag_behind : (s.setTag k t).behind = s.behind := rfl
@[simp] theorem State.setTag_linkq : (s.setTag k t).linkq = s.linkq := rfl
@[simp] theorem State.setTag_carried : (s.setTag k t).carried = s.carried := rfl
@[simp] theorem State.setTag_reads : (s.setTag k t).reads = s.reads := rfl
@[simp] theorem State.setTag_dumps : (s.setTag k t).dumps = s.dumps := rfl
@[simp] theorem State.setTag_ports : (s.setTag k t).ports = s.ports := rfl
@[simp] theorem State.setTag_chans : (s.setTag k t).chans = s.chans := rfl
@[simp] theorem State.setTag_tests : (s.setTag k t).tests = s.tests := rfl
@[simp] theorem State.setTag_unitErrs : (s.setTag k t).unitErrs = s.unitErrs := rfl
@[simp] theorem State.setTag_bankRows : (s.setTag k t).bankRows = s.bankRows := rfl
@[simp] theorem State.setTag_recordAt : (s.setTag k t).recordAt = s.recordAt := rfl
@[simp] theorem State.setTag_drops : (s.setTag k t).drops = s.drops := rfl
@[simp] theorem State.setTag_node : (s.setTag k t).node = s.node := rfl
@[simp] theorem State.setTag_fenced : (s.setTag k t).fenced = s.fenced := rfl
@[simp] theorem State.setTag_booted : (s.setTag k t).booted = s.booted := rfl
@[simp] theorem State.setTag_bootReady : (s.setTag k t).bootReady = s.bootReady := rfl
@[simp] theorem State.setTag_flash : (s.setTag k t).flash = s.flash := rfl
@[simp] theorem State.setTag_tagSeq : (s.setTag k t).tagSeq = s.tagSeq := rfl
@[simp] theorem State.setTag_agenda : (s.setTag k t).agenda = s.agenda := rfl
@[simp] theorem State.setTag_focus : (s.setTag k t).focus = s.focus := rfl
@[simp] theorem State.setTag_group : (s.setTag k t).group = s.group := rfl
@[simp] theorem State.setTag_msg : (s.setTag k t).msg = s.msg := rfl
@[simp] theorem State.setTag_free : (s.setTag k t).free = s.free := rfl
@[simp] theorem State.setTag_uid : (s.setTag k t).uid = s.uid := rfl
@[simp] theorem State.setTag_word : (s.setTag k t).word = s.word := rfl
@[simp] theorem State.setTag_proxy : (s.setTag k t).proxy = s.proxy := rfl
end

section
variable (s : State) (m : Msg)
@[simp] theorem State.emit_part : (s.emit m).part = s.part := rfl
@[simp] theorem State.emit_powered : (s.emit m).powered = s.powered := rfl
@[simp] theorem State.emit_mem : (s.emit m).mem = s.mem := rfl
@[simp] theorem State.emit_tags : (s.emit m).tags = s.tags := rfl
@[simp] theorem State.emit_poison : (s.emit m).poison = s.poison := rfl
@[simp] theorem State.emit_consumed : (s.emit m).consumed = s.consumed := rfl
@[simp] theorem State.emit_dies : (s.emit m).dies = s.dies := rfl
@[simp] theorem State.emit_ctxs : (s.emit m).ctxs = s.ctxs := rfl
@[simp] theorem State.emit_pdks : (s.emit m).pdks = s.pdks := rfl
@[simp] theorem State.emit_units : (s.emit m).units = s.units := rfl
@[simp] theorem State.emit_grids : (s.emit m).grids = s.grids := rfl
@[simp] theorem State.emit_blocks : (s.emit m).blocks = s.blocks := rfl
@[simp] theorem State.emit_slices : (s.emit m).slices = s.slices := rfl
@[simp] theorem State.emit_shadows : (s.emit m).shadows = s.shadows := rfl
@[simp] theorem State.emit_bars : (s.emit m).bars = s.bars := rfl
@[simp] theorem State.emit_bbs : (s.emit m).bbs = s.bbs := rfl
@[simp] theorem State.emit_cmds : (s.emit m).cmds = s.cmds := rfl
@[simp] theorem State.emit_stalls : (s.emit m).stalls = s.stalls := rfl
@[simp] theorem State.emit_retiring : (s.emit m).retiring = s.retiring := rfl
@[simp] theorem State.emit_pushbuf : (s.emit m).pushbuf = s.pushbuf := rfl
@[simp] theorem State.emit_saved : (s.emit m).saved = s.saved := rfl
@[simp] theorem State.emit_tlb : (s.emit m).tlb = s.tlb := rfl
@[simp] theorem State.emit_red : (s.emit m).red = s.red := rfl
@[simp] theorem State.emit_tree : (s.emit m).tree = s.tree := rfl
@[simp] theorem State.emit_awaits : (s.emit m).awaits = s.awaits := rfl
@[simp] theorem State.emit_mgmt : (s.emit m).mgmt = s.mgmt := rfl
@[simp] theorem State.emit_asked : (s.emit m).asked = s.asked := rfl
@[simp] theorem State.emit_mgmtq : (s.emit m).mgmtq = s.mgmtq := rfl
@[simp] theorem State.emit_resend : (s.emit m).resend = s.resend := rfl
@[simp] theorem State.emit_vdevs : (s.emit m).vdevs = s.vdevs := rfl
@[simp] theorem State.emit_joins : (s.emit m).joins = s.joins := rfl
@[simp] theorem State.emit_windows : (s.emit m).windows = s.windows := rfl
@[simp] theorem State.emit_sessions : (s.emit m).sessions = s.sessions := rfl
@[simp] theorem State.emit_cuts : (s.emit m).cuts = s.cuts := rfl
@[simp] theorem State.emit_replays : (s.emit m).replays = s.replays := rfl
@[simp] theorem State.emit_refused : (s.emit m).refused = s.refused := rfl
@[simp] theorem State.emit_behind : (s.emit m).behind = s.behind := rfl
@[simp] theorem State.emit_linkq : (s.emit m).linkq = s.linkq := rfl
@[simp] theorem State.emit_carried : (s.emit m).carried = s.carried := rfl
@[simp] theorem State.emit_reads : (s.emit m).reads = s.reads := rfl
@[simp] theorem State.emit_dumps : (s.emit m).dumps = s.dumps := rfl
@[simp] theorem State.emit_ports : (s.emit m).ports = s.ports := rfl
@[simp] theorem State.emit_chans : (s.emit m).chans = s.chans := rfl
@[simp] theorem State.emit_tests : (s.emit m).tests = s.tests := rfl
@[simp] theorem State.emit_unitErrs : (s.emit m).unitErrs = s.unitErrs := rfl
@[simp] theorem State.emit_bankRows : (s.emit m).bankRows = s.bankRows := rfl
@[simp] theorem State.emit_recordAt : (s.emit m).recordAt = s.recordAt := rfl
@[simp] theorem State.emit_drops : (s.emit m).drops = s.drops := rfl
@[simp] theorem State.emit_node : (s.emit m).node = s.node := rfl
@[simp] theorem State.emit_fenced : (s.emit m).fenced = s.fenced := rfl
@[simp] theorem State.emit_booted : (s.emit m).booted = s.booted := rfl
@[simp] theorem State.emit_bootReady : (s.emit m).bootReady = s.bootReady := rfl
@[simp] theorem State.emit_flash : (s.emit m).flash = s.flash := rfl
@[simp] theorem State.emit_tagSeq : (s.emit m).tagSeq = s.tagSeq := rfl
@[simp] theorem State.emit_agenda : (s.emit m).agenda = s.agenda := rfl
@[simp] theorem State.emit_focus : (s.emit m).focus = s.focus := rfl
@[simp] theorem State.emit_group : (s.emit m).group = s.group := rfl
@[simp] theorem State.emit_msg : (s.emit m).msg = s.msg := rfl
@[simp] theorem State.emit_free : (s.emit m).free = s.free := rfl
@[simp] theorem State.emit_uid : (s.emit m).uid = s.uid := rfl
@[simp] theorem State.emit_word : (s.emit m).word = s.word := rfl
@[simp] theorem State.emit_proxy : (s.emit m).proxy = s.proxy := rfl
end

section
variable (s : State) (k n : Nat) (bs : List Byte)
@[simp] theorem State.clearTags_part : (s.clearTags k n).part = s.part := by unfold State.clearTags; split <;> rfl
@[simp] theorem State.clearTags_powered : (s.clearTags k n).powered = s.powered := by unfold State.clearTags; split <;> rfl
@[simp] theorem State.clearTags_mem : (s.clearTags k n).mem = s.mem := by unfold State.clearTags; split <;> rfl
@[simp] theorem State.clearTags_poison : (s.clearTags k n).poison = s.poison := by unfold State.clearTags; split <;> rfl
@[simp] theorem State.clearTags_consumed : (s.clearTags k n).consumed = s.consumed := by unfold State.clearTags; split <;> rfl
@[simp] theorem State.clearTags_dies : (s.clearTags k n).dies = s.dies := by unfold State.clearTags; split <;> rfl
@[simp] theorem State.clearTags_ctxs : (s.clearTags k n).ctxs = s.ctxs := by unfold State.clearTags; split <;> rfl
@[simp] theorem State.clearTags_pdks : (s.clearTags k n).pdks = s.pdks := by unfold State.clearTags; split <;> rfl
@[simp] theorem State.clearTags_units : (s.clearTags k n).units = s.units := by unfold State.clearTags; split <;> rfl
@[simp] theorem State.clearTags_grids : (s.clearTags k n).grids = s.grids := by unfold State.clearTags; split <;> rfl
@[simp] theorem State.clearTags_blocks : (s.clearTags k n).blocks = s.blocks := by unfold State.clearTags; split <;> rfl
@[simp] theorem State.clearTags_slices : (s.clearTags k n).slices = s.slices := by unfold State.clearTags; split <;> rfl
@[simp] theorem State.clearTags_shadows : (s.clearTags k n).shadows = s.shadows := by unfold State.clearTags; split <;> rfl
@[simp] theorem State.clearTags_bars : (s.clearTags k n).bars = s.bars := by unfold State.clearTags; split <;> rfl
@[simp] theorem State.clearTags_bbs : (s.clearTags k n).bbs = s.bbs := by unfold State.clearTags; split <;> rfl
@[simp] theorem State.clearTags_cmds : (s.clearTags k n).cmds = s.cmds := by unfold State.clearTags; split <;> rfl
@[simp] theorem State.clearTags_stalls : (s.clearTags k n).stalls = s.stalls := by unfold State.clearTags; split <;> rfl
@[simp] theorem State.clearTags_retiring : (s.clearTags k n).retiring = s.retiring := by unfold State.clearTags; split <;> rfl
@[simp] theorem State.clearTags_pushbuf : (s.clearTags k n).pushbuf = s.pushbuf := by unfold State.clearTags; split <;> rfl
@[simp] theorem State.clearTags_saved : (s.clearTags k n).saved = s.saved := by unfold State.clearTags; split <;> rfl
@[simp] theorem State.clearTags_tlb : (s.clearTags k n).tlb = s.tlb := by unfold State.clearTags; split <;> rfl
@[simp] theorem State.clearTags_red : (s.clearTags k n).red = s.red := by unfold State.clearTags; split <;> rfl
@[simp] theorem State.clearTags_tree : (s.clearTags k n).tree = s.tree := by unfold State.clearTags; split <;> rfl
@[simp] theorem State.clearTags_awaits : (s.clearTags k n).awaits = s.awaits := by unfold State.clearTags; split <;> rfl
@[simp] theorem State.clearTags_mgmt : (s.clearTags k n).mgmt = s.mgmt := by unfold State.clearTags; split <;> rfl
@[simp] theorem State.clearTags_asked : (s.clearTags k n).asked = s.asked := by unfold State.clearTags; split <;> rfl
@[simp] theorem State.clearTags_mgmtq : (s.clearTags k n).mgmtq = s.mgmtq := by unfold State.clearTags; split <;> rfl
@[simp] theorem State.clearTags_outbox : (s.clearTags k n).outbox = s.outbox := by unfold State.clearTags; split <;> rfl
@[simp] theorem State.clearTags_resend : (s.clearTags k n).resend = s.resend := by unfold State.clearTags; split <;> rfl
@[simp] theorem State.clearTags_vdevs : (s.clearTags k n).vdevs = s.vdevs := by unfold State.clearTags; split <;> rfl
@[simp] theorem State.clearTags_joins : (s.clearTags k n).joins = s.joins := by unfold State.clearTags; split <;> rfl
@[simp] theorem State.clearTags_windows : (s.clearTags k n).windows = s.windows := by unfold State.clearTags; split <;> rfl
@[simp] theorem State.clearTags_sessions : (s.clearTags k n).sessions = s.sessions := by unfold State.clearTags; split <;> rfl
@[simp] theorem State.clearTags_cuts : (s.clearTags k n).cuts = s.cuts := by unfold State.clearTags; split <;> rfl
@[simp] theorem State.clearTags_replays : (s.clearTags k n).replays = s.replays := by unfold State.clearTags; split <;> rfl
@[simp] theorem State.clearTags_refused : (s.clearTags k n).refused = s.refused := by unfold State.clearTags; split <;> rfl
@[simp] theorem State.clearTags_behind : (s.clearTags k n).behind = s.behind := by unfold State.clearTags; split <;> rfl
@[simp] theorem State.clearTags_linkq : (s.clearTags k n).linkq = s.linkq := by unfold State.clearTags; split <;> rfl
@[simp] theorem State.clearTags_carried : (s.clearTags k n).carried = s.carried := by unfold State.clearTags; split <;> rfl
@[simp] theorem State.clearTags_reads : (s.clearTags k n).reads = s.reads := by unfold State.clearTags; split <;> rfl
@[simp] theorem State.clearTags_dumps : (s.clearTags k n).dumps = s.dumps := by unfold State.clearTags; split <;> rfl
@[simp] theorem State.clearTags_ports : (s.clearTags k n).ports = s.ports := by unfold State.clearTags; split <;> rfl
@[simp] theorem State.clearTags_chans : (s.clearTags k n).chans = s.chans := by unfold State.clearTags; split <;> rfl
@[simp] theorem State.clearTags_tests : (s.clearTags k n).tests = s.tests := by unfold State.clearTags; split <;> rfl
@[simp] theorem State.clearTags_unitErrs : (s.clearTags k n).unitErrs = s.unitErrs := by unfold State.clearTags; split <;> rfl
@[simp] theorem State.clearTags_bankRows : (s.clearTags k n).bankRows = s.bankRows := by unfold State.clearTags; split <;> rfl
@[simp] theorem State.clearTags_recordAt : (s.clearTags k n).recordAt = s.recordAt := by unfold State.clearTags; split <;> rfl
@[simp] theorem State.clearTags_drops : (s.clearTags k n).drops = s.drops := by unfold State.clearTags; split <;> rfl
@[simp] theorem State.clearTags_node : (s.clearTags k n).node = s.node := by unfold State.clearTags; split <;> rfl
@[simp] theorem State.clearTags_fenced : (s.clearTags k n).fenced = s.fenced := by unfold State.clearTags; split <;> rfl
@[simp] theorem State.clearTags_booted : (s.clearTags k n).booted = s.booted := by unfold State.clearTags; split <;> rfl
@[simp] theorem State.clearTags_bootReady : (s.clearTags k n).bootReady = s.bootReady := by unfold State.clearTags; split <;> rfl
@[simp] theorem State.clearTags_flash : (s.clearTags k n).flash = s.flash := by unfold State.clearTags; split <;> rfl
@[simp] theorem State.clearTags_tagSeq : (s.clearTags k n).tagSeq = s.tagSeq := by unfold State.clearTags; split <;> rfl
@[simp] theorem State.clearTags_agenda : (s.clearTags k n).agenda = s.agenda := by unfold State.clearTags; split <;> rfl
@[simp] theorem State.clearTags_focus : (s.clearTags k n).focus = s.focus := by unfold State.clearTags; split <;> rfl
@[simp] theorem State.clearTags_group : (s.clearTags k n).group = s.group := by unfold State.clearTags; split <;> rfl
@[simp] theorem State.clearTags_msg : (s.clearTags k n).msg = s.msg := by unfold State.clearTags; split <;> rfl
@[simp] theorem State.clearTags_free : (s.clearTags k n).free = s.free := by unfold State.clearTags; split <;> rfl
@[simp] theorem State.clearTags_uid : (s.clearTags k n).uid = s.uid := by unfold State.clearTags; split <;> rfl
@[simp] theorem State.clearTags_word : (s.clearTags k n).word = s.word := by unfold State.clearTags; split <;> rfl
@[simp] theorem State.clearTags_proxy : (s.clearTags k n).proxy = s.proxy := by unfold State.clearTags; split <;> rfl
@[simp] theorem State.wr_part : (s.wr k bs).part = s.part := by simp [State.wr]
@[simp] theorem State.wr_powered : (s.wr k bs).powered = s.powered := by simp [State.wr]
@[simp] theorem State.wr_consumed : (s.wr k bs).consumed = s.consumed := by simp [State.wr]
@[simp] theorem State.wr_dies : (s.wr k bs).dies = s.dies := by simp [State.wr]
@[simp] theorem State.wr_ctxs : (s.wr k bs).ctxs = s.ctxs := by simp [State.wr]
@[simp] theorem State.wr_pdks : (s.wr k bs).pdks = s.pdks := by simp [State.wr]
@[simp] theorem State.wr_units : (s.wr k bs).units = s.units := by simp [State.wr]
@[simp] theorem State.wr_grids : (s.wr k bs).grids = s.grids := by simp [State.wr]
@[simp] theorem State.wr_blocks : (s.wr k bs).blocks = s.blocks := by simp [State.wr]
@[simp] theorem State.wr_slices : (s.wr k bs).slices = s.slices := by simp [State.wr]
@[simp] theorem State.wr_shadows : (s.wr k bs).shadows = s.shadows := by simp [State.wr]
@[simp] theorem State.wr_bars : (s.wr k bs).bars = s.bars := by simp [State.wr]
@[simp] theorem State.wr_bbs : (s.wr k bs).bbs = s.bbs := by simp [State.wr]
@[simp] theorem State.wr_cmds : (s.wr k bs).cmds = s.cmds := by simp [State.wr]
@[simp] theorem State.wr_stalls : (s.wr k bs).stalls = s.stalls := by simp [State.wr]
@[simp] theorem State.wr_retiring : (s.wr k bs).retiring = s.retiring := by simp [State.wr]
@[simp] theorem State.wr_pushbuf : (s.wr k bs).pushbuf = s.pushbuf := by simp [State.wr]
@[simp] theorem State.wr_saved : (s.wr k bs).saved = s.saved := by simp [State.wr]
@[simp] theorem State.wr_tlb : (s.wr k bs).tlb = s.tlb := by simp [State.wr]
@[simp] theorem State.wr_red : (s.wr k bs).red = s.red := by simp [State.wr]
@[simp] theorem State.wr_tree : (s.wr k bs).tree = s.tree := by simp [State.wr]
@[simp] theorem State.wr_awaits : (s.wr k bs).awaits = s.awaits := by simp [State.wr]
@[simp] theorem State.wr_mgmt : (s.wr k bs).mgmt = s.mgmt := by simp [State.wr]
@[simp] theorem State.wr_asked : (s.wr k bs).asked = s.asked := by simp [State.wr]
@[simp] theorem State.wr_mgmtq : (s.wr k bs).mgmtq = s.mgmtq := by simp [State.wr]
@[simp] theorem State.wr_outbox : (s.wr k bs).outbox = s.outbox := by simp [State.wr]
@[simp] theorem State.wr_resend : (s.wr k bs).resend = s.resend := by simp [State.wr]
@[simp] theorem State.wr_vdevs : (s.wr k bs).vdevs = s.vdevs := by simp [State.wr]
@[simp] theorem State.wr_joins : (s.wr k bs).joins = s.joins := by simp [State.wr]
@[simp] theorem State.wr_windows : (s.wr k bs).windows = s.windows := by simp [State.wr]
@[simp] theorem State.wr_sessions : (s.wr k bs).sessions = s.sessions := by simp [State.wr]
@[simp] theorem State.wr_cuts : (s.wr k bs).cuts = s.cuts := by simp [State.wr]
@[simp] theorem State.wr_replays : (s.wr k bs).replays = s.replays := by simp [State.wr]
@[simp] theorem State.wr_refused : (s.wr k bs).refused = s.refused := by simp [State.wr]
@[simp] theorem State.wr_behind : (s.wr k bs).behind = s.behind := by simp [State.wr]
@[simp] theorem State.wr_linkq : (s.wr k bs).linkq = s.linkq := by simp [State.wr]
@[simp] theorem State.wr_carried : (s.wr k bs).carried = s.carried := by simp [State.wr]
@[simp] theorem State.wr_reads : (s.wr k bs).reads = s.reads := by simp [State.wr]
@[simp] theorem State.wr_dumps : (s.wr k bs).dumps = s.dumps := by simp [State.wr]
@[simp] theorem State.wr_ports : (s.wr k bs).ports = s.ports := by simp [State.wr]
@[simp] theorem State.wr_chans : (s.wr k bs).chans = s.chans := by simp [State.wr]
@[simp] theorem State.wr_tests : (s.wr k bs).tests = s.tests := by simp [State.wr]
@[simp] theorem State.wr_unitErrs : (s.wr k bs).unitErrs = s.unitErrs := by simp [State.wr]
@[simp] theorem State.wr_bankRows : (s.wr k bs).bankRows = s.bankRows := by simp [State.wr]
@[simp] theorem State.wr_recordAt : (s.wr k bs).recordAt = s.recordAt := by simp [State.wr]
@[simp] theorem State.wr_drops : (s.wr k bs).drops = s.drops := by simp [State.wr]
@[simp] theorem State.wr_node : (s.wr k bs).node = s.node := by simp [State.wr]
@[simp] theorem State.wr_fenced : (s.wr k bs).fenced = s.fenced := by simp [State.wr]
@[simp] theorem State.wr_booted : (s.wr k bs).booted = s.booted := by simp [State.wr]
@[simp] theorem State.wr_bootReady : (s.wr k bs).bootReady = s.bootReady := by simp [State.wr]
@[simp] theorem State.wr_flash : (s.wr k bs).flash = s.flash := by simp [State.wr]
@[simp] theorem State.wr_tagSeq : (s.wr k bs).tagSeq = s.tagSeq := by simp [State.wr]
@[simp] theorem State.wr_agenda : (s.wr k bs).agenda = s.agenda := by simp [State.wr]
@[simp] theorem State.wr_focus : (s.wr k bs).focus = s.focus := by simp [State.wr]
@[simp] theorem State.wr_group : (s.wr k bs).group = s.group := by simp [State.wr]
@[simp] theorem State.wr_msg : (s.wr k bs).msg = s.msg := by simp [State.wr]
@[simp] theorem State.wr_free : (s.wr k bs).free = s.free := by simp [State.wr]
@[simp] theorem State.wr_uid : (s.wr k bs).uid = s.uid := by simp [State.wr]
@[simp] theorem State.wr_word : (s.wr k bs).word = s.word := by simp [State.wr]
@[simp] theorem State.wr_proxy : (s.wr k bs).proxy = s.proxy := by simp [State.wr]
@[simp] theorem State.wr_poison : (s.wr k bs).poison = s.poison.filter fun i => decide (i < k) || decide (k + bs.length ≤ i) := rfl
@[simp] theorem State.wr_mem : (s.wr k bs).mem = Cells.setList s.mem k bs := rfl
end

/-! ### Updates of a slice -/

section
variable (x : Slice) (r : SReg) (v : W64)
@[simp] theorem Slice.ws_id : (x.ws r v).id = x.id := by unfold Slice.ws; split <;> rfl
@[simp] theorem Slice.ws_handler : (x.ws r v).handler = x.handler := by unfold Slice.ws; split <;> rfl
@[simp] theorem Slice.ws_block : (x.ws r v).block = x.block := by unfold Slice.ws; split <;> rfl
@[simp] theorem Slice.ws_ctx : (x.ws r v).ctx = x.ctx := by unfold Slice.ws; split <;> rfl
@[simp] theorem Slice.ws_die : (x.ws r v).die = x.die := by unfold Slice.ws; split <;> rfl
@[simp] theorem Slice.ws_core : (x.ws r v).core = x.core := by unfold Slice.ws; split <;> rfl
@[simp] theorem Slice.ws_pdk : (x.ws r v).pdk = x.pdk := by unfold Slice.ws; split <;> rfl
@[simp] theorem Slice.ws_gid : (x.ws r v).gid = x.gid := by unfold Slice.ws; split <;> rfl
@[simp] theorem Slice.ws_idx : (x.ws r v).idx = x.idx := by unfold Slice.ws; split <;> rfl
@[simp] theorem Slice.ws_pc : (x.ws r v).pc = x.pc := by unfold Slice.ws; split <;> rfl
@[simp] theorem Slice.ws_v : (x.ws r v).v = x.v := by unfold Slice.ws; split <;> rfl
@[simp] theorem Slice.ws_k : (x.ws r v).k = x.k := by unfold Slice.ws; split <;> rfl
@[simp] theorem Slice.ws_c : (x.ws r v).c = x.c := by unfold Slice.ws; split <;> rfl
@[simp] theorem Slice.ws_ct : (x.ws r v).ct = x.ct := by unfold Slice.ws; split <;> rfl
@[simp] theorem Slice.ws_lc0 : (x.ws r v).lc0 = x.lc0 := by unfold Slice.ws; split <;> rfl
@[simp] theorem Slice.ws_lc1 : (x.ws r v).lc1 = x.lc1 := by unfold Slice.ws; split <;> rfl
@[simp] theorem Slice.ws_fr : (x.ws r v).fr = x.fr := by unfold Slice.ws; split <;> rfl
@[simp] theorem Slice.ws_alive : (x.ws r v).alive = x.alive := by unfold Slice.ws; split <;> rfl
@[simp] theorem Slice.ws_exited : (x.ws r v).exited = x.exited := by unfold Slice.ws; split <;> rfl
@[simp] theorem Slice.ws_gm : (x.ws r v).gm = x.gm := by unfold Slice.ws; split <;> rfl
@[simp] theorem Slice.ws_ext : (x.ws r v).ext = x.ext := by unfold Slice.ws; split <;> rfl
@[simp] theorem Slice.ws_batch : (x.ws r v).batch = x.batch := by unfold Slice.ws; split <;> rfl
@[simp] theorem Slice.ws_region : (x.ws r v).region = x.region := by unfold Slice.ws; split <;> rfl
@[simp] theorem Slice.ws_hang : (x.ws r v).hang = x.hang := by unfold Slice.ws; split <;> rfl
@[simp] theorem Slice.ws_run : (x.ws r v).run = x.run := by unfold Slice.ws; split <;> rfl
@[simp] theorem Slice.ws_marked : (x.ws r v).marked = x.marked := by unfold Slice.ws; split <;> rfl
@[simp] theorem Slice.ws_xv : (x.ws r v).xv = x.xv := by unfold Slice.ws; split <;> rfl
@[simp] theorem Slice.ws_land : (x.ws r v).land = x.land := by unfold Slice.ws; split <;> rfl
@[simp] theorem Slice.ws_recent : (x.ws r v).recent = x.recent := by unfold Slice.ws; split <;> rfl
@[simp] theorem Slice.ws_nextIssue : (x.ws r v).nextIssue = x.nextIssue := by unfold Slice.ws; split <;> rfl
@[simp] theorem Slice.ws_interlock : (x.ws r v).interlock = x.interlock := by unfold Slice.ws; split <;> rfl
@[simp] theorem Slice.ws_arrived : (x.ws r v).arrived = x.arrived := by unfold Slice.ws; split <;> rfl
@[simp] theorem Slice.ws_pagex : (x.ws r v).pagex = x.pagex := by unfold Slice.ws; split <;> rfl
@[simp] theorem Slice.ws_bpDone : (x.ws r v).bpDone = x.bpDone := by unfold Slice.ws; split <;> rfl
@[simp] theorem Slice.ws_badV : (x.ws r v).badV = x.badV := by unfold Slice.ws; split <;> rfl
@[simp] theorem Slice.ws_steps : (x.ws r v).steps = x.steps := by unfold Slice.ws; split <;> rfl
@[simp] theorem Slice.ws_pushes : (x.ws r v).pushes = x.pushes := by unfold Slice.ws; split <;> rfl
@[simp] theorem Slice.ws_lag : (x.ws r v).lag = x.lag := by unfold Slice.ws; split <;> rfl
end

section
variable (x : Slice) (r : KReg) (v : W32)
@[simp] theorem Slice.wk_id : (x.wk r v).id = x.id := rfl
@[simp] theorem Slice.wk_handler : (x.wk r v).handler = x.handler := rfl
@[simp] theorem Slice.wk_block : (x.wk r v).block = x.block := rfl
@[simp] theorem Slice.wk_ctx : (x.wk r v).ctx = x.ctx := rfl
@[simp] theorem Slice.wk_die : (x.wk r v).die = x.die := rfl
@[simp] theorem Slice.wk_core : (x.wk r v).core = x.core := rfl
@[simp] theorem Slice.wk_pdk : (x.wk r v).pdk = x.pdk := rfl
@[simp] theorem Slice.wk_gid : (x.wk r v).gid = x.gid := rfl
@[simp] theorem Slice.wk_idx : (x.wk r v).idx = x.idx := rfl
@[simp] theorem Slice.wk_pc : (x.wk r v).pc = x.pc := rfl
@[simp] theorem Slice.wk_s : (x.wk r v).s = x.s := rfl
@[simp] theorem Slice.wk_v : (x.wk r v).v = x.v := rfl
@[simp] theorem Slice.wk_c : (x.wk r v).c = x.c := rfl
@[simp] theorem Slice.wk_ct : (x.wk r v).ct = x.ct := rfl
@[simp] theorem Slice.wk_lc0 : (x.wk r v).lc0 = x.lc0 := rfl
@[simp] theorem Slice.wk_lc1 : (x.wk r v).lc1 = x.lc1 := rfl
@[simp] theorem Slice.wk_fr : (x.wk r v).fr = x.fr := rfl
@[simp] theorem Slice.wk_alive : (x.wk r v).alive = x.alive := rfl
@[simp] theorem Slice.wk_exited : (x.wk r v).exited = x.exited := rfl
@[simp] theorem Slice.wk_gm : (x.wk r v).gm = x.gm := rfl
@[simp] theorem Slice.wk_ext : (x.wk r v).ext = x.ext := rfl
@[simp] theorem Slice.wk_batch : (x.wk r v).batch = x.batch := rfl
@[simp] theorem Slice.wk_region : (x.wk r v).region = x.region := rfl
@[simp] theorem Slice.wk_hang : (x.wk r v).hang = x.hang := rfl
@[simp] theorem Slice.wk_run : (x.wk r v).run = x.run := rfl
@[simp] theorem Slice.wk_marked : (x.wk r v).marked = x.marked := rfl
@[simp] theorem Slice.wk_xv : (x.wk r v).xv = x.xv := rfl
@[simp] theorem Slice.wk_land : (x.wk r v).land = x.land := rfl
@[simp] theorem Slice.wk_recent : (x.wk r v).recent = x.recent := rfl
@[simp] theorem Slice.wk_nextIssue : (x.wk r v).nextIssue = x.nextIssue := rfl
@[simp] theorem Slice.wk_interlock : (x.wk r v).interlock = x.interlock := rfl
@[simp] theorem Slice.wk_arrived : (x.wk r v).arrived = x.arrived := rfl
@[simp] theorem Slice.wk_pagex : (x.wk r v).pagex = x.pagex := rfl
@[simp] theorem Slice.wk_bpDone : (x.wk r v).bpDone = x.bpDone := rfl
@[simp] theorem Slice.wk_badV : (x.wk r v).badV = x.badV := rfl
@[simp] theorem Slice.wk_steps : (x.wk r v).steps = x.steps := rfl
@[simp] theorem Slice.wk_pushes : (x.wk r v).pushes = x.pushes := rfl
@[simp] theorem Slice.wk_lag : (x.wk r v).lag = x.lag := rfl
end

section
variable (x : Slice) (r : VReg) (m : W32) (f : Nat → W32)
@[simp] theorem Slice.wv_id : (x.wv r m f).id = x.id := rfl
@[simp] theorem Slice.wv_handler : (x.wv r m f).handler = x.handler := rfl
@[simp] theorem Slice.wv_block : (x.wv r m f).block = x.block := rfl
@[simp] theorem Slice.wv_ctx : (x.wv r m f).ctx = x.ctx := rfl
@[simp] theorem Slice.wv_die : (x.wv r m f).die = x.die := rfl
@[simp] theorem Slice.wv_core : (x.wv r m f).core = x.core := rfl
@[simp] theorem Slice.wv_pdk : (x.wv r m f).pdk = x.pdk := rfl
@[simp] theorem Slice.wv_gid : (x.wv r m f).gid = x.gid := rfl
@[simp] theorem Slice.wv_idx : (x.wv r m f).idx = x.idx := rfl
@[simp] theorem Slice.wv_pc : (x.wv r m f).pc = x.pc := rfl
@[simp] theorem Slice.wv_s : (x.wv r m f).s = x.s := rfl
@[simp] theorem Slice.wv_k : (x.wv r m f).k = x.k := rfl
@[simp] theorem Slice.wv_c : (x.wv r m f).c = x.c := rfl
@[simp] theorem Slice.wv_ct : (x.wv r m f).ct = x.ct := rfl
@[simp] theorem Slice.wv_lc0 : (x.wv r m f).lc0 = x.lc0 := rfl
@[simp] theorem Slice.wv_lc1 : (x.wv r m f).lc1 = x.lc1 := rfl
@[simp] theorem Slice.wv_fr : (x.wv r m f).fr = x.fr := rfl
@[simp] theorem Slice.wv_alive : (x.wv r m f).alive = x.alive := rfl
@[simp] theorem Slice.wv_exited : (x.wv r m f).exited = x.exited := rfl
@[simp] theorem Slice.wv_gm : (x.wv r m f).gm = x.gm := rfl
@[simp] theorem Slice.wv_ext : (x.wv r m f).ext = x.ext := rfl
@[simp] theorem Slice.wv_batch : (x.wv r m f).batch = x.batch := rfl
@[simp] theorem Slice.wv_region : (x.wv r m f).region = x.region := rfl
@[simp] theorem Slice.wv_hang : (x.wv r m f).hang = x.hang := rfl
@[simp] theorem Slice.wv_run : (x.wv r m f).run = x.run := rfl
@[simp] theorem Slice.wv_marked : (x.wv r m f).marked = x.marked := rfl
@[simp] theorem Slice.wv_xv : (x.wv r m f).xv = x.xv := rfl
@[simp] theorem Slice.wv_land : (x.wv r m f).land = x.land := rfl
@[simp] theorem Slice.wv_recent : (x.wv r m f).recent = x.recent := rfl
@[simp] theorem Slice.wv_nextIssue : (x.wv r m f).nextIssue = x.nextIssue := rfl
@[simp] theorem Slice.wv_interlock : (x.wv r m f).interlock = x.interlock := rfl
@[simp] theorem Slice.wv_arrived : (x.wv r m f).arrived = x.arrived := rfl
@[simp] theorem Slice.wv_pagex : (x.wv r m f).pagex = x.pagex := rfl
@[simp] theorem Slice.wv_bpDone : (x.wv r m f).bpDone = x.bpDone := rfl
@[simp] theorem Slice.wv_badV : (x.wv r m f).badV = x.badV := rfl
@[simp] theorem Slice.wv_steps : (x.wv r m f).steps = x.steps := rfl
@[simp] theorem Slice.wv_pushes : (x.wv r m f).pushes = x.pushes := rfl
@[simp] theorem Slice.wv_lag : (x.wv r m f).lag = x.lag := rfl
end

section
variable (x : Slice) (r : CReg) (v : Cap)
@[simp] theorem Slice.wc_id : (x.wc r v).id = x.id := by unfold Slice.wc; split <;> rfl
@[simp] theorem Slice.wc_handler : (x.wc r v).handler = x.handler := by unfold Slice.wc; split <;> rfl
@[simp] theorem Slice.wc_block : (x.wc r v).block = x.block := by unfold Slice.wc; split <;> rfl
@[simp] theorem Slice.wc_ctx : (x.wc r v).ctx = x.ctx := by unfold Slice.wc; split <;> rfl
@[simp] theorem Slice.wc_die : (x.wc r v).die = x.die := by unfold Slice.wc; split <;> rfl
@[simp] theorem Slice.wc_core : (x.wc r v).core = x.core := by unfold Slice.wc; split <;> rfl
@[simp] theorem Slice.wc_pdk : (x.wc r v).pdk = x.pdk := by unfold Slice.wc; split <;> rfl
@[simp] theorem Slice.wc_gid : (x.wc r v).gid = x.gid := by unfold Slice.wc; split <;> rfl
@[simp] theorem Slice.wc_idx : (x.wc r v).idx = x.idx := by unfold Slice.wc; split <;> rfl
@[simp] theorem Slice.wc_pc : (x.wc r v).pc = x.pc := by unfold Slice.wc; split <;> rfl
@[simp] theorem Slice.wc_s : (x.wc r v).s = x.s := by unfold Slice.wc; split <;> rfl
@[simp] theorem Slice.wc_v : (x.wc r v).v = x.v := by unfold Slice.wc; split <;> rfl
@[simp] theorem Slice.wc_k : (x.wc r v).k = x.k := by unfold Slice.wc; split <;> rfl
@[simp] theorem Slice.wc_lc0 : (x.wc r v).lc0 = x.lc0 := by unfold Slice.wc; split <;> rfl
@[simp] theorem Slice.wc_lc1 : (x.wc r v).lc1 = x.lc1 := by unfold Slice.wc; split <;> rfl
@[simp] theorem Slice.wc_fr : (x.wc r v).fr = x.fr := by unfold Slice.wc; split <;> rfl
@[simp] theorem Slice.wc_alive : (x.wc r v).alive = x.alive := by unfold Slice.wc; split <;> rfl
@[simp] theorem Slice.wc_exited : (x.wc r v).exited = x.exited := by unfold Slice.wc; split <;> rfl
@[simp] theorem Slice.wc_gm : (x.wc r v).gm = x.gm := by unfold Slice.wc; split <;> rfl
@[simp] theorem Slice.wc_ext : (x.wc r v).ext = x.ext := by unfold Slice.wc; split <;> rfl
@[simp] theorem Slice.wc_batch : (x.wc r v).batch = x.batch := by unfold Slice.wc; split <;> rfl
@[simp] theorem Slice.wc_region : (x.wc r v).region = x.region := by unfold Slice.wc; split <;> rfl
@[simp] theorem Slice.wc_hang : (x.wc r v).hang = x.hang := by unfold Slice.wc; split <;> rfl
@[simp] theorem Slice.wc_run : (x.wc r v).run = x.run := by unfold Slice.wc; split <;> rfl
@[simp] theorem Slice.wc_marked : (x.wc r v).marked = x.marked := by unfold Slice.wc; split <;> rfl
@[simp] theorem Slice.wc_xv : (x.wc r v).xv = x.xv := by unfold Slice.wc; split <;> rfl
@[simp] theorem Slice.wc_land : (x.wc r v).land = x.land := by unfold Slice.wc; split <;> rfl
@[simp] theorem Slice.wc_recent : (x.wc r v).recent = x.recent := by unfold Slice.wc; split <;> rfl
@[simp] theorem Slice.wc_nextIssue : (x.wc r v).nextIssue = x.nextIssue := by unfold Slice.wc; split <;> rfl
@[simp] theorem Slice.wc_interlock : (x.wc r v).interlock = x.interlock := by unfold Slice.wc; split <;> rfl
@[simp] theorem Slice.wc_arrived : (x.wc r v).arrived = x.arrived := by unfold Slice.wc; split <;> rfl
@[simp] theorem Slice.wc_pagex : (x.wc r v).pagex = x.pagex := by unfold Slice.wc; split <;> rfl
@[simp] theorem Slice.wc_bpDone : (x.wc r v).bpDone = x.bpDone := by unfold Slice.wc; split <;> rfl
@[simp] theorem Slice.wc_badV : (x.wc r v).badV = x.badV := by unfold Slice.wc; split <;> rfl
@[simp] theorem Slice.wc_steps : (x.wc r v).steps = x.steps := by unfold Slice.wc; split <;> rfl
@[simp] theorem Slice.wc_pushes : (x.wc r v).pushes = x.pushes := by unfold Slice.wc; split <;> rfl
@[simp] theorem Slice.wc_lag : (x.wc r v).lag = x.lag := by unfold Slice.wc; split <;> rfl
end

section
variable (x : Slice) (l : Bool) (v : Loop)
@[simp] theorem Slice.setLc_id : (x.setLc l v).id = x.id := by unfold Slice.setLc; split <;> rfl
@[simp] theorem Slice.setLc_handler : (x.setLc l v).handler = x.handler := by unfold Slice.setLc; split <;> rfl
@[simp] theorem Slice.setLc_block : (x.setLc l v).block = x.block := by unfold Slice.setLc; split <;> rfl
@[simp] theorem Slice.setLc_ctx : (x.setLc l v).ctx = x.ctx := by unfold Slice.setLc; split <;> rfl
@[simp] theorem Slice.setLc_die : (x.setLc l v).die = x.die := by unfold Slice.setLc; split <;> rfl
@[simp] theorem Slice.setLc_core : (x.setLc l v).core = x.core := by unfold Slice.setLc; split <;> rfl
@[simp] theorem Slice.setLc_pdk : (x.setLc l v).pdk = x.pdk := by unfold Slice.setLc; split <;> rfl
@[simp] theorem Slice.setLc_gid : (x.setLc l v).gid = x.gid := by unfold Slice.setLc; split <;> rfl
@[simp] theorem Slice.setLc_idx : (x.setLc l v).idx = x.idx := by unfold Slice.setLc; split <;> rfl
@[simp] theorem Slice.setLc_pc : (x.setLc l v).pc = x.pc := by unfold Slice.setLc; split <;> rfl
@[simp] theorem Slice.setLc_s : (x.setLc l v).s = x.s := by unfold Slice.setLc; split <;> rfl
@[simp] theorem Slice.setLc_v : (x.setLc l v).v = x.v := by unfold Slice.setLc; split <;> rfl
@[simp] theorem Slice.setLc_k : (x.setLc l v).k = x.k := by unfold Slice.setLc; split <;> rfl
@[simp] theorem Slice.setLc_c : (x.setLc l v).c = x.c := by unfold Slice.setLc; split <;> rfl
@[simp] theorem Slice.setLc_ct : (x.setLc l v).ct = x.ct := by unfold Slice.setLc; split <;> rfl
@[simp] theorem Slice.setLc_fr : (x.setLc l v).fr = x.fr := by unfold Slice.setLc; split <;> rfl
@[simp] theorem Slice.setLc_alive : (x.setLc l v).alive = x.alive := by unfold Slice.setLc; split <;> rfl
@[simp] theorem Slice.setLc_exited : (x.setLc l v).exited = x.exited := by unfold Slice.setLc; split <;> rfl
@[simp] theorem Slice.setLc_gm : (x.setLc l v).gm = x.gm := by unfold Slice.setLc; split <;> rfl
@[simp] theorem Slice.setLc_ext : (x.setLc l v).ext = x.ext := by unfold Slice.setLc; split <;> rfl
@[simp] theorem Slice.setLc_batch : (x.setLc l v).batch = x.batch := by unfold Slice.setLc; split <;> rfl
@[simp] theorem Slice.setLc_region : (x.setLc l v).region = x.region := by unfold Slice.setLc; split <;> rfl
@[simp] theorem Slice.setLc_hang : (x.setLc l v).hang = x.hang := by unfold Slice.setLc; split <;> rfl
@[simp] theorem Slice.setLc_run : (x.setLc l v).run = x.run := by unfold Slice.setLc; split <;> rfl
@[simp] theorem Slice.setLc_marked : (x.setLc l v).marked = x.marked := by unfold Slice.setLc; split <;> rfl
@[simp] theorem Slice.setLc_xv : (x.setLc l v).xv = x.xv := by unfold Slice.setLc; split <;> rfl
@[simp] theorem Slice.setLc_land : (x.setLc l v).land = x.land := by unfold Slice.setLc; split <;> rfl
@[simp] theorem Slice.setLc_recent : (x.setLc l v).recent = x.recent := by unfold Slice.setLc; split <;> rfl
@[simp] theorem Slice.setLc_nextIssue : (x.setLc l v).nextIssue = x.nextIssue := by unfold Slice.setLc; split <;> rfl
@[simp] theorem Slice.setLc_interlock : (x.setLc l v).interlock = x.interlock := by unfold Slice.setLc; split <;> rfl
@[simp] theorem Slice.setLc_arrived : (x.setLc l v).arrived = x.arrived := by unfold Slice.setLc; split <;> rfl
@[simp] theorem Slice.setLc_pagex : (x.setLc l v).pagex = x.pagex := by unfold Slice.setLc; split <;> rfl
@[simp] theorem Slice.setLc_bpDone : (x.setLc l v).bpDone = x.bpDone := by unfold Slice.setLc; split <;> rfl
@[simp] theorem Slice.setLc_badV : (x.setLc l v).badV = x.badV := by unfold Slice.setLc; split <;> rfl
@[simp] theorem Slice.setLc_steps : (x.setLc l v).steps = x.steps := by unfold Slice.setLc; split <;> rfl
@[simp] theorem Slice.setLc_pushes : (x.setLc l v).pushes = x.pushes := by unfold Slice.setLc; split <;> rfl
@[simp] theorem Slice.setLc_lag : (x.setLc l v).lag = x.lag := by unfold Slice.setLc; split <;> rfl
end

/-- Going to the next instruction changes the two loop levels and the program counter at most. -/
theorem loopOne_eq (x : Slice) (l : Bool) : ∃ a b, (loopOne x l).1 = { x with lc0 := a, lc1 := b } := by
  by_cases h : ((x.lc l).active && (x.lc l).stop == x.pc) = true
  · cases l <;> simp only [loopOne, h, if_true, Slice.setLc, Bool.false_eq_true, if_false]
    · exact ⟨_, x.lc1, rfl⟩
    · exact ⟨x.lc0, _, rfl⟩
  · exact ⟨x.lc0, x.lc1, by simp only [loopOne, if_neg h]⟩
theorem advance_eq (x : Slice) : ∃ a b p, advance x = { x with lc0 := a, lc1 := b, pc := p } := by
  obtain ⟨a, b, h⟩ := loopOne_eq x (decide (x.lc0.start.toNat < x.lc1.start.toNat))
  obtain ⟨c, d, h'⟩ := loopOne_eq (loopOne x (decide (x.lc0.start.toNat < x.lc1.start.toNat))).1 (!decide (x.lc0.start.toNat < x.lc1.start.toNat))
  simp only [advance]
  split
  · exact ⟨a, b, _, by rw [h]⟩
  · rw [h'] at *
    split <;> exact ⟨c, d, _, by rw [h]⟩

section
variable (x : Slice)
@[simp] theorem advance_id : (advance x).id = x.id := by obtain ⟨_, _, _, h⟩ := advance_eq x; rw [h]
@[simp] theorem advance_handler : (advance x).handler = x.handler := by obtain ⟨_, _, _, h⟩ := advance_eq x; rw [h]
@[simp] theorem advance_block : (advance x).block = x.block := by obtain ⟨_, _, _, h⟩ := advance_eq x; rw [h]
@[simp] theorem advance_ctx : (advance x).ctx = x.ctx := by obtain ⟨_, _, _, h⟩ := advance_eq x; rw [h]
@[simp] theorem advance_die : (advance x).die = x.die := by obtain ⟨_, _, _, h⟩ := advance_eq x; rw [h]
@[simp] theorem advance_core : (advance x).core = x.core := by obtain ⟨_, _, _, h⟩ := advance_eq x; rw [h]
@[simp] theorem advance_pdk : (advance x).pdk = x.pdk := by obtain ⟨_, _, _, h⟩ := advance_eq x; rw [h]
@[simp] theorem advance_gid : (advance x).gid = x.gid := by obtain ⟨_, _, _, h⟩ := advance_eq x; rw [h]
@[simp] theorem advance_idx : (advance x).idx = x.idx := by obtain ⟨_, _, _, h⟩ := advance_eq x; rw [h]
@[simp] theorem advance_s : (advance x).s = x.s := by obtain ⟨_, _, _, h⟩ := advance_eq x; rw [h]
@[simp] theorem advance_v : (advance x).v = x.v := by obtain ⟨_, _, _, h⟩ := advance_eq x; rw [h]
@[simp] theorem advance_k : (advance x).k = x.k := by obtain ⟨_, _, _, h⟩ := advance_eq x; rw [h]
@[simp] theorem advance_c : (advance x).c = x.c := by obtain ⟨_, _, _, h⟩ := advance_eq x; rw [h]
@[simp] theorem advance_ct : (advance x).ct = x.ct := by obtain ⟨_, _, _, h⟩ := advance_eq x; rw [h]
@[simp] theorem advance_fr : (advance x).fr = x.fr := by obtain ⟨_, _, _, h⟩ := advance_eq x; rw [h]
@[simp] theorem advance_alive : (advance x).alive = x.alive := by obtain ⟨_, _, _, h⟩ := advance_eq x; rw [h]
@[simp] theorem advance_exited : (advance x).exited = x.exited := by obtain ⟨_, _, _, h⟩ := advance_eq x; rw [h]
@[simp] theorem advance_gm : (advance x).gm = x.gm := by obtain ⟨_, _, _, h⟩ := advance_eq x; rw [h]
@[simp] theorem advance_ext : (advance x).ext = x.ext := by obtain ⟨_, _, _, h⟩ := advance_eq x; rw [h]
@[simp] theorem advance_batch : (advance x).batch = x.batch := by obtain ⟨_, _, _, h⟩ := advance_eq x; rw [h]
@[simp] theorem advance_region : (advance x).region = x.region := by obtain ⟨_, _, _, h⟩ := advance_eq x; rw [h]
@[simp] theorem advance_hang : (advance x).hang = x.hang := by obtain ⟨_, _, _, h⟩ := advance_eq x; rw [h]
@[simp] theorem advance_run : (advance x).run = x.run := by obtain ⟨_, _, _, h⟩ := advance_eq x; rw [h]
@[simp] theorem advance_marked : (advance x).marked = x.marked := by obtain ⟨_, _, _, h⟩ := advance_eq x; rw [h]
@[simp] theorem advance_xv : (advance x).xv = x.xv := by obtain ⟨_, _, _, h⟩ := advance_eq x; rw [h]
@[simp] theorem advance_land : (advance x).land = x.land := by obtain ⟨_, _, _, h⟩ := advance_eq x; rw [h]
@[simp] theorem advance_recent : (advance x).recent = x.recent := by obtain ⟨_, _, _, h⟩ := advance_eq x; rw [h]
@[simp] theorem advance_nextIssue : (advance x).nextIssue = x.nextIssue := by obtain ⟨_, _, _, h⟩ := advance_eq x; rw [h]
@[simp] theorem advance_interlock : (advance x).interlock = x.interlock := by obtain ⟨_, _, _, h⟩ := advance_eq x; rw [h]
@[simp] theorem advance_arrived : (advance x).arrived = x.arrived := by obtain ⟨_, _, _, h⟩ := advance_eq x; rw [h]
@[simp] theorem advance_pagex : (advance x).pagex = x.pagex := by obtain ⟨_, _, _, h⟩ := advance_eq x; rw [h]
@[simp] theorem advance_bpDone : (advance x).bpDone = x.bpDone := by obtain ⟨_, _, _, h⟩ := advance_eq x; rw [h]
@[simp] theorem advance_badV : (advance x).badV = x.badV := by obtain ⟨_, _, _, h⟩ := advance_eq x; rw [h]
@[simp] theorem advance_steps : (advance x).steps = x.steps := by obtain ⟨_, _, _, h⟩ := advance_eq x; rw [h]
@[simp] theorem advance_pushes : (advance x).pushes = x.pushes := by obtain ⟨_, _, _, h⟩ := advance_eq x; rw [h]
@[simp] theorem advance_lag : (advance x).lag = x.lag := by obtain ⟨_, _, _, h⟩ := advance_eq x; rw [h]
end

end Sys2Proof.Machine
end

