-- ==== Sys2Proof/Laws/Issue.lean ====
section
/-! SUPPORT. What issuing an instruction can do: the members, their own updates, the traps that precede them. -/
namespace Sys2Proof.Machine

theorem slice_id {s : State} {id : Nat} (h : s.has id) : (s.slice id).id = id := recGet_key Slice.id _ _ _ h

theorem slice_mapSlices {s : State} {id : Nat} (f : Slice → Slice) (hf : ∀ x, (f x).id = x.id) (h : s.has id) :
    (s.mapSlices f).slice id = f (s.slice id) := recGet_map Slice.id _ _ _ f hf h

theorem has_mapSlices {s : State} {id : Nat} (f : Slice → Slice) (hf : ∀ x, (f x).id = x.id) :
    (s.mapSlices f).has id ↔ s.has id := by
  unfold State.has State.mapSlices
  rw [any_map Slice.id _ _ f hf]

/-- A member after an update of the group. -/
theorem slice_mapGroup {s : State} {id : Nat} (f : Slice → Slice) (hf : ∀ x, (f x).id = x.id) (h : s.has id) :
    (s.mapGroup f).slice id = if id ∈ s.group then f (s.slice id) else s.slice id := by
  rw [State.mapGroup, slice_mapSlices _ (fun x => by split <;> simp [hf]) h, slice_id h]
  simp [State.inGroup]

theorem slice_updSlice {s : State} {id : Nat} (k : Nat) (f : Slice → Slice) (hf : ∀ x, (f x).id = x.id) (h : s.has id) :
    (s.updSlice k f).slice id = if id = k then f (s.slice id) else s.slice id := recGet_recUpd Slice.id _ _ _ _ f hf h

theorem has_updSlice {s : State} {id : Nat} (k : Nat) (f : Slice → Slice) (hf : ∀ x, (f x).id = x.id) :
    (s.updSlice k f).has id ↔ s.has id := by
  unfold State.has State.updSlice recUpd
  rw [any_map Slice.id _ _ _ (fun x => by split <;> simp [hf])]

/-- Without a trap the members stay as they are. -/
theorem trapMembers_none {s : State} {f : Slice → Option TrapInfo} (h : ∀ id ∈ s.group, f (s.slice id) = none) :
    s.trapMembers f = s := by
  have hb : (s.group.filterMap fun id => (f (s.slice id)).map fun t => (id, t)) = [] := by
    rw [List.filterMap_eq_nil_iff]
    intro id hid
    simp [h id hid]
  have ht : (s.group.filter fun _ => true) = s.group := List.filter_eq_self.2 fun _ _ => rfl
  simp only [State.trapMembers, hb, List.foldl_nil, List.any_nil, Bool.not_false, ht]

theorem issue_none {i : Instr} {s : State} (run : State → State) (h : ∀ id ∈ s.group, issueTrap i s (s.slice id) = none) :
    issue i s run = run s := by rw [issue, trapMembers_none h]

/-- A register instruction without a trap answers with every member updated and at its next word. -/
theorem regOp_next {i : Instr} {f : Slice → Slice} {s : State} (h : ∀ id ∈ s.group, issueTrap i s (s.slice id) = none) :
    regOp i f s = .next (s.mapGroup fun x => advance (f x)) := by rw [regOp, issue_none _ h]

theorem regOpS_next {i : Instr} {f : State → Slice → Slice} {s : State} (h : ∀ id ∈ s.group, issueTrap i s (s.slice id) = none) :
    regOpS i f s = .next (s.mapGroup fun x => advance (f s x)) := by rw [regOpS, issue_none _ h]

theorem trapOp_next {i : Instr} {g : State → Slice → Option TrapInfo} {run : State → State} {s : State}
    (h : ∀ id ∈ s.group, issueTrap i s (s.slice id) = none) (hg : ∀ id ∈ s.group, g s (s.slice id) = none) :
    trapOp i g run s = .next (run s) := by rw [trapOp, issue_none _ h, trapMembers_none hg]

/-- Registers of a slice. -/
theorem rs_ws (x : Slice) (d r : SReg) (v : W64) : (x.ws d v).rs r = if r = 0 then 0 else if r = d then v else x.rs r := by
  by_cases hr : r = 0
  · simp [Slice.rs, hr]
  · by_cases hd : d = 0
    · subst hd
      rw [if_neg hr, if_neg hr]
      simp [Slice.ws]
    · simp only [Slice.rs, hr, if_false, Slice.ws, hd, Cells.get_set]
      by_cases h : r = d
      · simp [h]
      · simp [h, BitVec.toNat_inj]

theorem rk_wk (x : Slice) (d r : KReg) (v : W32) :
    (x.wk d v).rk r = if r = d then (if d = 0 then v &&& x.alive else v) else x.rk r := by
  simp only [Slice.rk, Slice.wk, Cells.get_set, BitVec.toNat_inj]

theorem mem_lanesOf (m : W32) (l : Nat) : l ∈ lanesOf m ↔ m.getLsbD l = true := by
  simp only [lanesOf, List.mem_filter, List.mem_range, and_iff_right_iff_imp]
  exact fun h => BitVec.lt_of_getLsbD h

theorem get_foldl_set {w : Nat} (g : Nat → Nat) (f : Nat → BitVec w) (hg : ∀ a b, g a = g b → a = b) (ls : List Nat) (m : Cells w) (j : Nat) :
    Cells.get (ls.foldl (fun v l => v.set (g l) (f l)) m) (g j) = if j ∈ ls then f j else m.get (g j) := by
  induction ls generalizing m with
  | nil => simp
  | cons a t ih =>
    simp only [List.foldl_cons, ih, Cells.get_set, List.mem_cons]
    by_cases hj : j ∈ t
    · simp [hj]
    · simp only [hj, or_false]
      by_cases h : j = a
      · simp [h]
      · rw [if_neg (fun e => h (hg _ _ e)), if_neg h]; rfl

theorem get_foldl_set_ne {w : Nat} (g : Nat → Nat) (f : Nat → BitVec w) (ls : List Nat) (m : Cells w) (k : Nat) (hk : ∀ l ∈ ls, k ≠ g l) :
    Cells.get (ls.foldl (fun v l => v.set (g l) (f l)) m) k = m.get k := by
  induction ls generalizing m with
  | nil => rfl
  | cons a t ih =>
    rw [List.foldl_cons, ih _ fun l hl => hk l (by simp [hl]), Cells.get_set_ne _ _ (hk a (by simp))]

/-- A lane of a vector register after a write of the lanes of a mask. -/
theorem rv_wv (x : Slice) (d r : VReg) (m : W32) (f : Nat → W32) (l : Nat) (hl : l < 32) :
    (x.wv d m f).rv r l = if r = d ∧ m.getLsbD l = true then f l else x.rv r l := by
  simp only [Slice.rv, Slice.wv]
  by_cases h : r = d
  · subst h
    rw [get_foldl_set (fun l => 32 * r.toNat + l) f (fun a b h => by omega)]
    simp [mem_lanesOf]
  · have hd : r.toNat ≠ d.toNat := fun e => h (BitVec.toNat_inj.1 e)
    rw [get_foldl_set_ne (fun l => 32 * d.toNat + l)]
    · simp [h]
    · intro j hj
      have := BitVec.lt_of_getLsbD ((mem_lanesOf m j).1 hj)
      omega

theorem rs_wv (x : Slice) (d : VReg) (m f) (r : SReg) : (x.wv d m f).rs r = x.rs r := by simp [Slice.rs]
theorem rv_ws (x : Slice) (d : SReg) (v : W64) (r : VReg) (l : Nat) : (x.ws d v).rv r l = x.rv r l := by simp [Slice.rv]

@[simp] theorem rs_advance (x : Slice) (r : SReg) : (advance x).rs r = x.rs r := by simp [Slice.rs]
@[simp] theorem rv_advance (x : Slice) (r : VReg) (l : Nat) : (advance x).rv r l = x.rv r l := by simp [Slice.rv]
@[simp] theorem rk_advance (x : Slice) (r : KReg) : (advance x).rk r = x.rk r := by simp [Slice.rk]
@[simp] theorem rc_advance (x : Slice) (r : CReg) : (advance x).rc r = x.rc r := by simp [Slice.rc]

/-- Where a slice goes next depends on its loop levels and program counter alone. -/
def nextOf (l0 l1 : Loop) (pc : Addr) : Slice := advance { lc0 := l0, lc1 := l1, pc := pc }

theorem advance_explicit (x : Slice) : advance x =
    { x with lc0 := (nextOf x.lc0 x.lc1 x.pc).lc0, lc1 := (nextOf x.lc0 x.lc1 x.pc).lc1, pc := (nextOf x.lc0 x.lc1 x.pc).pc } := by
  unfold nextOf advance
  generalize hb : decide (x.lc0.start.toNat < x.lc1.start.toNat) = b
  by_cases h0 : (x.lc0.active && x.lc0.stop == x.pc) = true <;> by_cases h1 : (x.lc1.active && x.lc1.stop == x.pc) = true <;>
    by_cases k0 : x.lc0.count.toNat ≤ 1 <;> by_cases k1 : x.lc1.count.toNat ≤ 1 <;> cases b <;>
    simp only [loopOne, Slice.lc, Slice.setLc, Loop.check, h0, h1, k0, k1, Bool.not_true, Bool.not_false, Bool.false_eq_true, if_true, if_false]

theorem advance_ws (x : Slice) (d : SReg) (v : W64) : advance (x.ws d v) = { advance x with s := (x.ws d v).s } := by
  rw [advance_explicit (x.ws d v), advance_explicit x]; unfold Slice.ws; split <;> rfl
theorem advance_wk (x : Slice) (d : KReg) (v : W32) : advance (x.wk d v) = { advance x with k := (x.wk d v).k } := by
  rw [advance_explicit (x.wk d v), advance_explicit x]; rfl
theorem advance_wv (x : Slice) (d : VReg) (m : W32) (f : Nat → W32) :
    advance (x.wv d m f) = { advance x with v := (x.wv d m f).v } := by
  rw [advance_explicit (x.wv d m f), advance_explicit x]; rfl
theorem advance_wc (x : Slice) (d : CReg) (v : Cap) :
    advance (x.wc d v) = { advance x with c := (x.wc d v).c, ct := (x.wc d v).ct } := by
  rw [advance_explicit (x.wc d v), advance_explicit x]; unfold Slice.wc; split <;> rfl

/-- Outside a loop's last word the next word is the one 8 bytes on. -/
theorem advance_pc (x : Slice) (h0 : ¬(x.lc0.active = true ∧ x.lc0.stop = x.pc)) (h1 : ¬(x.lc1.active = true ∧ x.lc1.stop = x.pc)) :
    (advance x).pc = x.pc + 8 := by
  have e : ∀ l, loopOne x l = (x, false) := by
    intro l
    unfold loopOne
    cases l <;> simp [Slice.lc, h0, h1]
  simp [advance, e]

/-! ### Memory -/

/-- A byte after a write of consecutive bytes. -/
theorem wr_get (s : State) (k : Nat) (bs : List Byte) (j : Nat) :
    Cells.get (s.wr k bs).mem j = if k ≤ j ∧ j < k + bs.length then bs.getD (j - k) 0 else Cells.get s.mem j :=
  Cells.get_setList bs s.mem k j

theorem wr_wf (s : State) (k : Nat) (bs : List Byte) (h : Cells.wf s.mem = true) : Cells.wf (s.wr k bs).mem = true :=
  Cells.wf_setList bs s.mem k h

end Sys2Proof.Machine
end

