-- ==== Sys2Proof/Laws/PerInstr.lean ====
section
/-! SUPPORT. The shape of every instruction's word, constructor by constructor: the opcode is one byte and the operand
group fits the 44 bits that 03 R52 gives it, so that no operand runs into another field of the word. -/
namespace Sys2Proof.Laws.Shape
open Sys2Proof

/-- Where an instruction has a word, its opcode is one byte and its operand group has 44 bits (03 R52). -/
def Statement (i : Instr) : Prop := ∀ e, encodeFields i = some e → e.opc < 2 ^ 8 ∧ e.ops < 2 ^ 44

/-- A field below the rest of a group. -/
theorem pack {a w r m : Nat} (ha : a < 2 ^ w) (hr : r < 2 ^ m) : a + 2 ^ w * r < 2 ^ (w + m) := by
  rw [Nat.pow_add]
  calc a + 2 ^ w * r < 2 ^ w * (r + 1) := by rw [Nat.mul_add, Nat.mul_one]; omega
    _ ≤ 2 ^ w * 2 ^ m := Nat.mul_le_mul_left _ hr

theorem fv3_lt (f : FV3) : f.enc < 2 ^ 44 :=
  Nat.lt_of_lt_of_le (pack f.d.isLt (pack f.a.isLt (pack f.b.isLt (pack f.c.isLt (pack f.t2.isLt (pack f.t1.isLt (f.sub.isLt))))))) (by decide)
theorem fvi_lt (f : FVI) : f.enc < 2 ^ 44 :=
  Nat.lt_of_lt_of_le (pack f.d.isLt (pack f.a.isLt (pack f.imm.isLt (pack f.t.isLt (f.sub.isLt))))) (by decide)
theorem fs3_lt (f : FS3) : f.enc < 2 ^ 44 :=
  Nat.lt_of_lt_of_le (pack f.d.isLt (pack f.a.isLt (pack f.b.isLt (pack f.t.isLt (pack f.sub.isLt (pack f.i.isLt (f.imm.isLt))))))) (by decide)
theorem fsl_lt (f : FSL) : f.enc < 2 ^ 44 :=
  Nat.lt_of_lt_of_le (pack f.d.isLt (pack f.z.isLt (f.imm.isLt))) (by decide)
theorem fbr_lt (f : FBR) : f.enc < 2 ^ 44 :=
  Nat.lt_of_lt_of_le (pack f.a.isLt (pack f.b.isLt (pack f.cond.isLt (pack f.l.isLt (pack f.z.isLt (f.off.isLt)))))) (by decide)
theorem fmem_lt (f : FMEM) : f.enc < 2 ^ 44 :=
  Nat.lt_of_lt_of_le (pack f.r.isLt (pack f.c.isLt (pack f.x.isLt (pack f.xm.isLt (pack f.t.isLt (pack f.ord.isLt (pack f.scp.isLt (f.off.isLt)))))))) (by decide)
theorem fcpy_lt (f : FCPY) : f.enc < 2 ^ 44 :=
  Nat.lt_of_lt_of_le (pack f.cd.isLt (pack f.cs.isLt (pack f.xd.isLt (pack f.xs.isLt (pack f.len.isLt (pack f.cmp.isLt (pack f.scp.isLt (f.q.isLt)))))))) (by decide)
theorem fat_lt (f : FAT) : f.enc < 2 ^ 44 :=
  Nat.lt_of_lt_of_le (pack f.d.isLt (pack f.c.isLt (pack f.x.isLt (pack f.xm.isLt (pack f.a.isLt (pack f.op.isLt (pack f.ord.isLt (pack f.scp.isLt (pack f.t.isLt (f.z.isLt)))))))))) (by decide)
theorem fxv_lt (f : FXV) : f.enc < 2 ^ 44 :=
  Nat.lt_of_lt_of_le (pack f.a.isLt (pack f.b.isLt (pack f.km.isLt (pack f.nt.isLt (pack f.s.isLt (pack f.cp.isLt (f.imm.isLt))))))) (by decide)
theorem fmx_lt (f : FMX) : f.enc < 2 ^ 44 :=
  Nat.lt_of_lt_of_le (pack f.t.isLt (pack f.c1.isLt (pack f.c2.isLt (pack f.v.isLt (pack f.s1.isLt (pack f.s2.isLt (pack f.s3.isLt (pack f.cmp.isLt (f.m.isLt))))))))) (by decide)
theorem ftk_lt (f : FTK) : f.enc < 2 ^ 44 :=
  Nat.lt_of_lt_of_le (pack f.s1.isLt (pack f.s2.isLt (pack f.s3.isLt (pack f.s4.isLt (pack f.c.isLt (pack f.cls.isLt (pack f.tr.isLt (pack f.ak.isLt (f.imm.isLt))))))))) (by decide)
theorem fsys_lt (f : FSYS) : f.enc < 2 ^ 44 :=
  Nat.lt_of_lt_of_le (pack f.r1.isLt (pack f.r2.isLt (pack f.sub.isLt (f.imm.isLt)))) (by decide)

/-- An instruction with one form. -/
theorem one {o : Nat} {p : Pred} {n : Nat} (ho : o < 2 ^ 8) (hn : n < 2 ^ 44) (e : Enc) (h : some (⟨o, p, n⟩ : Enc) = some e) :
    e.opc < 2 ^ 8 ∧ e.ops < 2 ^ 44 := by
  injection h with h
  subst h
  exact ⟨ho, hn⟩

theorem s3b {o : Nat} {f : FS3} {b : SrcB} (ho : o < 2 ^ 8) (e : Enc) (h : encS3B o f b = some e) : e.opc < 2 ^ 8 ∧ e.ops < 2 ^ 44 := by
  cases b <;> exact one ho (fs3_lt _) e h

theorem br (a0 : Cond) (a1 a2 : SReg) (a3 : BitVec 26) : Statement (.br a0 a1 a2 a3) := one (by decide) (fbr_lt _)
theorem brS (a0 : Cond) (a1 a2 : SReg) (a3 : BitVec 26) : Statement (.brS a0 a1 a2 a3) := one (by decide) (fbr_lt _)
theorem brKz (a0 : KReg) (a1 : BitVec 26) : Statement (.brKz a0 a1) := one (by decide) (fbr_lt _)
theorem brKnz (a0 : KReg) (a1 : BitVec 26) : Statement (.brKnz a0 a1) := one (by decide) (fbr_lt _)
theorem brKf (a0 : KReg) (a1 : BitVec 26) : Statement (.brKf a0 a1) := one (by decide) (fbr_lt _)
theorem call (a0 : SReg) (a1 : BitVec 26) : Statement (.call a0 a1) := one (by decide) (fbr_lt _)
theorem ret (a0 : SReg) : Statement (.ret a0) := one (by decide) (fbr_lt _)
theorem loop (a0 : Bool) (a1 : SReg) (a2 : BitVec 26) : Statement (.loop a0 a1 a2) := one (by decide) (fbr_lt _)
theorem loopi (a0 : Bool) (a1 : BitVec 12) (a2 : BitVec 26) : Statement (.loopi a0 a1 a2) := one (by decide) (fbr_lt _)
theorem rgn (a0 a1 : SReg) : Statement (.rgn a0 a1) := one (by decide) (fsys_lt _)
theorem exit (a0 : Pred) : Statement (.exit a0) := one (by decide) (fsys_lt _)
theorem rdsr (a0 : SReg) (a1 : BitVec 12) : Statement (.rdsr a0 a1) := one (by decide) (fsys_lt _)
theorem rdsrV (a0 : Pred) (a1 : VReg) (a2 : BitVec 12) : Statement (.rdsrV a0 a1 a2) := one (by decide) (fsys_lt _)
theorem wrsr (a0 : BitVec 12) (a1 : SReg) : Statement (.wrsr a0 a1) := one (by decide) (fsys_lt _)
theorem frWrite (a0 : SReg) : Statement (.frWrite a0) := one (by decide) (fsys_lt _)
theorem lfmWrite (a0 : SReg) : Statement (.lfmWrite a0) := one (by decide) (fsys_lt _)
theorem lcWrite (a0 : Bool) (a1 : SReg) : Statement (.lcWrite a0 a1) := one (by decide) (fsys_lt _)
theorem fmt (a0 : BitVec 24) : Statement (.fmt a0) := one (by decide) (fsys_lt _)
theorem alloc (a0 : Byte) : Statement (.alloc a0) := one (by decide) (fsys_lt _)
theorem trap (a0 : Byte) : Statement (.trap a0) := one (by decide) (fsys_lt _)
theorem sysc (a0 : W16) : Statement (.sysc a0) := one (by decide) (fsys_lt _)
theorem syscAnswer (a0 : Nat) : Statement (.syscAnswer a0) := nofun
theorem idleTimeout (a0 : Nat) : Statement (.idleTimeout a0) := nofun
theorem sadd (a0 a1 : SReg) (a2 : SrcB) : Statement (.sadd a0 a1 a2) := s3b (by decide)
theorem ssub (a0 a1 : SReg) (a2 : SrcB) : Statement (.ssub a0 a1 a2) := s3b (by decide)
theorem smul (a0 a1 : SReg) (a2 : SrcB) : Statement (.smul a0 a1 a2) := s3b (by decide)
theorem smulh (a0 : Bool) (a1 a2 : SReg) (a3 : SrcB) : Statement (.smulh a0 a1 a2 a3) := s3b (by decide)
theorem sdiv (a0 : Bool) (a1 a2 : SReg) (a3 : SrcB) : Statement (.sdiv a0 a1 a2 a3) := s3b (by decide)
theorem srem (a0 : Bool) (a1 a2 : SReg) (a3 : SrcB) : Statement (.srem a0 a1 a2 a3) := s3b (by decide)
theorem sand (a0 a1 : SReg) (a2 : SrcB) : Statement (.sand a0 a1 a2) := s3b (by decide)
theorem sor (a0 a1 : SReg) (a2 : SrcB) : Statement (.sor a0 a1 a2) := s3b (by decide)
theorem sxor (a0 a1 : SReg) (a2 : SrcB) : Statement (.sxor a0 a1 a2) := s3b (by decide)
theorem sshl (a0 a1 : SReg) (a2 : SrcB) : Statement (.sshl a0 a1 a2) := s3b (by decide)
theorem sshr (a0 a1 : SReg) (a2 : SrcB) : Statement (.sshr a0 a1 a2) := s3b (by decide)
theorem ssra (a0 a1 : SReg) (a2 : SrcB) : Statement (.ssra a0 a1 a2) := s3b (by decide)
theorem smin (a0 : Bool) (a1 a2 : SReg) (a3 : SrcB) : Statement (.smin a0 a1 a2 a3) := s3b (by decide)
theorem smax (a0 : Bool) (a1 a2 : SReg) (a3 : SrcB) : Statement (.smax a0 a1 a2 a3) := s3b (by decide)
theorem scmp (a0 : Cond) (a1 : Bool) (a2 a3 : SReg) (a4 : SrcB) : Statement (.scmp a0 a1 a2 a3 a4) := s3b (by decide)
theorem ssel (a0 a1 a2 : SReg) : Statement (.ssel a0 a1 a2) := one (by decide) (fs3_lt _)
theorem smov (a0 a1 : SReg) : Statement (.smov a0 a1) := one (by decide) (fs3_lt _)
theorem sli (a0 : SReg) (a1 : W32) : Statement (.sli a0 a1) := one (by decide) (fsl_lt _)
theorem slih (a0 : SReg) (a1 : W32) : Statement (.slih a0 a1) := one (by decide) (fsl_lt _)
theorem sext (a0 : Ty) (a1 a2 : SReg) : Statement (.sext a0 a1 a2) := one (by decide) (fs3_lt _)
theorem sbfe (a0 : Bool) (a1 a2 : SReg) (a3 a4 : BitVec 6) : Statement (.sbfe a0 a1 a2 a3 a4) := one (by decide) (fs3_lt _)
theorem sbfi (a0 a1 : SReg) (a2 a3 : BitVec 6) : Statement (.sbfi a0 a1 a2 a3) := one (by decide) (fs3_lt _)
theorem spopc (a0 a1 : SReg) : Statement (.spopc a0 a1) := one (by decide) (fs3_lt _)
theorem sclz (a0 a1 : SReg) : Statement (.sclz a0 a1) := one (by decide) (fs3_lt _)
theorem kand (a0 a1 a2 : KReg) : Statement (.kand a0 a1 a2) := one (by decide) (fs3_lt _)
theorem kor (a0 a1 a2 : KReg) : Statement (.kor a0 a1 a2) := one (by decide) (fs3_lt _)
theorem kxor (a0 a1 a2 : KReg) : Statement (.kxor a0 a1 a2) := one (by decide) (fs3_lt _)
theorem kandn (a0 a1 a2 : KReg) : Statement (.kandn a0 a1 a2) := one (by decide) (fs3_lt _)
theorem knot (a0 a1 : KReg) : Statement (.knot a0 a1) := one (by decide) (fs3_lt _)
theorem kmov (a0 a1 : KReg) : Statement (.kmov a0 a1) := one (by decide) (fs3_lt _)
theorem kmovImm (a0 : KReg) (a1 : BitVec 17) : Statement (.kmovImm a0 a1) := one (by decide) (fs3_lt _)
theorem kmovFromScalar (a0 : KReg) (a1 : SReg) : Statement (.kmovFromScalar a0 a1) := one (by decide) (fs3_lt _)
theorem kmovToScalar (a0 : SReg) (a1 : KReg) : Statement (.kmovToScalar a0 a1) := one (by decide) (fs3_lt _)
theorem kpopc (a0 : SReg) (a1 : KReg) : Statement (.kpopc a0 a1) := one (by decide) (fs3_lt _)
theorem kfirst (a0 : SReg) (a1 : KReg) : Statement (.kfirst a0 a1) := one (by decide) (fs3_lt _)
theorem cset (a0 a1 : CReg) (a2 : SrcB) : Statement (.cset a0 a1 a2) := s3b (by decide)
theorem coff (a0 a1 : CReg) (a2 : SrcB) : Statement (.coff a0 a1 a2) := s3b (by decide)
theorem cperm (a0 a1 : CReg) (a2 : SrcB) : Statement (.cperm a0 a1 a2) := s3b (by decide)
theorem cgetBase (a0 : SReg) (a1 : CReg) : Statement (.cgetBase a0 a1) := one (by decide) (fs3_lt _)
theorem cgetLen (a0 : SReg) (a1 : CReg) : Statement (.cgetLen a0 a1) := one (by decide) (fs3_lt _)
theorem cgetGran (a0 : SReg) (a1 : CReg) : Statement (.cgetGran a0 a1) := one (by decide) (fs3_lt _)
theorem cgetSpace (a0 : SReg) (a1 : CReg) : Statement (.cgetSpace a0 a1) := one (by decide) (fs3_lt _)
theorem cgetPerm (a0 : SReg) (a1 : CReg) : Statement (.cgetPerm a0 a1) := one (by decide) (fs3_lt _)
theorem ctag (a0 : SReg) (a1 : CReg) : Statement (.ctag a0 a1) := one (by decide) (fs3_lt _)
theorem cmov (a0 a1 : CReg) : Statement (.cmov a0 a1) := one (by decide) (fs3_lt _)
theorem vadd (a0 : Pred) (a1 : Ty) (a2 a3 a4 : VReg) : Statement (.vadd a0 a1 a2 a3 a4) := one (by decide) (fv3_lt _)
theorem vsub (a0 : Pred) (a1 : Ty) (a2 a3 a4 : VReg) : Statement (.vsub a0 a1 a2 a3 a4) := one (by decide) (fv3_lt _)
theorem vmul (a0 : Pred) (a1 : Ty) (a2 a3 a4 : VReg) : Statement (.vmul a0 a1 a2 a3 a4) := one (by decide) (fv3_lt _)
theorem vmulh (a0 : Pred) (a1 : Ty) (a2 a3 a4 : VReg) : Statement (.vmulh a0 a1 a2 a3 a4) := one (by decide) (fv3_lt _)
theorem vmad (a0 : Pred) (a1 : Ty) (a2 a3 a4 a5 : VReg) : Statement (.vmad a0 a1 a2 a3 a4 a5) := one (by decide) (fv3_lt _)
theorem vand (a0 : Pred) (a1 a2 a3 : VReg) : Statement (.vand a0 a1 a2 a3) := one (by decide) (fv3_lt _)
theorem vor (a0 : Pred) (a1 a2 a3 : VReg) : Statement (.vor a0 a1 a2 a3) := one (by decide) (fv3_lt _)
theorem vxor (a0 : Pred) (a1 a2 a3 : VReg) : Statement (.vxor a0 a1 a2 a3) := one (by decide) (fv3_lt _)
theorem vshl (a0 : Pred) (a1 : Ty) (a2 a3 a4 : VReg) : Statement (.vshl a0 a1 a2 a3 a4) := one (by decide) (fv3_lt _)
theorem vshr (a0 : Pred) (a1 : Ty) (a2 a3 a4 : VReg) : Statement (.vshr a0 a1 a2 a3 a4) := one (by decide) (fv3_lt _)
theorem vsra (a0 : Pred) (a1 : Ty) (a2 a3 a4 : VReg) : Statement (.vsra a0 a1 a2 a3 a4) := one (by decide) (fv3_lt _)
theorem vmin (a0 : Pred) (a1 : Ty) (a2 a3 a4 : VReg) : Statement (.vmin a0 a1 a2 a3 a4) := one (by decide) (fv3_lt _)
theorem vmax (a0 : Pred) (a1 : Ty) (a2 a3 a4 : VReg) : Statement (.vmax a0 a1 a2 a3 a4) := one (by decide) (fv3_lt _)
theorem vabs (a0 : Pred) (a1 : Ty) (a2 a3 : VReg) : Statement (.vabs a0 a1 a2 a3) := one (by decide) (fv3_lt _)
theorem vneg (a0 : Pred) (a1 : Ty) (a2 a3 : VReg) : Statement (.vneg a0 a1 a2 a3) := one (by decide) (fv3_lt _)
theorem vcmp (a0 : Pred) (a1 : Cond) (a2 : Ty) (a3 : KReg) (a4 a5 : VReg) : Statement (.vcmp a0 a1 a2 a3 a4 a5) := one (by decide) (fv3_lt _)
theorem vsel (a0 : Pred) (a1 a2 a3 : VReg) (a4 : KReg) : Statement (.vsel a0 a1 a2 a3 a4) := one (by decide) (fv3_lt _)
theorem vmov (a0 : Pred) (a1 a2 : VReg) : Statement (.vmov a0 a1 a2) := one (by decide) (fv3_lt _)
theorem vli (a0 : Pred) (a1 : Ty) (a2 : VReg) (a3 : BitVec 20) : Statement (.vli a0 a1 a2 a3) := one (by decide) (fvi_lt _)
theorem vbcast (a0 : Pred) (a1 : Ty) (a2 : VReg) (a3 : SReg) : Statement (.vbcast a0 a1 a2 a3) := one (by decide) (fv3_lt _)
theorem vclz (a0 : Pred) (a1 : Ty) (a2 a3 : VReg) : Statement (.vclz a0 a1 a2 a3) := one (by decide) (fv3_lt _)
theorem vpopc (a0 : Pred) (a1 : Ty) (a2 a3 : VReg) : Statement (.vpopc a0 a1 a2 a3) := one (by decide) (fv3_lt _)
theorem vbfe (a0 : Pred) (a1 : Ty) (a2 a3 a4 a5 : VReg) : Statement (.vbfe a0 a1 a2 a3 a4 a5) := one (by decide) (fv3_lt _)
theorem vfadd (a0 : Pred) (a1 : Ty) (a2 a3 a4 : VReg) : Statement (.vfadd a0 a1 a2 a3 a4) := one (by decide) (fv3_lt _)
theorem vfsub (a0 : Pred) (a1 : Ty) (a2 a3 a4 : VReg) : Statement (.vfsub a0 a1 a2 a3 a4) := one (by decide) (fv3_lt _)
theorem vfmul (a0 : Pred) (a1 : Ty) (a2 a3 a4 : VReg) : Statement (.vfmul a0 a1 a2 a3 a4) := one (by decide) (fv3_lt _)
theorem vfma (a0 : Pred) (a1 : Ty) (a2 a3 a4 a5 : VReg) : Statement (.vfma a0 a1 a2 a3 a4 a5) := one (by decide) (fv3_lt _)
theorem vfmin (a0 : Pred) (a1 : Ty) (a2 a3 a4 : VReg) : Statement (.vfmin a0 a1 a2 a3 a4) := one (by decide) (fv3_lt _)
theorem vfmax (a0 : Pred) (a1 : Ty) (a2 a3 a4 : VReg) : Statement (.vfmax a0 a1 a2 a3 a4) := one (by decide) (fv3_lt _)
theorem vfabs (a0 : Pred) (a1 : Ty) (a2 a3 : VReg) : Statement (.vfabs a0 a1 a2 a3) := one (by decide) (fv3_lt _)
theorem vfneg (a0 : Pred) (a1 : Ty) (a2 a3 : VReg) : Statement (.vfneg a0 a1 a2 a3) := one (by decide) (fv3_lt _)
theorem vfcmp (a0 : Pred) (a1 : Cond) (a2 : Ty) (a3 : KReg) (a4 a5 : VReg) : Statement (.vfcmp a0 a1 a2 a3 a4 a5) := one (by decide) (fv3_lt _)
theorem vfcls (a0 : Pred) (a1 : Ty) (a2 a3 : VReg) : Statement (.vfcls a0 a1 a2 a3) := one (by decide) (fv3_lt _)
theorem vrcp (a0 : Pred) (a1 : Ty) (a2 a3 : VReg) : Statement (.vrcp a0 a1 a2 a3) := one (by decide) (fv3_lt _)
theorem vrsq (a0 : Pred) (a1 : Ty) (a2 a3 : VReg) : Statement (.vrsq a0 a1 a2 a3) := one (by decide) (fv3_lt _)
theorem vexp2 (a0 : Pred) (a1 : Ty) (a2 a3 : VReg) : Statement (.vexp2 a0 a1 a2 a3) := one (by decide) (fv3_lt _)
theorem vlog2 (a0 : Pred) (a1 : Ty) (a2 a3 : VReg) : Statement (.vlog2 a0 a1 a2 a3) := one (by decide) (fv3_lt _)
theorem vcvt (a0 : Pred) (a1 a2 : Ty) (a3 a4 : VReg) : Statement (.vcvt a0 a1 a2 a3 a4) := one (by decide) (fv3_lt _)
theorem vpack (a0 : Pred) (a1 a2 : Ty) (a3 a4 a5 : VReg) : Statement (.vpack a0 a1 a2 a3 a4 a5) := one (by decide) (fv3_lt _)
theorem vunpack (a0 : Pred) (a1 a2 : Ty) (a3 a4 : VReg) (a5 : Bool) : Statement (.vunpack a0 a1 a2 a3 a4 a5) := one (by decide) (fv3_lt _)
theorem vqb (a0 : Ty) (a1 a2 a3 : VReg) : Statement (.vqb a0 a1 a2 a3) := one (by decide) (fv3_lt _)
theorem vdqb (a0 : Pred) (a1 : Ty) (a2 a3 : VReg) (a4 : Bool) : Statement (.vdqb a0 a1 a2 a3 a4) := one (by decide) (fv3_lt _)
theorem shf (a0 : Pred) (a1 : Bool) (a2 : VReg) (a3 : KReg) (a4 a5 : VReg) : Statement (.shf a0 a1 a2 a3 a4 a5) := one (by decide) (fv3_lt _)
theorem shfUp (a0 : Pred) (a1 : Bool) (a2 : VReg) (a3 : KReg) (a4 : VReg) (a5 : SReg) : Statement (.shfUp a0 a1 a2 a3 a4 a5) := one (by decide) (fv3_lt _)
theorem shfDn (a0 : Pred) (a1 : Bool) (a2 : VReg) (a3 : KReg) (a4 : VReg) (a5 : SReg) : Statement (.shfDn a0 a1 a2 a3 a4 a5) := one (by decide) (fv3_lt _)
theorem shfX (a0 : Pred) (a1 : Bool) (a2 : VReg) (a3 : KReg) (a4 : VReg) (a5 : SReg) : Statement (.shfX a0 a1 a2 a3 a4 a5) := one (by decide) (fv3_lt _)
theorem voteAny (a0 : Pred) (a1 : Bool) (a2 : SReg) (a3 : KReg) : Statement (.voteAny a0 a1 a2 a3) := one (by decide) (fv3_lt _)
theorem voteAll (a0 : Pred) (a1 : Bool) (a2 : SReg) (a3 : KReg) : Statement (.voteAll a0 a1 a2 a3) := one (by decide) (fv3_lt _)
theorem voteBal (a0 : Pred) (a1 : Bool) (a2 : SReg) (a3 : KReg) : Statement (.voteBal a0 a1 a2 a3) := one (by decide) (fv3_lt _)
theorem vred (a0 : Pred) (a1 : Bool) (a2 : RedOp) (a3 : Ty) (a4 a5 : VReg) : Statement (.vred a0 a1 a2 a3 a4 a5) := one (by decide) (fv3_lt _)
theorem vscan (a0 : Pred) (a1 : Bool) (a2 : RedOp) (a3 : Ty) (a4 a5 : VReg) : Statement (.vscan a0 a1 a2 a3 a4 a5) := one (by decide) (fv3_lt _)
theorem vaddImm (a0 : Pred) (a1 : Ty) (a2 a3 : VReg) (a4 : BitVec 20) : Statement (.vaddImm a0 a1 a2 a3 a4) := one (by decide) (fvi_lt _)
theorem vmulImm (a0 : Pred) (a1 : Ty) (a2 a3 : VReg) (a4 : BitVec 20) : Statement (.vmulImm a0 a1 a2 a3 a4) := one (by decide) (fvi_lt _)
theorem vandImm (a0 : Pred) (a1 a2 : VReg) (a3 : BitVec 20) : Statement (.vandImm a0 a1 a2 a3) := one (by decide) (fvi_lt _)
theorem vorImm (a0 : Pred) (a1 a2 : VReg) (a3 : BitVec 20) : Statement (.vorImm a0 a1 a2 a3) := one (by decide) (fvi_lt _)
theorem vxorImm (a0 : Pred) (a1 a2 : VReg) (a3 : BitVec 20) : Statement (.vxorImm a0 a1 a2 a3) := one (by decide) (fvi_lt _)
theorem vshlImm (a0 : Pred) (a1 : Ty) (a2 a3 : VReg) (a4 : BitVec 20) : Statement (.vshlImm a0 a1 a2 a3 a4) := one (by decide) (fvi_lt _)
theorem vshrImm (a0 : Pred) (a1 : Ty) (a2 a3 : VReg) (a4 : BitVec 20) : Statement (.vshrImm a0 a1 a2 a3 a4) := one (by decide) (fvi_lt _)
theorem vsraImm (a0 : Pred) (a1 : Ty) (a2 a3 : VReg) (a4 : BitVec 20) : Statement (.vsraImm a0 a1 a2 a3 a4) := one (by decide) (fvi_lt _)
theorem vminImm (a0 : Pred) (a1 : Ty) (a2 a3 : VReg) (a4 : BitVec 20) : Statement (.vminImm a0 a1 a2 a3 a4) := one (by decide) (fvi_lt _)
theorem vmaxImm (a0 : Pred) (a1 : Ty) (a2 a3 : VReg) (a4 : BitVec 20) : Statement (.vmaxImm a0 a1 a2 a3 a4) := one (by decide) (fvi_lt _)
theorem vcmpImm (a0 : Pred) (a1 : Cond) (a2 : Ty) (a3 : KReg) (a4 : VReg) (a5 : BitVec 20) : Statement (.vcmpImm a0 a1 a2 a3 a4 a5) := one (by decide) (fvi_lt _)
theorem vfaddImm (a0 : Pred) (a1 : Ty) (a2 a3 : VReg) (a4 : BitVec 20) : Statement (.vfaddImm a0 a1 a2 a3 a4) := one (by decide) (fvi_lt _)
theorem vfmulImm (a0 : Pred) (a1 : Ty) (a2 a3 : VReg) (a4 : BitVec 20) : Statement (.vfmulImm a0 a1 a2 a3 a4) := one (by decide) (fvi_lt _)
theorem xvStep (a0 : Bool) (a1 a2 : VReg) (a3 : KReg) : Statement (.xvStep a0 a1 a2 a3) := one (by decide) (fxv_lt _)
theorem xvRun (a0 : Bool) (a1 a2 : VReg) (a3 : KReg) (a4 : SReg) : Statement (.xvRun a0 a1 a2 a3 a4) := one (by decide) (fxv_lt _)
theorem xvRetire (a0 : Nat) : Statement (.xvRetire a0) := nofun
theorem xvLdk (a0 : VReg) : Statement (.xvLdk a0) := one (by decide) (fxv_lt _)
theorem xvClr (a0 : KReg) : Statement (.xvClr a0) := one (by decide) (fxv_lt _)
theorem xvPush (a0 : Bool) (a1 : VReg) (a2 : KReg) : Statement (.xvPush a0 a1 a2) := one (by decide) (fxv_lt _)
theorem xvPop (a0 : Bool) (a1 : VReg) (a2 : KReg) : Statement (.xvPop a0 a1 a2) := one (by decide) (fxv_lt _)
theorem xvDep (a0 : VReg) : Statement (.xvDep a0) := one (by decide) (fxv_lt _)
theorem xvStat (a0 : VReg) : Statement (.xvStat a0) := one (by decide) (fxv_lt _)
theorem xvSave (a0 : CReg) (a1 : SReg) (a2 : BitVec 14) : Statement (.xvSave a0 a1 a2) := one (by decide) (fxv_lt _)
theorem xvLoad (a0 : CReg) (a1 : SReg) (a2 : BitVec 14) : Statement (.xvLoad a0 a1 a2) := one (by decide) (fxv_lt _)
theorem ld (a0 : Ord) (a1 : Scope) (a2 : Ty) (a3 : SReg) (a4 : CReg) (a5 : Idx) (a6 : BitVec 13) : Statement (.ld a0 a1 a2 a3 a4 a5 a6) := one (by decide) (fmem_lt _)
theorem st (a0 : Ord) (a1 : Scope) (a2 : Ty) (a3 : SReg) (a4 : CReg) (a5 : Idx) (a6 : BitVec 13) : Statement (.st a0 a1 a2 a3 a4 a5 a6) := one (by decide) (fmem_lt _)
theorem ldc (a0 : Ord) (a1 : Scope) (a2 : CReg) (a3 : CReg) (a4 : Idx) (a5 : BitVec 13) : Statement (.ldc a0 a1 a2 a3 a4 a5) := one (by decide) (fmem_lt _)
theorem stc (a0 : Ord) (a1 : Scope) (a2 : CReg) (a3 : CReg) (a4 : Idx) (a5 : BitVec 13) : Statement (.stc a0 a1 a2 a3 a4 a5) := one (by decide) (fmem_lt _)
theorem ldV (a0 : Pred) (a1 : Ty) (a2 : VReg) (a3 : CReg) (a4 : Idx) (a5 : BitVec 13) : Statement (.ldV a0 a1 a2 a3 a4 a5) := one (by decide) (fmem_lt _)
theorem stV (a0 : Pred) (a1 : Ty) (a2 : VReg) (a3 : CReg) (a4 : Idx) (a5 : BitVec 13) : Statement (.stV a0 a1 a2 a3 a4 a5) := one (by decide) (fmem_lt _)
theorem loadDataReturn (a0 : Nat) : Statement (.loadDataReturn a0) := nofun
theorem fence (a0 : Ord) (a1 : Scope) : Statement (.fence a0 a1) := one (by decide) (fmem_lt _)
theorem cpy (a0 : CpyFields) (a1 a2 : SReg) : Statement (.cpy a0 a1 a2) := one (by decide) (fcpy_lt _)
theorem cpy2d (a0 : CpyFields) (a1 a2 : SReg) : Statement (.cpy2d a0 a1 a2) := one (by decide) (fcpy_lt _)
theorem cpyG (a0 : Pred) (a1 : CpyFields) (a2 : VReg) (a3 : SReg) : Statement (.cpyG a0 a1 a2 a3) := one (by decide) (fcpy_lt _)
theorem cpyS (a0 : Pred) (a1 : CpyFields) (a2 : SReg) (a3 : VReg) : Statement (.cpyS a0 a1 a2 a3) := one (by decide) (fcpy_lt _)
theorem cpyCommit (a0 : SReg) : Statement (.cpyCommit a0) := one (by decide) (fcpy_lt _)
theorem cpyWait (a0 : SReg) : Statement (.cpyWait a0) := one (by decide) (fcpy_lt _)
theorem qfence (a0 : BitVec 6) (a1 : Scope) (a2 : BitVec 5) (a3 : SReg) : Statement (.qfence a0 a1 a2 a3) := one (by decide) (fcpy_lt _)
theorem queuePerformCommand (a0 : Nat) : Statement (.queuePerformCommand a0) := nofun
theorem faultRecordPendingWrite (a0 : Nat) : Statement (.faultRecordPendingWrite a0) := nofun
theorem commandComplete (a0 : Nat) : Statement (.commandComplete a0) := nofun
theorem atm (a0 : Pred) (a1 : AtmOp) (a2 : Ord) (a3 : Scope) (a4 : Ty) (a5 : VReg) (a6 : CReg) (a7 : Idx) (a8 : VReg) : Statement (.atm a0 a1 a2 a3 a4 a5 a6 a7 a8) := one (by decide) (fat_lt _)
theorem atmBinc (a0 : Pred) (a1 : Ord) (a2 : Scope) (a3 : Ty) (a4 : VReg) (a5 : CReg) (a6 : Idx) (a7 : VReg) : Statement (.atmBinc a0 a1 a2 a3 a4 a5 a6 a7) := one (by decide) (fat_lt _)
theorem atmWinc (a0 : Pred) (a1 : Ord) (a2 : Scope) (a3 : Ty) (a4 : VReg) (a5 : CReg) (a6 : Idx) (a7 : VReg) : Statement (.atmWinc a0 a1 a2 a3 a4 a5 a6 a7) := one (by decide) (fat_lt _)
theorem atmCdec (a0 : Pred) (a1 : Ord) (a2 : Scope) (a3 : Ty) (a4 : VReg) (a5 : CReg) (a6 : Idx) : Statement (.atmCdec a0 a1 a2 a3 a4 a5 a6) := one (by decide) (fat_lt _)
theorem atmFaddl (a0 : Ord) (a1 : Scope) (a2 : SReg) (a3 : CReg) (a4 : Idx) (a5 : SReg) : Statement (.atmFaddl a0 a1 a2 a3 a4 a5) := one (by decide) (fat_lt _)
theorem fat (a0 : Ord) (a1 : Scope) (a2 : Ty) (a3 : SReg) (a4 : CReg) (a5 : Idx) (a6 : SReg) : Statement (.fat a0 a1 a2 a3 a4 a5 a6) := one (by decide) (fat_lt _)
theorem redF (a0 : Ord) (a1 : Scope) (a2 : SReg) (a3 : CReg) (a4 : Idx) (a5 : SReg) : Statement (.redF a0 a1 a2 a3 a4 a5) := one (by decide) (fat_lt _)
theorem redFRetry (a0 : Nat) : Statement (.redFRetry a0) := nofun
theorem barArr (a0 : Scope) (a1 : BitVec 24) : Statement (.barArr a0 a1) := one (by decide) (fsys_lt _)
theorem barWait (a0 : Scope) (a1 : BitVec 24) : Statement (.barWait a0 a1) := one (by decide) (fsys_lt _)
theorem bbExp (a0 : BitVec 4) (a1 : SReg) : Statement (.bbExp a0 a1) := one (by decide) (fsys_lt _)
theorem bbArr (a0 : SReg) (a1 : BitVec 4) : Statement (.bbArr a0 a1) := one (by decide) (fsys_lt _)
theorem bbArrDecl (a0 : SReg) (a1 : BitVec 4) : Statement (.bbArrDecl a0 a1) := one (by decide) (fsys_lt _)
theorem bbArrLeave (a0 : SReg) (a1 : BitVec 4) : Statement (.bbArrLeave a0 a1) := one (by decide) (fsys_lt _)
theorem bbWait (a0 : BitVec 4) (a1 : SReg) : Statement (.bbWait a0 a1) := one (by decide) (fsys_lt _)
theorem mcfg (a0 : Bool) (a1 : Shape) : Statement (.mcfg a0 a1) := one (by decide) (fmx_lt _)
theorem mperm (a0 : BitVec 3) (a1 : CReg) (a2 : SReg) : Statement (.mperm a0 a1 a2) := one (by decide) (fmx_lt _)
theorem mlw (a0 : CReg) (a1 a2 : SReg) : Statement (.mlw a0 a1 a2) := one (by decide) (fmx_lt _)
theorem mst (a0 : Bool) (a1 : TileReg) (a2 : CReg) (a3 a4 : SReg) : Statement (.mst a0 a1 a2 a3 a4) := one (by decide) (fmx_lt _)
theorem mzero (a0 : TileReg) : Statement (.mzero a0) := one (by decide) (fmx_lt _)
theorem mrd (a0 : Ty) (a1 : VReg) (a2 : TileReg) (a3 a4 : SReg) : Statement (.mrd a0 a1 a2 a3 a4) := one (by decide) (fmx_lt _)
theorem mwr (a0 : Ty) (a1 : TileReg) (a2 : VReg) (a3 a4 : SReg) : Statement (.mwr a0 a1 a2 a3 a4) := one (by decide) (fmx_lt _)
theorem mout (a0 : CReg) (a1 : SReg) (a2 : TileReg) (a3 : SReg) : Statement (.mout a0 a1 a2 a3) := one (by decide) (fmx_lt _)
theorem mmaskTree (a0 : TileReg) (a1 : VReg) (a2 a3 : SReg) : Statement (.mmaskTree a0 a1 a2 a3) := one (by decide) (fmx_lt _)
theorem matrixPerform (a0 : Nat) : Statement (.matrixPerform a0) := nofun
theorem batTest (a0 : SReg) : Statement (.batTest a0) := one (by decide) (fmx_lt _)
theorem kvc (a0 : Bool) (a1 : BitVec 5) (a2 : SReg) (a3 a4 : CReg) (a5 a6 a7 : SReg) : Statement (.kvc a0 a1 a2 a3 a4 a5 a6 a7) := one (by decide) (fmx_lt _)
theorem spawn (a0 : Pred) (a1 a2 a3 : SReg) (a4 : CReg) (a5 : BitVec 12) (a6 : BitVec 2) : Statement (.spawn a0 a1 a2 a3 a4 a5 a6) := one (by decide) (ftk_lt _)
theorem spawnRec (a0 : SReg) (a1 : CReg) (a2 : BitVec 12) : Statement (.spawnRec a0 a1 a2) := one (by decide) (ftk_lt _)
theorem tdone (a0 : Pred) : Statement (.tdone a0) := one (by decide) (ftk_lt _)
theorem targ (a0 : Pred) (a1 : SReg) (a2 : BitVec 12) : Statement (.targ a0 a1 a2) := one (by decide) (ftk_lt _)
theorem launch (a0 a1 : SReg) (a2 : CReg) (a3 : BitVec 12) : Statement (.launch a0 a1 a2 a3) := one (by decide) (ftk_lt _)
theorem rinv (a0 a1 : Bool) (a2 a3 : SReg) (a4 : CReg) (a5 : BitVec 12) (a6 a7 : SReg) (a8 : BitVec 2) : Statement (.rinv a0 a1 a2 a3 a4 a5 a6 a7 a8) := one (by decide) (ftk_lt _)
theorem tmark (a0 : W16) (a1 : SReg) : Statement (.tmark a0 a1) := one (by decide) (fsys_lt _)
theorem rdpc (a0 : SReg) : Statement (.rdpc a0) := one (by decide) (fsys_lt _)
theorem taskRetireSignals (a0 : Nat) : Statement (.taskRetireSignals a0) := nofun
theorem stallTimerExpiry (a0 : Nat) : Statement (.stallTimerExpiry a0) := nofun
theorem invokeTake (a0 : Nat) : Statement (.invokeTake a0) := nofun
theorem dispatch (a0 : Nat) : Statement (.dispatch a0) := nofun
theorem hang (a0 : Nat) : Statement (.hang a0) := nofun
theorem trapServiceStart (a0 : Nat) : Statement (.trapServiceStart a0) := nofun
theorem hrdWrite (a0 : SReg) : Statement (.hrdWrite a0) := one (by decide) (fsys_lt _)
theorem hcapWrite (a0 : SReg) : Statement (.hcapWrite a0) := one (by decide) (fsys_lt _)
theorem hexeWrite (a0 : SReg) : Statement (.hexeWrite a0) := one (by decide) (fsys_lt _)
theorem swapOut (a0 : Nat) : Statement (.swapOut a0) := nofun
theorem lightSave (a0 : Nat) : Statement (.lightSave a0) := nofun
theorem preemptTimeout (a0 : Nat) : Statement (.preemptTimeout a0) := nofun
theorem blockRestore (a0 : Nat) : Statement (.blockRestore a0) := nofun
theorem duplexSwitch (a0 : Nat) : Statement (.duplexSwitch a0) := nofun
theorem killQuiescence (a0 : Nat) : Statement (.killQuiescence a0) := nofun
theorem crewKill (a0 : Nat) : Statement (.crewKill a0) := nofun
theorem selfTestDone (a0 : TestUnit) (a1 : TestResult) : Statement (.selfTestDone a0 a1) := nofun
theorem flitCrcFail (a0 : Nat) : Statement (.flitCrcFail a0) := nofun
theorem yardResend (a0 : Nat) : Statement (.yardResend a0) := nofun
theorem failover (a0 : Nat) : Statement (.failover a0) := nofun
theorem wearTick (a0 : Nat) (a1 : List (Nat × Nat)) : Statement (.wearTick a0 a1) := nofun
theorem thermalDerate (a0 : Nat) : Statement (.thermalDerate a0) := nofun
theorem thermalRestore (a0 : Nat) : Statement (.thermalRestore a0) := nofun
theorem bringUp (a0 : BitVec 4) : Statement (.bringUp a0) := nofun
theorem breakpointStop (a0 : Nat) : Statement (.breakpointStop a0) := nofun
theorem stepEnd (a0 : Nat) : Statement (.stepEnd a0) := nofun
theorem unassignedOpcode (a0 : Byte) : Statement (.unassignedOpcode a0) := nofun
theorem fetchFault (a0 : Nat) : Statement (.fetchFault a0) := nofun
theorem hbmChannelResume (a0 : Nat) : Statement (.hbmChannelResume a0) := nofun
theorem nop : Statement .nop := one (by decide) (fsys_lt _)
theorem rgnEnd : Statement .rgnEnd := one (by decide) (fsys_lt _)
theorem gjoin : Statement .gjoin := one (by decide) (fsys_lt _)
theorem sexit : Statement .sexit := one (by decide) (fsys_lt _)
theorem yield : Statement .yield := one (by decide) (fsys_lt _)
theorem free : Statement .free := one (by decide) (fsys_lt _)
theorem tret : Statement .tret := one (by decide) (fsys_lt _)
theorem idle : Statement .idle := one (by decide) (fsys_lt _)
theorem hbrk : Statement .hbrk := one (by decide) (fsys_lt _)
theorem mswap : Statement .mswap := one (by decide) (fmx_lt _)
theorem batTake : Statement .batTake := one (by decide) (fmx_lt _)
theorem batGive : Statement .batGive := one (by decide) (fmx_lt _)
theorem hctlHold : Statement .hctlHold := nofun
theorem hctlMark : Statement .hctlMark := nofun
theorem hctlUnmark : Statement .hctlUnmark := nofun
theorem hctlKill : Statement .hctlKill := nofun
theorem lifetimeRecordWrite : Statement .lifetimeRecordWrite := nofun
theorem thermalShutdown : Statement .thermalShutdown := nofun
theorem railFault : Statement .railFault := nofun
theorem powerDown : Statement .powerDown := nofun
theorem write : Statement .write := nofun
theorem read : Statement .read := nofun
theorem data : Statement .data := nofun
theorem fatm : Statement .fatm := nofun
theorem red : Statement .red := nofun
theorem reductionTreeNode : Statement .reductionTreeNode := nofun
theorem invoke : Statement .invoke := nofun
theorem answer : Statement .answer := nofun
theorem launchMessage : Statement .launchMessage := nofun
theorem inval : Statement .inval := nofun
theorem pageResp : Statement .pageResp := nofun
theorem marker : Statement .marker := nofun
theorem nack : Statement .nack := nofun
theorem barrier : Statement .barrier := nofun
theorem status : Statement .status := nofun
theorem attest : Statement .attest := nofun
theorem regrd : Statement .regrd := nofun
theorem regwr : Statement .regwr := nofun
theorem ctxwr : Statement .ctxwr := nofun
theorem ctxkill : Statement .ctxkill := nofun
theorem resideMake : Statement .resideMake := nofun
theorem resideEnd : Statement .resideEnd := nofun
theorem switch : Statement .switch := nofun
theorem preemptBlock : Statement .preemptBlock := nofun
theorem preemptGrid : Statement .preemptGrid := nofun
theorem preemptContext : Statement .preemptContext := nofun
theorem load : Statement .load := nofun
theorem migrateExport : Statement .migrateExport := nofun
theorem migrateImport : Statement .migrateImport := nofun
theorem vdev : Statement .vdev := nofun
theorem vdresClearResident : Statement .vdresClearResident := nofun
theorem vdresSetResident : Statement .vdresSetResident := nofun
theorem vdresReset : Statement .vdresReset := nofun
theorem vdresSetLog : Statement .vdresSetLog := nofun
theorem redwin : Statement .redwin := nofun
theorem podjoin : Statement .podjoin := nofun
theorem sessionOpen : Statement .sessionOpen := nofun
theorem sessionConfigure : Statement .sessionConfigure := nofun
theorem sessionResetQueue : Statement .sessionResetQueue := nofun
theorem sessionClose : Statement .sessionClose := nofun
theorem debugStop : Statement .debugStop := nofun
theorem debugStep : Statement .debugStep := nofun
theorem debugContinue : Statement .debugContinue := nofun
theorem debugKill : Statement .debugKill := nofun
theorem cutStart : Statement .cutStart := nofun
theorem cutContinue : Statement .cutContinue := nofun
theorem cutEnd : Statement .cutEnd := nofun
theorem replay : Statement .replay := nofun
theorem fwwrite : Statement .fwwrite := nofun
theorem reset : Statement .reset := nofun
theorem mgmtUnknownCode : Statement .mgmtUnknownCode := nofun

end Sys2Proof.Laws.Shape
end

