-- ==== Sys2Proof/Laws/Restore.lean ====
section
/-! SUPPORT. What the plan of a restore can be. -/
namespace Sys2Proof.Laws
open Sys2Proof.Machine

/-- A chosen plan is one of those offered. -/
theorem bestPlan_mem {s : State} {l : List Plan} {p : Plan} (h : bestPlan s l = some p) : p ∈ l := by
  suffices ∀ (l : List Plan) (o : Option Plan), l.foldl (fun (b : Option Plan) x => match b with
      | none => some x
      | some y => if planWear s x < planWear s y then some x else some y) o = some p → p ∈ l ∨ o = some p by
    simpa using this l none h
  intro l
  induction l with
  | nil => intro o h; exact .inr h
  | cons x xs ih =>
    intro o h
    rcases ih _ h with h | h
    · exact .inl (.tail _ h)
    · cases o with
      | none => simp only [Option.some.injEq] at h; exact .inl (h ▸ .head _)
      | some y =>
        simp only at h
        split at h
        · simp only [Option.some.injEq] at h; exact .inl (h ▸ .head _)
        · exact .inr h
/-- The least worn place is one of those offered. -/
theorem leastBlock_mem {s : State} {l : List Block} {b : Block} (h : leastBlock s l = some b) : b ∈ l := by
  suffices ∀ (l : List Block) (o : Option Block), l.foldl (fun (b : Option Block) x => match b with
      | none => some x
      | some y => if blockWear s x < blockWear s y then some x else some y) o = some b → b ∈ l ∨ o = some b by
    simpa using this l none h
  intro l
  induction l with
  | nil => intro o h; exact .inr h
  | cons x xs ih =>
    intro o h
    rcases ih _ h with h | h
    · exact .inl (.tail _ h)
    · cases o with
      | none => simp only [Option.some.injEq] at h; exact .inl (h ▸ .head _)
      | some y =>
        simp only at h
        split at h
        · simp only [Option.some.injEq] at h; exact .inl (h ▸ .head _)
        · exact .inr h
/-- A block that moves keeps its identity and its gangs. -/
theorem movedTo_keeps {s : State} {any : Bool} {m : Home} {dst : Block} (h : movedTo s any m = some dst) :
    dst.id = m.block.id ∧ dst.ngang = m.block.ngang := by
  unfold movedTo at h
  dsimp only at h
  simp only [Option.ite_none_left_eq_some, Option.bind_eq_some_iff] at h
  obtain ⟨-, a, -, c, -, h⟩ := h
  obtain ⟨f, -, rfl⟩ := List.mem_map.mp (List.mem_filter.mp (leastBlock_mem h)).1
  exact ⟨rfl, rfl⟩
/-- A block that is its whole crew comes back by itself, with its own image. -/
theorem restorePlan_alone {s : State} {v : Saved} {p : Plan} (hc : (s.block v.block).crewSize ≤ 1) (h : restorePlan s v = some p) :
    ∃ g dst, savedImage s v = some g ∧ p = [(v, g, dst)] ∧ dst.id = (s.block v.block).id ∧ dst.ngang = (s.block v.block).ngang := by
  have := bestPlan_mem h
  obtain ⟨l, hl, hp⟩ := List.mem_filterMap.mp this
  unfold homesOf at hl
  split at hl
  · cases hl
  · rename_i g hg
    have hs : savedImage s v = some g := by
      split at hg
      · cases hg
      · exact hg
    simp only [asImage, hc, if_true, List.mem_flatMap, List.mem_map] at hl
    obtain ⟨k, -, c, -, rfl⟩ := hl
    simp only [List.mapM_cons, List.mapM_nil, Option.pure_def, Option.bind_eq_bind, Option.bind_some, Option.bind_eq_some_iff, Option.map_eq_some_iff,
      Option.some.injEq] at hp
    obtain ⟨_, ⟨dst, hd, rfl⟩, rfl⟩ := hp
    exact ⟨g, dst, hs, rfl, movedTo_keeps hd⟩

end Sys2Proof.Laws
end

