-- ==== Sys2Proof/Laws/Tree.lean ====
section
/-! SUPPORT. What a node of a reduction tree does with a contribution or a sum, whatever the tree's switches (17 R294). -/
namespace Sys2Proof.Machine

/-- A member is a child of its own switch. -/
theorem childAt_self (n : W16) (p : List Nat) : childAt n p p = some (true, n.toNat) := by
  induction p with
  | nil => rfl
  | cons a p ih => simpa [childAt] using ih

/-- Two members' values are added, the first one's first. -/
theorem childSum_pair (a b : W32) : childSum [a, b] = redAdd a b := rfl

/-- The contributions for one cell and index that stand at a node. -/
def standing (s : State) (h : TreeHeld) : List TreeHeld := (atNode s h).filter (sameCell · h)
/-- The sum of a node's children, as it goes on. -/
def nodeSum (h : TreeHeld) (ks : List TreeHeld) : TreeHeld :=
  { h with value := childSum (ks.map TreeHeld.value), msgs := ks.flatMap TreeHeld.msgs, whole := true }
/-- The state in which what stood at a node has been added up. -/
def nodeCleared (s : State) (h : TreeHeld) : State := { s with tree := s.tree.filter fun x => !(standing s h ++ [h]).contains x }

@[simp] theorem atNode_empty {s : State} (h : TreeHeld) (e : s.tree = []) : atNode s h = [] := by simp [atNode, e]
theorem nodeFull_empty {s : State} (h : TreeHeld) (e : atNode s h = []) : nodeFull s h = false := by simp [nodeFull, e]

/-- While a child has not come, the contribution waits at its node. -/
theorem nodeTake_waits {w : RedWin} {m : Msg} {n : Nat} {s : State} {h : TreeHeld}
    (hk : ((w.children h.node).map fun c => (standing s h ++ [h]).find? fun x => x.child == c).any Option.isNone = true) :
    nodeTake w m (n + 1) s h = { s with tree := s.tree ++ [h] } := by
  unfold nodeTake
  simp only [standing] at hk
  simp only [hk, if_true]

/-- With the last child, the root sends the sum to the home, and another node gives it to the next one, or asks again while that one
has no room. -/
theorem nodeTake_whole {w : RedWin} {m : Msg} {n : Nat} {s : State} {h : TreeHeld} {ks : List TreeHeld}
    (hk : (w.children h.node).map (fun c => (standing s h ++ [h]).find? fun x => x.child == c) = ks.map some) :
    nodeTake w m (n + 1) s h =
      let t := nodeCleared s h
      let sum := nodeSum h ks
      if h.node.isEmpty then ({ t with tree := t.tree ++ [{ sum with summed := true }] }).send (mergedMsg s m h.off h.index sum.value)
      else if nodeFull t sum.up then hopRefused { t with tree := t.tree ++ [sum] } (climbMsg s m sum) backoff
      else nodeTake w m n t sum.up := by
  rw [nodeTake]
  simp only [standing] at hk
  have h1 : ((ks.map some).any Option.isNone) = false := by simp
  have h2 : (ks.map some).filterMap id = ks := by simp
  simp only [hk, h1, h2, nodeCleared, nodeSum, standing]
  rfl

end Sys2Proof.Machine
end

