-- ==== Sys2Proof/Tests/Slice0.lean ====
section
/-! SUPPORT. Small checks of the model: words of the manual and their decoding, ill-formed instructions, values at reset, single
steps, and for every set of hypotheses of the claims a state and operands that meet it. -/
set_option Elab.async false
namespace Sys2Proof.Tests
open Sys2Proof.Machine Sys2Proof.Claims

/-! ### A small state -/

/-- One slice, of identity 1, alone in its block on paddock 0, about to issue, with a word where it fetches. -/
def one : State := { State.reset.withFetchWord 64 0 with group := [1], agenda := [] }
/-- As `one`, with an update of its slice. -/
def at1 (f : Slice → Slice) : State := one.mapSlices f
/-- Slice 1 issues alone, and nothing traps before the instruction. -/
abbrev Goes (i : Instr) (s : State) : Prop := (s.group = [1] ∧ s.has 1) ∧ ∀ id ∈ s.group, issueTrap i s (s.slice id) = none
/-- What a decoding answers, as data that can be compared. -/
def answered (r : Except Nat Instr) : Option Nat × Option Instr := match r with
  | .ok i => (none, some i)
  | .error n => (some n, none)
theorem answered_error {r : Except Nat Instr} {n : Nat} (h : answered r = (some n, none)) : r = .error n := by
  cases r <;> simp_all [answered]
theorem answered_ok {r : Except Nat Instr} {i : Instr} (h : answered r = (none, some i)) : r = .ok i := by
  cases r <;> simp_all [answered]
theorem goes {i : Instr} {s : State} (h : Goes i s) : Alone s 1 ∧ Clear i s := h
/-- `one` with a trap handler in its context. -/
def trp : State := one.updCtx 0 fun c => c.setFld 0x28 8 0x20010
/-- `one` with its slice waiting. -/
def waits (w : Wait) : State := at1 fun x => { x with run := .waiting w }

/-- 04 R88-R103: branches, loops, regions, groups, special registers, format, allotment, system. -/
def wordsControl : List (Nat × Instr) := [
  (0x0000000000000000, .nop), (0xFFFFFE4200B00100, .br .ne 11 0 (-7)), (0x02 <<< 8 + 3 <<< 20 + 4 <<< 26 + 3 <<< 32 + 5 <<< 38, .brS .lt 3 4 5),
    (0x03 <<< 8 + 2 <<< 20 + 9 <<< 38, .brKz 2 9), (0x04 <<< 8 + 7 <<< 20 + 0x3FFFFFF <<< 38, .brKnz 7 (-1)),
    (0x05 <<< 8 + 1 <<< 20 + 3 <<< 38, .brKf 1 3), (0x06 <<< 8 + 63 <<< 20 + 16 <<< 38, .call 63 16), (0x07 <<< 8 + 63 <<< 20, .ret 63),
    (0x0000018000900800, .loop false 9 6), (0x0000008000300900, .loopi false 3 2), (0x0000005000200900, .loopi true 2 1),
    (0x0A <<< 8 + 5 <<< 20 + 6 <<< 28, .rgn 5 6), (0x0A <<< 8 + 1 <<< 36, .rgnEnd), (0x0000000000000B00, .gjoin), (0x0000000000000C00, .exit {}),
    (0x0C <<< 8 + 3 <<< 16 + 1 <<< 19, .exit ⟨3, true⟩), (0x0D <<< 8, .sexit), (0x0E <<< 8, .yield), (0x0000010000101000, .rdsr 1 0x001),
    (0x0000001000101000, .rdsrV {} 1 0x000), (0x11 <<< 8 + 275 <<< 40 + 4 <<< 28, .wrsr 0x113 4), (0x11 <<< 8 + 14 <<< 40 + 4 <<< 28, .frWrite 4),
    (0x00000F0000001100, .lfmWrite 0), (0x11 <<< 8 + 18 <<< 40 + 7 <<< 28, .lcWrite false 7),
    (0x11 <<< 8 + 19 <<< 40 + 7 <<< 28, .lcWrite true 7), (0x11 <<< 8 + 277 <<< 40 + 3 <<< 28, .hrdWrite 3),
    (0x11 <<< 8 + 278 <<< 40 + 3 <<< 28, .hcapWrite 3), (0x11 <<< 8 + 279 <<< 40 + 3 <<< 28, .hexeWrite 3),
    (0x12 <<< 8 + 17 <<< 40, .fmt 0x000011), (0x13 <<< 8 + 96 <<< 40, .alloc 96), (0x14 <<< 8, .free), (0x18 <<< 8 + 7 <<< 40, .trap 7),
    (0x19 <<< 8, .tret), (0x1A <<< 8 + 2 <<< 40, .sysc 2), (0x1B <<< 8, .idle), (0x1C <<< 8, .hbrk)]
theorem test_decode_control : (wordsControl.all fun p => decide (decodeTableWord 64 p.1 = some p.2)) = true := by decide +kernel

/-- 04 R81-R87: scalars, masks, capabilities. -/
def wordsScalar : List (Nat × Instr) := [
  (0x0000000410702000, .sadd 7 4 (.reg 4)), (0x0000C00014502000, .sadd 5 5 (.imm 1)),
    (0x21 <<< 8 + 1 <<< 20 + 2 <<< 26 + 1 <<< 46 + 0x1FFFF <<< 47, .ssub 1 2 (.imm (-1))),
    (0x22 <<< 8 + 1 <<< 20 + 2 <<< 26 + 3 <<< 32, .smul 1 2 (.reg 3)),
    (0x23 <<< 8 + 1 <<< 20 + 2 <<< 26 + 3 <<< 32 + 8 <<< 38, .smulh true 1 2 (.reg 3)),
    (0x24 <<< 8 + 1 <<< 20 + 2 <<< 26 + 3 <<< 32 + 4 <<< 38, .sdiv false 1 2 (.reg 3)),
    (0x25 <<< 8 + 1 <<< 20 + 2 <<< 26 + 8 <<< 38 + 1 <<< 46 + 9 <<< 47, .srem true 1 2 (.imm 9)),
    (0x26 <<< 8 + 1 <<< 20 + 2 <<< 26 + 3 <<< 32, .sand 1 2 (.reg 3)), (0x27 <<< 8 + 1 <<< 20 + 2 <<< 26 + 3 <<< 32, .sor 1 2 (.reg 3)),
    (0x28 <<< 8 + 1 <<< 20 + 2 <<< 26 + 3 <<< 32, .sxor 1 2 (.reg 3)), (0x0000000C04202900, .sshl 2 1 (.reg 12)),
    (0x2A <<< 8 + 1 <<< 20 + 2 <<< 26 + 3 <<< 32, .sshr 1 2 (.reg 3)), (0x2B <<< 8 + 1 <<< 20 + 2 <<< 26 + 3 <<< 32, .ssra 1 2 (.reg 3)),
    (0x2C <<< 8 + 1 <<< 20 + 2 <<< 26 + 3 <<< 32 + 8 <<< 38, .smin true 1 2 (.reg 3)),
    (0x2D <<< 8 + 1 <<< 20 + 2 <<< 26 + 3 <<< 32 + 4 <<< 38, .smax false 1 2 (.reg 3)),
    (0x2E <<< 8 + 1 <<< 20 + 2 <<< 26 + 3 <<< 32 + 4 <<< 38 + 5 <<< 42, .scmp .le false 1 2 (.reg 3)),
    (0x2F <<< 8 + 1 <<< 20 + 2 <<< 26 + 3 <<< 32, .ssel 1 2 3), (0x30 <<< 8 + 1 <<< 20 + 2 <<< 26, .smov 1 2), (0x0000000400C03100, .sli 12 4),
    (0x32 <<< 8 + 0xDEADBEEF <<< 32 + 12 <<< 20, .slih 12 0xDEADBEEF), (0x33 <<< 8 + 1 <<< 20 + 2 <<< 26 + 6 <<< 38, .sext .i16 1 2),
    (0x34 <<< 8 + 1 <<< 20 + 2 <<< 26 + 8 <<< 38 + 1 <<< 46 + 453 <<< 47, .sbfe true 1 2 5 7),
    (0x35 <<< 8 + 1 <<< 20 + 2 <<< 26 + 1 <<< 46 + 453 <<< 47, .sbfi 1 2 5 7), (0x36 <<< 8 + 1 <<< 20 + 2 <<< 26, .spopc 1 2),
    (0x37 <<< 8 + 1 <<< 20 + 2 <<< 26, .sclz 1 2), (0x40 <<< 8 + 1 <<< 20 + 2 <<< 26 + 3 <<< 32, .kand 1 2 3),
    (0x41 <<< 8 + 1 <<< 20 + 2 <<< 26 + 3 <<< 32, .kor 1 2 3), (0x42 <<< 8 + 1 <<< 20 + 2 <<< 26 + 3 <<< 32, .kxor 1 2 3),
    (0x43 <<< 8 + 1 <<< 20 + 2 <<< 26 + 3 <<< 32, .kandn 1 2 3), (0x44 <<< 8 + 1 <<< 20 + 2 <<< 26, .knot 1 2),
    (0x45 <<< 8 + 1 <<< 20 + 2 <<< 26, .kmov 1 2), (0x45 <<< 8 + 1 <<< 20 + 1 <<< 46 + 0x1FFFF <<< 47, .kmovImm 1 (-1)),
    (0x45 <<< 8 + 1 <<< 20 + 40 <<< 26 + 1 <<< 42, .kmovFromScalar 1 40), (0x45 <<< 8 + 40 <<< 20 + 2 <<< 26 + 2 <<< 42, .kmovToScalar 40 2),
    (0x46 <<< 8 + 40 <<< 20 + 2 <<< 26, .kpopc 40 2), (0x47 <<< 8 + 40 <<< 20 + 2 <<< 26, .kfirst 40 2),
    (0x48 <<< 8 + 1 <<< 20 + 2 <<< 26 + 3 <<< 32, .cset 1 2 (.reg 3)),
    (0x49 <<< 8 + 1 <<< 20 + 2 <<< 26 + 1 <<< 46 + 16 <<< 47, .coff 1 2 (.imm 16)),
    (0x4A <<< 8 + 1 <<< 20 + 2 <<< 26 + 1 <<< 46 + 3 <<< 47, .cperm 1 2 (.imm 3)), (0x4B <<< 8 + 40 <<< 20 + 9 <<< 26, .cgetBase 40 9),
    (0x4B <<< 8 + 40 <<< 20 + 9 <<< 26 + 1 <<< 42, .cgetLen 40 9), (0x4B <<< 8 + 40 <<< 20 + 9 <<< 26 + 2 <<< 42, .cgetGran 40 9),
    (0x4B <<< 8 + 40 <<< 20 + 9 <<< 26 + 3 <<< 42, .cgetSpace 40 9), (0x4B <<< 8 + 40 <<< 20 + 9 <<< 26 + 4 <<< 42, .cgetPerm 40 9),
    (0x4C <<< 8 + 40 <<< 20 + 9 <<< 26, .ctag 40 9), (0x4D <<< 8 + 10 <<< 20 + 9 <<< 26, .cmov 10 9)]
theorem test_decode_scalar : (wordsScalar.all fun p => decide (decodeTableWord 64 p.1 = some p.2)) = true := by decide +kernel

/-- 05 R105-R122: lanes, immediates, conversions. -/
def wordsVector : List (Nat × Instr) := [
  (0x50 <<< 8 + 1 <<< 20 + 2 <<< 28 + 3 <<< 36 + 3 <<< 56, .vadd {} .n32 1 2 3),
    (0x51 <<< 8 + 1 <<< 20 + 2 <<< 28 + 3 <<< 36 + 3 <<< 56, .vsub {} .n32 1 2 3),
    (0x52 <<< 8 + 1 <<< 20 + 2 <<< 28 + 3 <<< 36 + 3 <<< 56, .vmul {} .n32 1 2 3),
    (0x53 <<< 8 + 1 <<< 20 + 2 <<< 28 + 3 <<< 36 + 3 <<< 56, .vmulh {} .n32 1 2 3),
    (0x54 <<< 8 + 1 <<< 20 + 2 <<< 28 + 3 <<< 36 + 4 <<< 44 + 6 <<< 56, .vmad {} .i16 1 2 3 4),
    (0x55 <<< 8 + 1 <<< 20 + 2 <<< 28 + 3 <<< 36, .vand {} 1 2 3), (0x56 <<< 8 + 1 <<< 20 + 2 <<< 28 + 3 <<< 36, .vor {} 1 2 3),
    (0x57 <<< 8 + 1 <<< 20 + 2 <<< 28 + 3 <<< 36, .vxor {} 1 2 3), (0x58 <<< 8 + 1 <<< 20 + 2 <<< 28 + 3 <<< 36 + 1 <<< 56, .vshl {} .n8 1 2 3),
    (0x59 <<< 8 + 1 <<< 20 + 2 <<< 28 + 3 <<< 36 + 2 <<< 56, .vshr {} .n16 1 2 3),
    (0x5A <<< 8 + 1 <<< 20 + 2 <<< 28 + 3 <<< 36 + 7 <<< 56, .vsra {} .i32 1 2 3),
    (0x5B <<< 8 + 1 <<< 20 + 2 <<< 28 + 3 <<< 36 + 5 <<< 56, .vmin {} .i8 1 2 3),
    (0x5C <<< 8 + 1 <<< 20 + 2 <<< 28 + 3 <<< 36 + 3 <<< 56, .vmax {} .n32 1 2 3),
    (0x5D <<< 8 + 1 <<< 20 + 2 <<< 28 + 7 <<< 56, .vabs {} .i32 1 2), (0x5E <<< 8 + 1 <<< 20 + 2 <<< 28 + 5 <<< 56, .vneg {} .i8 1 2),
    (0x3300108050005F00, .vcmp {} .lt .n32 1 5 8), (0x00003141D1406000, .vsel {} 20 29 20 3),
    (0x61 <<< 8 + 2 <<< 16 + 1 <<< 19 + 1 <<< 20 + 2 <<< 28, .vmov ⟨2, true⟩ 1 2),
    (0x62 <<< 8 + 1 <<< 20 + 0x3F800 <<< 36 + 9 <<< 56, .vli {} .f32 1 0x3F800),
    (0x63 <<< 8 + 1 <<< 20 + 63 <<< 28 + 2 <<< 56, .vbcast {} .n16 1 63), (0x64 <<< 8 + 1 <<< 20 + 2 <<< 28 + 3 <<< 56, .vclz {} .n32 1 2),
    (0x65 <<< 8 + 1 <<< 20 + 2 <<< 28 + 1 <<< 56, .vpopc {} .n8 1 2),
    (0x66 <<< 8 + 1 <<< 20 + 2 <<< 28 + 3 <<< 36 + 4 <<< 44 + 7 <<< 56, .vbfe {} .i32 1 2 3 4),
    (0x67 <<< 8 + 1 <<< 20 + 2 <<< 28 + 3 <<< 36 + 9 <<< 56, .vfadd {} .f32 1 2 3),
    (0x68 <<< 8 + 1 <<< 20 + 2 <<< 28 + 3 <<< 36 + 9 <<< 56, .vfsub {} .f32 1 2 3),
    (0x69 <<< 8 + 1 <<< 20 + 2 <<< 28 + 3 <<< 36 + 9 <<< 56, .vfmul {} .f32 1 2 3), (0x0900603030616A00, .vfma ⟨1, false⟩ .f32 6 3 3 6),
    (0x6B <<< 8 + 1 <<< 20 + 2 <<< 28 + 3 <<< 36 + 11 <<< 56, .vfmin {} .bf16 1 2 3),
    (0x6C <<< 8 + 1 <<< 20 + 2 <<< 28 + 3 <<< 36 + 11 <<< 56, .vfmax {} .bf16 1 2 3),
    (0x6D <<< 8 + 1 <<< 20 + 2 <<< 28 + 10 <<< 56, .vfabs {} .f16 1 2), (0x6E <<< 8 + 1 <<< 20 + 2 <<< 28 + 10 <<< 56, .vfneg {} .f16 1 2),
    (0x70 <<< 8 + 1 <<< 20 + 2 <<< 28 + 10 <<< 56, .vfcls {} .f16 1 2), (0x71 <<< 8 + 1 <<< 20 + 2 <<< 28 + 10 <<< 56, .vrcp {} .f16 1 2),
    (0x72 <<< 8 + 1 <<< 20 + 2 <<< 28 + 10 <<< 56, .vrsq {} .f16 1 2), (0x73 <<< 8 + 1 <<< 20 + 2 <<< 28 + 10 <<< 56, .vexp2 {} .f16 1 2),
    (0x74 <<< 8 + 1 <<< 20 + 2 <<< 28 + 10 <<< 56, .vlog2 {} .f16 1 2),
    (0x6F <<< 8 + 7 <<< 60 + 9 <<< 56 + 1 <<< 44 + 2 <<< 28 + 3 <<< 36, .vfcmp {} .uo .f32 1 2 3),
    (0x09A0000020317500, .vcvt ⟨1, false⟩ .f32 .f16 3 2),
    (0x76 <<< 8 + 10 <<< 56 + 9 <<< 52 + 1 <<< 20 + 2 <<< 28 + 3 <<< 36, .vpack {} .f16 .f32 1 2 3),
    (0x77 <<< 8 + 9 <<< 56 + 11 <<< 52 + 1 <<< 20 + 2 <<< 28 + 1 <<< 60, .vunpack {} .f32 .bf16 1 2 true),
    (0x78 <<< 8 + 13 <<< 56 + 9 <<< 52 + 1 <<< 20 + 2 <<< 28 + 3 <<< 36, .vqb .fb5 1 2 3),
    (0x79 <<< 8 + 9 <<< 56 + 12 <<< 52 + 1 <<< 20 + 2 <<< 28, .vdqb {} .fb8 1 2 false), (0x0300040040408300, .vaddImm {} .n32 4 4 64),
    (0x84 <<< 8 + 1 <<< 20 + 2 <<< 28 + 0xFFFFD <<< 36 + 7 <<< 56, .vmulImm {} .i32 1 2 (-3)),
    (0x85 <<< 8 + 1 <<< 20 + 2 <<< 28 + 255 <<< 36, .vandImm {} 1 2 0xFF), (0x86 <<< 8 + 1 <<< 20 + 2 <<< 28 + 255 <<< 36, .vorImm {} 1 2 0xFF),
    (0x87 <<< 8 + 1 <<< 20 + 2 <<< 28 + 255 <<< 36, .vxorImm {} 1 2 0xFF),
    (0x88 <<< 8 + 1 <<< 20 + 2 <<< 28 + 5 <<< 36 + 3 <<< 56, .vshlImm {} .n32 1 2 5),
    (0x89 <<< 8 + 1 <<< 20 + 2 <<< 28 + 5 <<< 36 + 2 <<< 56, .vshrImm {} .n16 1 2 5),
    (0x8A <<< 8 + 1 <<< 20 + 2 <<< 28 + 5 <<< 36 + 6 <<< 56, .vsraImm {} .i16 1 2 5),
    (0x8B <<< 8 + 1 <<< 20 + 2 <<< 28 + 5 <<< 36 + 5 <<< 56, .vminImm {} .i8 1 2 5),
    (0x8C <<< 8 + 1 <<< 20 + 2 <<< 28 + 5 <<< 36 + 1 <<< 56, .vmaxImm {} .n8 1 2 5),
    (0x8D <<< 8 + 3 <<< 20 + 2 <<< 28 + 5 <<< 36 + 7 <<< 56 + 4 <<< 60, .vcmpImm {} .ge .i32 3 2 5),
    (0x8E <<< 8 + 1 <<< 20 + 2 <<< 28 + 0x40000 <<< 36 + 9 <<< 56, .vfaddImm {} .f32 1 2 0x40000),
    (0x8F <<< 8 + 1 <<< 20 + 2 <<< 28 + 0x40000 <<< 36 + 11 <<< 56, .vfmulImm {} .bf16 1 2 0x40000)]
theorem test_decode_vector : (wordsVector.all fun p => decide (decodeTableWord 64 p.1 = some p.2)) = true := by decide +kernel

/-- 05 R125-R127, 08 R154: cross-lane and execute-vector words. -/
def wordsCross : List (Nat × Instr) := [
  (0x8000102030407A00, .shf {} true 4 1 3 2), (0x7B <<< 8 + 1 <<< 44 + 2 <<< 36 + 3 <<< 28 + 4 <<< 20, .shfUp {} false 4 1 3 2),
    (0x7C <<< 8 + 1 <<< 44 + 2 <<< 36 + 3 <<< 28 + 4 <<< 20, .shfDn {} false 4 1 3 2),
    (0x7D <<< 8 + 1 <<< 44 + 2 <<< 36 + 3 <<< 28 + 4 <<< 20, .shfX {} false 4 1 3 2),
    (0x7E <<< 8 + 8 <<< 60 + 1 <<< 28 + 4 <<< 20, .voteAny {} true 4 1), (0x7F <<< 8 + 8 <<< 60 + 1 <<< 28 + 4 <<< 20, .voteAll {} true 4 1),
    (0x80 <<< 8 + 8 <<< 60 + 1 <<< 28 + 4 <<< 20, .voteBal {} true 4 1),
    (0x81 <<< 8 + 7 <<< 56 + 2 <<< 60 + 1 <<< 20 + 2 <<< 28, .vred {} false .max .i32 1 2),
    (0x82 <<< 8 + 9 <<< 56 + 8 <<< 60 + 1 <<< 20 + 2 <<< 28, .vscan {} true .add .f32 1 2), (0x0000009101409000, .xvStep true 20 16 1),
    (0x0000003101409000, .xvStep false 20 16 3), (0x00000A1101509100, .xvRun false 21 16 1 10), (0x0000000000509200, .xvLdk 5),
    (0x93 <<< 8 + 2 <<< 36, .xvClr 2), (0x0000002000909400, .xvPush false 9 2), (0x95 <<< 8 + 9 <<< 20 + 2 <<< 36 + 1 <<< 39, .xvPop true 9 2),
    (0x96 <<< 8 + 9 <<< 20, .xvDep 9), (0x0000000000609700, .xvStat 6), (0x1403440000009800, .xvSave 13 4 0x500),
    (0x99 <<< 8 + 13 <<< 46 + 4 <<< 40 + 0x3FFF <<< 50, .xvLoad 13 4 (-1))]
theorem test_decode_cross : (wordsCross.all fun p => decide (decodeTableWord 64 p.1 = some p.2)) = true := by decide +kernel

/-- 11 R189-R210: loads, stores, copies, atomics, barriers. -/
def wordsMemory : List (Nat × Instr) := [
  (0x01000D02E060A000, .ld .plain .core .n32 6 14 (.scalar 2) 0x20), (0x08004C00D060A000, .ld .acq .core .n32 6 13 .none 0x100),
    (0x00001115D0D0A100, .st .plain .core .n64 13 13 (.scalar 21) 0),
    (0xA2 <<< 8 + 3 <<< 20 + 4 <<< 28 + 3 <<< 46 + 2 <<< 48 + 0x1FF0 <<< 51, .ldc .rmt .die 3 4 .none (-16)),
    (0xA3 <<< 8 + 3 <<< 20 + 4 <<< 28 + 2 <<< 46 + 4 <<< 48 + 16 <<< 51, .stc .rel .pod 3 4 .none 16),
    (0x00000A04D021A400, .ldV ⟨1, false⟩ .n16 2 13 (.vector 4) 0), (0x00000A04D021A500, .stV ⟨1, false⟩ .n16 2 13 (.vector 4) 0),
    (0x000080000000B000, .fence .rel .core), (0x0000706061D0A800, .cpy ⟨0, .core, 0, 7, 1, 13⟩ 6 6),
    (0xA9 <<< 8 + 2 <<< 20 + 1 <<< 24 + 5 <<< 28 + 4 <<< 36 + 60 <<< 44 + 17 <<< 50 + 3 <<< 55 + 35 <<< 58, .cpy2d ⟨35, .pkg, 17, 60, 1, 2⟩ 4 5),
    (0x000070A141D1AA00, .cpyG ⟨1, false⟩ ⟨0, .core, 0, 7, 1, 13⟩ 10 20),
    (0xAB <<< 8 + 13 <<< 20 + 1 <<< 24 + 200 <<< 28 + 10 <<< 36 + 7 <<< 44 + 3 <<< 50 + 1 <<< 55 + 63 <<< 58, .cpyS {} ⟨63, .quad, 3, 7, 1, 13⟩ 10 200),
    (0x000080000000AC00, .cpyCommit 8), (0x000080000000AD00, .cpyWait 8), (0x8D0090000000B100, .qfence 35 .die 0 9),
    (0x0C3C1904D050C000, .atm {} .cas .acq .core .n32 5 13 (.scalar 4) 6),
    (0xC1 <<< 8 + 4 <<< 58 + 3 <<< 42 + 2 <<< 28 + 1 <<< 20, .atmBinc {} .plain .core .n64 1 2 .none 3),
    (0xC2 <<< 8 + 2 <<< 16 + 3 <<< 58 + 2 <<< 55 + 2 <<< 53 + 3 <<< 42 + 2 <<< 40 + 9 <<< 32 + 2 <<< 28 + 1 <<< 20, .atmWinc ⟨2, false⟩ .rel .die .n32 1 2 (.vector 9) 3),
    (0xC3 <<< 8 + 8 <<< 58 + 2 <<< 28 + 1 <<< 20, .atmCdec {} .plain .core .i64 1 2 .none),
    (0xC4 <<< 8 + 4 <<< 58 + 3 <<< 42 + 2 <<< 28 + 1 <<< 20, .atmFaddl .plain .core 1 2 .none 3),
    (0x100014001060C500, .fat .plain .core .n64 6 1 .none 5),
    (0xC6 <<< 8 + 9 <<< 58 + 4 <<< 55 + 2 <<< 53 + 5 <<< 42 + 1 <<< 40 + 2 <<< 32 + 1 <<< 28 + 6 <<< 20, .redF .rel .pod 6 1 (.scalar 2) 5),
    (0x000003100000C800, .barArr .quad 3), (0xC9 <<< 8 + 4 <<< 36 + 1 <<< 40, .barWait .pod 1), (0x000002007000CA00, .bbExp 2 7),
    (0xCB <<< 8 + 2 <<< 40 + 5 <<< 20, .bbArr 5 2), (0xCB <<< 8 + 2 <<< 40 + 5 <<< 20 + 1 <<< 36, .bbArrDecl 5 2),
    (0xCB <<< 8 + 2 <<< 40 + 5 <<< 20 + 2 <<< 36, .bbArrLeave 5 2), (0xCC <<< 8 + 2 <<< 40 + 7 <<< 28, .bbWait 2 7)]
theorem test_decode_memory : (wordsMemory.all fun p => decide (decodeTableWord 64 p.1 = some p.2)) = true := by decide +kernel

/-- 15 R256, 14 R246-R249, 16 R275, 17 R285-R288, 22 R353: matrix, tasks, marks. -/
def wordsMatrix : List (Nat × Instr) := [
  (0x800000000030D000, .mcfg true .quad), (0x000000000020D000, .mcfg false .pairV), (0x000004000D30D100, .mperm 3 13 4),
    (0x000600000D00D200, .mlw 13 0 24), (0xD3 <<< 8, .mswap), (0x800643000D00D400, .mst true 0 13 3 25), (0x000000000010D500, .mzero 1),
    (0x000005289000D600, .mrd .f32 40 0 5 0), (0x0000060CB020D700, .mwr .bf16 2 12 6 0), (0x000646000D00D800, .mout 13 6 0 25),
    (0x00001A090000D900, .mmaskTree 0 9 26 0), (0x000000000000DA00, .batTake), (0xDB <<< 8, .batGive), (0x000009000000DC00, .batTest 9),
    (0x00C69F101500DD00, .kvc false 0 31 5 1 26 12 16), (0x0200D0061090E000, .spawn {} 9 4 6 13 32 0),
    (0xE1 <<< 8 + 6 <<< 26 + 13 <<< 44 + 64 <<< 52, .spawnRec 6 13 0x40), (0x000000000000E200, .tdone {}), (0x004000000020E300, .targ {} 2 4),
    (0xE4 <<< 8 + 5 <<< 20 + 6 <<< 26 + 13 <<< 44 + 32 <<< 52, .launch 5 6 13 0x20),
    (0x0200D58D30B0E500, .rinv false false 11 12 13 0x20 13 22 0),
    (0xE5 <<< 8 + 1 <<< 20 + 2 <<< 26 + 3 <<< 44 + 4 <<< 32 + 5 <<< 38 + 1 <<< 51 + 1 <<< 50 + 3 <<< 48, .rinv true true 1 2 3 0 4 5 3),
    (0xE8 <<< 8 + 0xBEEF <<< 40 + 9 <<< 28, .tmark 0xBEEF 9), (0xE9 <<< 8 + 9 <<< 20, .rdpc 9)]
theorem test_decode_matrix : (wordsMatrix.all fun p => decide (decodeTableWord 64 p.1 = some p.2)) = true := by decide +kernel

/-! ### What the claims of the arithmetic, control and system families ask for -/

/-- The registers of every slice of the group are read and written without a trap. -/
theorem wit_register_words : ∀ p ∈ wordsScalar ++ wordsVector ++ wordsCross, Goes p.2 one := by decide +kernel

/-! ### What the claims of the arithmetic families ask for -/

theorem wit_scalar_types : (Ty.n8 ∈ [Ty.n8, .n16, .n32]) ∧ (Ty.n32 ∈ [Ty.n8, .n16, .n32]) ∧
    (63 : BitVec 6).toNat + ((0 : BitVec 6).toNat + 1) ≤ 64 ∧ (0 : BitVec 6).toNat + ((63 : BitVec 6).toNat + 1) ≤ 64 := by decide
theorem wit_vector_types : intTy .n8 ∧ intTy .i32 ∧ Ty.i8.signed = true ∧ Ty.f16 ∈ [Ty.f32, .f16, .bf16] ∧ (Ty.f16.width = 16 ∧ Ty.i32.width = 32) ∧
    (Ty.n8.width = 8 ∧ Ty.i16.width = 16) ∧ (Ty.f32.width = 32 ∧ Ty.bf16.width = 16) ∧ (Ty.i16.width = 16 ∧ Ty.n8.width = 8) := by
  unfold intTy; decide
/-- A capability of 64 bytes with every permission, in `c2`. -/
def cap64 : Cap := Cap.mk' 2 4 0x7FF 0x100 4
theorem wit_capability_derivation : let s := at1 fun x => x.wc 2 cap64
    (∀ id ∈ s.group, ((s.slice id).rc 2).tag = true ∧ ((s.slice id).rc 2).has pD = true) ∧
    (∀ id ∈ s.group, ((s.slice id).rb (.imm 64)).toNat % 2 ^ ((s.slice id).rc 2).gran = 0 ∧ ((s.slice id).rb (.imm 64)).toNat ≤ ((s.slice id).rc 2).len) ∧
    Goes (.cperm 1 2 (.imm 3)) s ∧ Goes (.cset 1 2 (.imm 64)) s ∧ Goes (.coff 1 2 (.imm 64)) s := by decide +kernel
theorem wit_derivation_traps : ∀ i ∈ [Instr.cset 3 2 (.imm (-16)), .coff 3 2 (.imm (-16)), .cperm 3 2 (.imm (-16))],
    ∀ c ∈ [{ cap64 with tag := false }, Cap.mk' 2 4 0 0x100 4, cap64], let s := at1 fun x => x.wc 2 c
    s.group = [1] ∧ (issueTrap i s (s.slice 1)).isNone = true ∧ (s.slice 1).rc 2 = c ∧ c.len < ((s.slice 1).rb (.imm (-16))).toNat := by decide +kernel
theorem wit_derivation_granule : ¬2 ^ cap64.gran ∣ (8 : W64).toNat ∧ ¬cap64.len < (8 : W64).toNat ∧ cap64.tag = true ∧ cap64.has pD = true ∧
    (Cap.mk' 2 4 0 0x100 4).has pD = false := by decide
/-- Accesses that fail: the scalar ones by the tag, and lanes 7 and 9, of which lane 9 is out of bounds, of the per-lane ones. -/
theorem wit_failed_accesses : (∀ i ∈ [Instr.ld .plain .core .n32 3 2 (.scalar 5) 0, .st .plain .core .n32 3 2 (.scalar 5) 0, .ldc .plain .core 3 2 (.scalar 5) 0,
      .stc .plain .core 3 2 (.scalar 5) 0, .atm {} .add .plain .core .n32 3 2 (.scalar 5) 0], let s := at1 fun x => x.wc 2 { cap64 with tag := false }
      s.group = [1] ∧ (issueTrap i s (s.slice 1)).isNone = true ∧ ∀ perms ∈ [[pL], [pS], [pW], [pA]], ∀ m ∈ [4, 16], ∀ spaces ∈ [[1, 2, 3], [1, 2]],
        capCheck s (s.slice 1) ((s.slice 1).rc 2) spaces perms (addrS (s.slice 1) ((s.slice 1).rc 2) (.scalar 5) 0) m m = some tCAPTAG) ∧
    (∀ i ∈ [Instr.ldV {} .n32 3 2 (.vector 4) 0, .stV {} .n32 3 2 (.vector 4) 0, .atm {} .add .plain .core .n32 3 2 (.vector 4) 0],
      let s := at1 fun x => (x.wc 2 cap64).wv 4 (-1) fun l => if l = 7 then 2 else if l = 9 then 99 else 0
      s.group = [1] ∧ (issueTrap i s (s.slice 1)).isNone = true ∧ ∀ perms ∈ [[pL], [pS], [pA, pL]],
        (List.range 32).filterMap (fun l => (capCheck s (s.slice 1) ((s.slice 1).rc 2) [1, 2] perms (addrV (s.slice 1) ((s.slice 1).rc 2) (.vector 4) 0 l 4) 4 4).map
          fun code => (l, code)) = [(7, tALIGN), (9, tCAPBND)]) := by decide +kernel
/-- A mask that is empty, and one that is not. -/
theorem wit_empty_mask : ((at1 fun x => { x with k := [] }).slice 1).rk 0 = 0 ∧ (one.slice 1).rk 0 ≠ 0 := by decide +kernel

/-! ### Branches, loops, formats -/

theorem wit_branches : codeWord one (one.slice 1) (branchTo (one.slice 1) 1) ∧ Goes (.br .always 0 0 1) one ∧ Goes (.brKf 0 1) one ∧ Goes (.call 3 1) one ∧
    (∀ id ∈ one.group, codeWord one (one.slice id) (branchTo (one.slice id) 1)) := by
  unfold codeWord branchTo; decide +kernel
theorem wit_return_in_code : Goes (.ret 5) (at1 fun x => x.ws 5 0x20010) ∧
    codeWord (at1 fun x => x.ws 5 0x20010) ((at1 fun x => x.ws 5 0x20010).slice 1) 0x20010 := by unfold codeWord; decide +kernel
/-- The last code word, the first address past it, and an address inside that is not aligned. -/
theorem wit_return_targets : let s := fun v => at1 fun x => x.ws 5 v
    codeWord (s 0x20FF8) ((s 0x20FF8).slice 1) 0x20FF8 ∧ ¬codeWord (s 0x21000) ((s 0x21000).slice 1) (((s 0x21000).slice 1).rs 5) ∧
    ¬codeWord (s 0x20014) ((s 0x20014).slice 1) (((s 0x20014).slice 1).rs 5) ∧ inCode ((s 0x20014).ctxOf ((s 0x20014).slice 1)) 0x20014 = true ∧
    Goes (.ret 5) (s 0x21000) ∧ Goes (.ret 5) (s 0x20014) := by unfold codeWord; decide +kernel
/-- A slice at the last word of one level and of both, whose start addresses differ. -/
def looping (c0 c1 : W32) (both : Bool) : Slice :=
  { pc := 0x40, lc0 := { active := true, count := c0, start := 0x10, stop := 0x40 }, lc1 := { active := both, count := c1, start := 0x20, stop := 0x40 } }
theorem wit_loop_check : let ends := fun (x : Slice) (m : Bool) => (x.lc m).active = true ∧ (x.lc m).stop = x.pc
    (¬ends {} false ∧ ¬ends {} true) ∧ (ends (looping 1 0 false) false ∧ ¬ends (looping 1 0 false) true) ∧
    (ends (looping 2 1 true) true ∧ ends (looping 2 1 true) false ∧
      ((looping 2 1 true).lc false).start.toNat < ((looping 2 1 true).lc true).start.toNat) := by decide
theorem wit_loop_words : Goes (.loop false 9 6) one ∧ Goes (.loopi true 0 1) one ∧ Goes (.lcWrite true 7) one ∧ Goes .nop one ∧ Goes (.rgn 5 6) one ∧
    Goes .rgnEnd one ∧ Goes (.fmt 0) one := by decide +kernel
theorem wit_format_write : Goes (.frWrite 4) one ∧ (∀ id ∈ one.group, frOk ((one.slice id).rs 4) = true) ∧
    (let s := at1 fun x => x.ws 4 0x080000
     Goes (.frWrite 4) s ∧ 8 ≤ ((s.slice 1).rs 4).toNat / 2 ^ 16 % 256) ∧
    (let s := at1 fun x => x.ws 4 0x8
     Goes (.frWrite 4) s ∧ 8 ≤ ((s.slice 1).rs 4).toNat % 16) := by decide +kernel

/-! ### Traps, exits, waits, allotments -/

theorem wit_trappable : (trp.group = [1] ∧ trp.has 1) ∧ Trappable trp (trp.slice 1) ∧ Goes (.trap 7) trp ∧ Goes .hbrk trp ∧
    (∀ y ∈ trp.sessions, y.die * 64 + y.ctx = (trp.slice 1).ck → y.mask.getLsbD 4 = false) := by unfold Trappable; decide +kernel
/-- An opcode that no instruction has: illegal with subcode 1. -/
theorem wit_undefined_word : let s := { trp with word := 0xFF }
    (s.group = [1] ∧ s.has 1) ∧ Trappable s (s.slice 1) ∧ answered (decode (hdrOf s (s.slice 1)) s.word.toNat) = (some 1, none) := by
  unfold Trappable; decide +kernel
/-- The lanes of `k1` exit: some, none, and all. -/
def exits (m : W32) : State := at1 fun x => x.wk 1 m
theorem wit_exit_some : ∀ s ∈ [exits 1, exits 0, exits 0x7FFFFFFF],
    Goes (.exit ⟨1, false⟩) s ∧ s.group.Nodup ∧
    ∀ id ∈ s.group, (s.block (s.slice id).block).wave = [] ∧ (s.slice id).alive &&& ~~~(s.slice id).sel ⟨1, false⟩ ≠ 0 := by decide +kernel
theorem wit_exit_all : let s := exits 0xFFFFFFFF; let x := s.slice 1
    (Goes .sexit s ∧ Goes (.exit ⟨1, false⟩) s) ∧ (x.handler = false ∧ x.idx < 4 ∧ x.gm = (1 : BitVec 4) <<< x.idx ∧ x.run = .ready ∧ x.alive ≠ 0) ∧
    (x.alive &&& ~~~x.sel ⟨1, false⟩ = 0 ∧ (s.slices.map Slice.id).Nodup) ∧
    (∀ y ∈ s.slices, y.block = x.block → y.gid = x.gid → y.handler = x.handler → y.idx = x.idx → y.id = x.id) ∧
    s.bars = [] ∧ s.bbs = [] ∧ (s.block x.block).wave = [] ∧ (∀ w ∈ (s.pdk x.pk).waiters, x.id ∉ w.members) := by decide +kernel
theorem wit_join : Goes .gjoin one ∧ (one.slice 1).handler = false ∧ (one.slice 1).isAlive = true ∧ (one.slices.map Slice.id).Nodup ∧
    one.gang (one.slice 1) = [one.slice 1] := by decide +kernel
/-- A second slice of the paddock, ready. -/
def pair : State := { one with slices := { one.slice 1 with id := 2, idx := 1, gm := 2 } :: one.slices }
theorem wit_yield : (∀ s ∈ [one, pair], Goes .yield s) ∧
    (one.slices.filter fun z => z.pk == (one.slice 1).pk && !one.inGroup z.id && readyBase one z) = [] ∧
    (pair.slices.filter fun z => z.pk == (pair.slice 1).pk && !pair.inGroup z.id && readyBase pair z).map Slice.id = [2] := by decide +kernel
theorem wit_requests : Goes (.sysc 0) one ∧ (one.slice 1).run ≠ .waiting .answered ∧ Goes (.sysc 0) (waits .answered) ∧ Goes .idle one ∧
    Goes .idle (waits (.idle 0)) ∧ ((waits (.idle 0)).slice 1).run = .waiting (.idle 0) ∧
    ((waits (.idle 0)).has 1 ∧ (0 : Nat) ≤ (waits (.idle 0)).clk ((waits (.idle 0)).slice 1).die) := by decide +kernel
theorem wit_services : ∀ n ∈ [0, 1, 2, 3, 0xFFFF], let s := waits (.sysc (BitVec.ofNat 16 n))
    s.has 1 ∧ (s.slice 1).run = .waiting (.sysc (BitVec.ofNat 16 n)) ∧ (s.die (s.slice 1).die).failover = false ∧
    (s.vdev (s.ctxOf (s.slice 1)).vdev).resident = true ∧ (s.die (s.ctxOf (s.slice 1)).die).failover = false ∧ s.cuts = [] ∧ s.resend = [] := by decide +kernel
/-- A non-resident virtual device whose interrupt log is full, or has room. -/
def logFull (tail : W16) : State := { waits (.sysc 2) with vdevs := [{ id := 0, resident := false, tail := BitVec.setWidth _ tail }] }
theorem wit_log_room : channelRoom (waits (.sysc 2)) ((waits (.sysc 2)).slice 1).ck = true ∧
    ∀ n ∈ [0, 1], let s := logFull (BitVec.ofNat 16 n)
     channelRoom s (s.slice 1).ck = (n == 0) ∧ s.has 1 ∧ (s.slice 1).run = .waiting (.sysc 2) ∧ (s.die (s.slice 1).die).failover = false ∧
      (s.vdev (s.ctx (s.slice 1).ck).vdev).resident = false := by
  decide +kernel
/-- `one` with an extended block of `e`. -/
def extended (e : Nat) : State := at1 fun x => { x with ext := e }
theorem wit_alloc_less : let s := extended 224; let x := s.slice 1
    ∀ n ∈ [32, 224], let e : Byte := BitVec.ofNat 8 n
      Goes (.alloc e) s ∧ e ≠ 0 ∧ e.toNat % 32 = 0 ∧ e.toNat ≤ 224 ∧ 32 + e.toNat ≤ 8 * hVreg (headerOf s x) ∧ e.toNat ≤ x.ext ∧
      ∀ w ∈ (s.pdk x.pk).waiters, x.id ∉ w.members := by decide +kernel
theorem wit_alloc_more : let s := extended 32; let x := s.slice 1
    ∀ n ∈ [64, 224], let e : Byte := BitVec.ofNat 8 n
      (Goes (.alloc e) s ∧ e ≠ 0 ∧ e.toNat % 32 = 0 ∧ e.toNat ≤ 224 ∧ 32 + e.toNat ≤ 8 * hVreg (headerOf s x)) ∧
      (x.ext < e.toNat ∧ x.run = .ready ∧ (checkedSlice s x = false ∨ (e.toNat - x.ext) / 32 ≤ 32 - checkUsed s x.pk) ∧
        (s.slices.map Slice.id).Nodup ∧ (s.pdk x.pk).waiters = [] ∧
        (e.toNat - x.ext) / 32 ≤ (s.ctx (x.pk / 192 * 64 + x.ctx)).pool - poolUsed s x.pk x.ctx) := by decide +kernel
theorem wit_free : Goes .free (extended 32) ∧ ∀ w ∈ ((extended 32).pdk ((extended 32).slice 1).pk).waiters, ((extended 32).slice 1).id ∉ w.members := by
  decide +kernel
/-- A gang of slices 1 and 2, of which 2 is at the same `gjoin` or not, and of exited slice 3. -/
def gang3 (run : Run) (f : Slice → Slice) : State :=
  { trp with slices := trp.slices ++ [f { trp.slice 1 with id := 2, idx := 1, gm := 2, run := run }, { trp.slice 1 with id := 3, idx := 2, alive := 0 }] }
theorem wit_gang_join : ∀ s ∈ [gang3 .ready id, gang3 (.waiting .gjoin) id, gang3 (.waiting .gjoin) fun x => { x with fr := 1 },
      gang3 (.waiting .gjoin) fun x => { x with lc1 := { active := true } }, gang3 (.waiting .gjoin) fun x => { x with region := some {} }],
    let x := s.slice 1; let w := (s.gang x).filter Slice.isAlive
    (x ∈ s.slices ∧ x.handler = false ∧ Clear .gjoin s ∧ (s.slices.map Slice.id).Nodup ∧ s.sessions = [] ∧ s.bars = [] ∧ s.bbs = [] ∧
      (∀ p ∈ s.pdks, p.waiters = []) ∧ x.id ∈ s.group) ∧ (∀ id ∈ s.group, ∃ y ∈ w, y.id = id) ∧ (∀ y ∈ s.gang x, y.idx < 4) ∧
    (∀ y ∈ w, y.pc = x.pc) ∧ w.length = 2 ∧ ∀ y ∈ w, Trappable s y ∧ (s.punit y.uk).traps.length ≤ 12 := by
  unfold Clear Trappable; decide +kernel
theorem wit_alloc_invalid : ∀ n ∈ [0, 1, 33, 255], let e : Byte := BitVec.ofNat 8 n; Goes (.alloc e) trp ∧ Trappable trp (trp.slice 1) ∧
    (e = 0 ∨ e.toNat % 32 ≠ 0 ∨ 224 < e.toNat ∨ 8 * hVreg (headerOf trp (trp.slice 1)) < 32 + e.toNat) := by unfold Trappable; decide +kernel

/-! ### Special registers and the handler -/

theorem wit_fault_mask : (∀ id ∈ one.group, (one.slice id).xv.queue = [] ∧ (one.slice id).run = .ready) ∧ Goes (.rdsr 3 0x00F) one ∧ Goes (.lfmWrite 4) one ∧
    Goes (.rdsrV ⟨0, false⟩ 3 0) one ∧ Goes (.rdsr 3 0x013) one := by decide +kernel
/-- Slice 1 is a handler slice that serves the held slice 2 of its block; `hrn` names the element that `%hrd` moves. -/
def srv (hrn : Nat) : State :=
  let t := at1 fun x => { x with handler := true }
  let t : State := { t with slices := t.slices ++ [{ one.slice 1 with id := 2, run := .held, marked := true }] }
  t.updUnit 0 fun u => { u with service := some { slice := 2, block := (one.slice 1).block }, hslice := 1, hrn := BitVec.ofNat 20 hrn }
theorem wit_serving : let s := srv 0
    Serving s (s.slice 1) 2 ∧ (s.group = [1] ∧ s.has 1) ∧ Goes (.wrsr 0x110 4) s ∧ Goes (.wrsr 0x114 4) s ∧ Goes (.wrsr 0x112 4) s ∧
    Goes .hctlHold s ∧ Goes .hctlMark s ∧ Goes .hctlUnmark s := by unfold Serving; decide +kernel
/-- A scalar, an allotted vector element, a mask, and either half of a capability, each at both ends. -/
theorem wit_elements : ∀ n ∈ [0, 0x3F0, 1, 0x1F1F1, 2, 0x72, 0x13, 0xF3, 0x14, 0xF4], let s := srv n
    (Serving s (s.slice 1) 2 ∧ Goes (.hrdWrite 4) s) ∧ (s.punit (s.slice 1).uk).hrn.toNat = n ∧
    ((n % 16 = 0 ∧ n / 16 % 256 < 64) ∨ (n % 16 = 1 ∧ n / 16 % 256 < (s.slice 2).allot) ∨ (n % 16 = 2 ∧ n / 16 % 256 < 8) ∨
      ((n % 16 = 3 ∨ n % 16 = 4) ∧ 0 < n / 16 % 256 ∧ n / 16 % 256 < 16)) := by unfold Serving; decide +kernel
theorem wit_capability_elements : ∀ n ∈ [0x13, 0xF4, 0xF5], let s := srv n
    Serving s (s.slice 1) 2 ∧ Goes (.hcapWrite 4) s ∧ 3 ≤ hrnClass (s.punit (s.slice 1).uk).hrn ∧ hrnClass (s.punit (s.slice 1).uk).hrn ≤ 5 ∧
      0 < hrnIndex (s.punit (s.slice 1).uk).hrn ∧ hrnIndex (s.punit (s.slice 1).uk).hrn < 16 := by unfold Serving; decide +kernel
/-- A handler that sends its target a word which adds two scalars. -/
def proxying : State := (srv 0).mapSlices fun x => if x.id = 1 then x.ws 4 (BitVec.ofNat 64 (wordsScalar.headD (0, .nop)).1) else x
theorem wit_proxy : let s := proxying
    Serving s (s.slice 1) 2 ∧ Goes (.hexeWrite 4) s ∧
    answered (decode (hdrOf s (s.slice 2)) ((s.slice 1).rs 4).toNat) = (none, some (wordsScalar.headD (0, .nop)).2) ∧
    proxyRefused s (s.slice 2) (bitsOf ((s.slice 1).rs 4).toNat 8 8) (wordsScalar.headD (0, .nop)).2 = false := by unfold Serving; decide +kernel
/-- A word that does not decode, one that a proxy may not run, and no target. -/
theorem wit_proxy_refused : let s := srv 0
    (∀ w ∈ [0xFF, 0x1B <<< 8], let v := BitVec.ofNat 64 w
      (answered (decode (hdrOf s (s.slice 2)) v.toNat)).2.all fun j => proxyRefused s (s.slice 2) (bitsOf v.toNat 8 8) j) ∧
    (heldTarget s (s.slice 1)).map Slice.id = some 2 ∧ Goes (.hexeWrite 4) s ∧
    (let t := at1 fun x => { x with handler := true }
     heldTarget t (t.slice 1) = none ∧ Goes (.hexeWrite 4) t) := by decide +kernel
theorem wit_kill : let s := srv 0; let x := s.slice 1; let e : TrapEntry := { slice := 2, block := x.block }
    (x.handler = true ∧ x.run = .ready ∧ (s.punit x.uk).service = some e ∧ (s.punit x.uk).hslice = x.id ∧ x.id ≠ 0) ∧ Goes .hctlKill s ∧
    (∃ y ∈ s.blocks, y.id = e.block) ∧ (s.block e.block).run ≠ .ended ∧ (s.block e.block).wave = [] ∧ (∃ g ∈ s.grids, g.id = (s.block e.block).grid) ∧
    s.bars = [] ∧ s.bbs = [] ∧ (∀ p ∈ s.pdks, p.waiters = []) ∧ (s.slices.map Slice.id).Nodup ∧
    (∀ c ∈ s.cmds, c.block ≠ e.block) ∧ (∀ r ∈ s.retiring, r.block ≠ e.block) ∧ ∀ r ∈ s.pushbuf, r.block ≠ e.block := by decide +kernel
/-- A target that runs or waits, to be held at its next boundary. -/
theorem wit_hold : ∀ r ∈ [Run.ready, .waiting .xvDone, .waiting .answered, .waiting .room], let s := (srv 0).updSlice 2 fun y => { y with run := r, marked := false }; let x := s.slice 1
    (s.has 2 ∧ 2 ≠ x.id ∧ x.run = .ready ∧ (hTarget s x).map Slice.id = some 2 ∧ hTarget s x = some (s.slice 2)) ∧ (s.slice 2).run = r ∧
    (s.slice 2).alive ≠ 0 ∧ (s.slice 2).pushes = [] ∧ (s.slice 2).land = [] ∧ (s.slice 2).xv.queue = [] ∧ (∀ u ∈ s.units, u.mq = []) ∧ (∀ p ∈ s.pdks, p.waiters = []) ∧
    Goes .hctlHold s := by decide +kernel
/-- A marked held slice, whose own trap waits or not. -/
theorem wit_return_from_handler : ∀ l ∈ [[], [{ slice := 2, block := (one.slice 1).block : TrapEntry }]], let s := (srv 0).updUnit 0 fun u => { u with traps := l }; let x := s.slice 1
    (x.handler = true ∧ (s.punit x.uk).service = some { slice := 2, block := x.block } ∧ (s.slices.map Slice.id).Nodup ∧ ∀ p ∈ s.pdks, p.waiters = []) ∧ Goes .tret s ∧
    (s.slice 2).block = x.block ∧ (s.slice 2).run = .held ∧ (s.slice 2).marked = true ∧ (s.slice 2).handler = false ∧
    (l = [] ↔ ∀ u ∈ s.units, 2 ∉ (u.traps ++ u.late).map TrapEntry.slice) := by decide +kernel
/-- A queued trap of slice 1, and handler slice 2 free to serve it. -/
def queued : State :=
  let t : State := { trp with slices := trp.slices.map (fun x => { x with run := .held }) ++ [{ id := 2, handler := true, run := .retired }] }
  t.updUnit 0 fun u => { u with traps := [{ slice := 1, block := (one.slice 1).block }], hslice := 2 }
theorem wit_service : let s := queued; let e : TrapEntry := { slice := 1, block := (one.slice 1).block }
    ((s.punit 0).service = none ∧ (s.punit 0).traps = [e] ∧ (s.punit 0).late = [] ∧ (s.block e.block).run = .running ∧ (s.block e.block).stop = none) ∧
    (∀ v ∈ s.units, v.mq = []) ∧ (s.ctx (0 / 64 / 192 * 64 + 0 % 64)).killing = 0 ∧ (s.punit 0).id = 0 ∧
    s.has e.slice ∧ (s.slice e.slice).xv.queue = [] ∧ (s.slice e.slice).land = [] ∧
    (s.punit 0).hslice ≠ 0 ∧ (s.punit 0).hslice ≠ e.slice ∧ ([] : List TrapEntry).length < 16 := by decide +kernel
/-! ### Execute-vector -/

/-- Every form enters the queue of slice 1, with lanes and without. -/
theorem wit_xv_issue : ∀ i ∈ [Instr.xvStep true 3 4 1, .xvStep false 3 4 1, .xvRun true 3 4 1 5, .xvRun false 3 4 1 5, .xvLdk 3, .xvClr 1, .xvPush true 3 1,
      .xvPush false 3 1, .xvPop true 3 1, .xvPop false 3 1],
    Goes i one ∧ Goes i (at1 fun x => { x with k := [] }) ∧ Goes i (waits .xvDone) := by decide +kernel
/-- A group of two, one member of which has an empty `k0`. -/
theorem wit_xv_holds : let s : State := { one with slices := { one.slice 1 with id := 2, idx := 1, k := [] } :: one.slices, group := [1, 2] }
    (∀ id ∈ s.group, issueTrap (.xvPush false 3 1) s (s.slice id) = none) ∧ (s.slice 2).run = .ready ∧ (s.slice 2).rk 0 = 0 ∧ s.has 2 ∧
    (s.slice 1).rk 0 ≠ 0 := by decide +kernel
theorem wit_xv_runs : (one.slice 1).run = .ready ∧ (one.slice 1).rk 0 ≠ 0 ∧ ((at1 fun x => { x with k := [] }).slice 1).rk 0 = 0 ∧
    ((at1 fun x => { x with k := [] }).slice 1).run = .ready ∧ ((waits .xvDone).slice 1).run = .waiting .xvDone := by decide +kernel
/-- An issued execute-vector instruction of lanes 0 and 1; a step's window is of zeros. -/
def xvOp (k : XvKind) : XvOp :=
  { kind := k, nt := true, sel := 3, w := 4, ops := [List.replicate 32 0], win := if k = .step then List.replicate 4 (List.replicate 32 0) else [] }
/-- `one` with one issued execute-vector instruction of lanes 0 and 1, over the given stacks. -/
def xvs (k : XvKind) (st : List W32) : State :=
  at1 fun x => { x with xv := { (x.xv.setStk 0 st) with queue := [xvOp k] } }
/-- Stacks of 0, 1 and 8 entries; a lane's word of zeros does nothing. -/
theorem wit_xv_retires : ∀ k ∈ [XvKind.step, .ldk, .clr, .push, .pop], ∀ n ∈ [0, 1, 8], let s := xvs k (List.replicate n 7)
    s.has 1 ∧ s.sessions = [] ∧ s.shadows = [] ∧ (s.slice 1).xv.queue = [xvOp k] ∧ (xvOp k).win.length = (if k = .step then 4 else 0) ∧
    (∀ l < 32, (s.slice 1).xv.dep l ≤ 8) ∧ (s.slice 1).xv.stk 0 = List.replicate n 7 := by decide +kernel
/-- A push to full stacks, and a pop from empty ones, that may trap; and the same where no lane faults. -/
theorem wit_xv_stacks : ∀ k ∈ [XvKind.push, .pop], ∀ n ∈ [0, 1, 8], let o := { xvOp k with nt := false }
    let s := trp.mapSlices fun x => { x with xv := { ((x.xv.setStk 0 (List.replicate n 7)).setStk 1 (List.replicate n 7)) with queue := [o] } }; let x := s.slice 1
    s.has 1 ∧ s.sessions = [] ∧ s.shadows = [] ∧ x.xv.queue = [o] ∧ Trappable s x ∧ o.nt = false ∧ o.win = [] ∧ (∀ j < 32, x.xv.dep j ≤ 8) ∧ o.sel.getLsbD 0 = true ∧
    x.xv.dep 0 = n ∧ ∀ j < 32, o.sel.getLsbD j = true → x.xv.dep j = n := by unfold Trappable; decide +kernel
theorem wit_xv_word : (runWord {} (List.replicate 4 0) 0 [7, 8]).toOption = some ([7, 8], none) := by rfl
/-- A capability of 1280 bytes of shared memory in `c2`. -/
def imaged : State := at1 fun x => x.wc 2 (Cap.mk' 2 4 0x7FF 0x100 80)
theorem wit_xv_image : let s := imaged; let x := s.slice 1
    (Goes (.xvDep 3) s ∧ Goes (.xvStat 3) s ∧ Goes (.xvSave 2 0 0) s ∧ Goes (.xvLoad 2 0 0) s) ∧ (∀ id ∈ s.group, (s.slice id).xv.queue = [] ∧ (s.slice id).run = .ready) ∧
    xvFail pS 2 0 0 s x = none ∧ xvFail pL 2 0 0 s x = none ∧ (Xv.ofImage (rdBytes s x (x.rc 2) (xvAddr x 2 0 0) 1280)).isSome := by decide +kernel
theorem wit_xv_keys : (keysAt imaged (imaged.slice 1) ((imaged.slice 1).rc 2) (xvAddr (imaged.slice 1) 2 0 0) 1280).Nodup := by
  rw [show keysAt imaged (imaged.slice 1) ((imaged.slice 1).rc 2) (xvAddr (imaged.slice 1) 2 0 0) 1280 =
    List.range' (keyAt imaged (imaged.slice 1) ((imaged.slice 1).rc 2) 256) 1280 by decide +kernel]
  exact List.nodup_range'
theorem wit_unserved : let s := one; let x := s.slice 1
    (s.has 1 ∧ s.proxy = none ∧ s.bars = [] ∧ s.bbs = [] ∧ (∀ p ∈ s.pdks, p.waiters = []) ∧ (s.slices.map Slice.id).Nodup) ∧
    x.handler = false ∧ trapeUsable (s.ctxOf x) = false ∧
    (∃ y ∈ s.blocks, y.id = x.block) ∧ (s.block x.block).run ≠ .ended ∧ (s.block x.block).wave = [] ∧ (∃ g ∈ s.grids, g.id = (s.block x.block).grid) ∧
    (let s := srv 0; let x := s.slice 1
     (s.has 1 ∧ s.proxy = none ∧ s.bars = [] ∧ s.bbs = [] ∧ (∀ p ∈ s.pdks, p.waiters = []) ∧ (s.slices.map Slice.id).Nodup) ∧
     x.handler = true ∧ (s.punit x.uk).service = some { slice := 2, block := x.block } ∧ (∃ y ∈ s.blocks, y.id = x.block) ∧
     (s.block x.block).run ≠ .ended ∧ (s.block x.block).wave = [] ∧ (∃ g ∈ s.grids, g.id = (s.block x.block).grid)) := by decide +kernel
/-- A lane word: operation, operand selectors, destination and slot. -/
def lword (op a b dst slot : Nat) : W32 := BitVec.ofNat 32 (op + 2 ^ 8 * a + 2 ^ 11 * b + 2 ^ 14 * dst + 2 ^ 16 * slot)
/-- A run of two steps: lane 0 adds window slots 0 and 1 into slot 2 and then drops from an empty stack, lane 1 duplicates nothing. -/
def xvProg (k : XvKind) (nt : Bool) : XvOp :=
  { kind := k, nt := nt, sel := 3, w := 254, pc := 0x20008, word := 9
    ops := (if k = .run then id else List.take 1) [(List.range 32).map fun l => if l = 0 then lword 0x10 3 4 2 2 else lword 1 3 0 0 0,
            (List.range 32).map fun l => if l = 0 then lword 3 0 0 0 0 else lword 0x10 0 5 1 0]
    win := (List.range 4).map fun j => (List.range 32).map fun l => BitVec.ofNat 32 (10 * j + l) }
def xvProgs (k : XvKind) (nt : Bool) (n : Nat) : State :=
  trp.mapSlices fun x => { x with xv := { (x.xv.setStk 1 (List.replicate n 7)) with queue := [xvProg k nt] } }
/-- A step of a form that may trap, in which no lane faults. -/
theorem wit_xv_calm : ∀ k ∈ [XvKind.step, .run], Calm { xvOp k with nt := false } (one.slice 1) ∧ (xvOp .step).ops.length = 1 := by
  unfold Calm; decide +kernel
/-- The words run on stacks of 0 to 8 entries, with and without traps. -/
theorem wit_xv_programs : ∀ k ∈ [XvKind.step, .run], ∀ n ∈ [0, 1, 8], let s := xvProgs k true n; let o := xvProg k true
    s.has 1 ∧ s.sessions = [] ∧ s.shadows = [] ∧ (s.slice 1).xv.queue = [o] ∧ o.win.length = 4 ∧ (k = .step → o.ops.length = 1) ∧ (s.slice 1).xv.resume = none ∧
    ∀ l < 32, (s.slice 1).xv.dep l ≤ 8 := by decide +kernel
theorem wit_xv_traps : ∀ k ∈ [XvKind.step, .run], let s := xvProgs k false 8; let o := xvProg k false; let x := s.slice 1
    s.has 1 ∧ s.sessions = [] ∧ s.shadows = [] ∧ x.xv.queue = [o] ∧ Trappable s x ∧ o.nt = false ∧ o.win.length = 4 ∧ o.ops ≠ [] ∧ x.xv.resume = none ∧
    (∀ l < 32, x.xv.dep l ≤ 8) ∧ o.sel.getLsbD 1 = true ∧
    ((List.range 2).map fun l => (runWord (o.env x) ((List.range 4).map fun n => (o.win.getD n []).getD l 0) ((o.ops.headD []).getD l 0) (x.xv.stk l)).toBool) = [true, false] := by
  unfold Trappable; decide +kernel

/-! ### Memory -/

/-- Capabilities with every permission: `c2` and `c3` of shared memory, `c4` of the context's memory, `c5` of another node's,
`c6` of a reduction window; `c7` has no tag, `c8` no permission. -/
def held : State := at1 fun x => (((((((x.wc 2 (Cap.mk' 2 4 0x7FF 0x100 80)).wc 3 (Cap.mk' 2 4 0x7FF 0x1000 512)).wc 4 (Cap.mk' 0 4 0x7FF 0x40000 80)).wc 5
  (Cap.mk' 5 4 0x7FF 0x40000 80)).wc 6 (Cap.mk' 6 4 0x7FF 0 80)).wc 7 { Cap.mk' 2 4 0x7FF 0x100 80 with tag := false }).wc 8 (Cap.mk' 2 4 0 0x100 80))
/-- Each outcome of a check, the bounds at their ends. -/
theorem wit_check_order : let s := held; let x := s.slice 1
    let permitted := fun (c : Cap) => c.space ∈ [1, 2, 3] ∧ ∀ p ∈ [pL, pS], c.has p = true
    let inside := fun (c : Cap) (a : Int) (n : Nat) => (c.base : Int) ≤ a ∧ a + n ≤ (c.base : Int) + c.len ∧ spaceOk s x.id x.block c.space a.toNat n = true
    (x.rc 7).tag = false ∧ ((x.rc 8).tag = true ∧ ¬permitted (x.rc 8)) ∧ ((x.rc 4).tag = true ∧ ¬permitted (x.rc 4)) ∧
    (x.rc 2).tag = true ∧ permitted (x.rc 2) ∧ inside (x.rc 2) 256 8 ∧ inside (x.rc 2) 1528 8 ∧ ¬inside (x.rc 2) 1529 8 ∧ ¬inside (x.rc 2) 255 8 ∧
    ¬((8 : Nat) : Int) ∣ 257 ∧ inside (x.rc 2) 257 8 ∧ ((8 : Nat) : Int) ∣ 256 := by decide +kernel
def scalarTys : List Ty := [.n8, .n16, .n32, .n64, .i8, .i16, .i32, .i64]
theorem wit_mem_types : (∀ t ∈ scalarTys, memTy t) ∧ (∀ t ∈ [Ty.n8, .n16, .n32, .i8, .i16, .i32], memTy32 t) ∧ memTy .n32 ∧ 32 ≤ Ty.n32.width := by
  unfold memTy memTy32; decide
theorem wit_loads : ∀ t ∈ scalarTys, Goes (.ld .plain .core t 9 2 (.scalar 0) 16) held ∧
    (∀ id ∈ held.group, memFail [1, 2, 3] [pL] (t.width / 8) (t.width / 8) 2 (.scalar 0) 16 held (held.slice id) = none) ∧
    Goes (.st .plain .core t 9 2 (.scalar 0) 16) held ∧
    (∀ id ∈ held.group, memFail [1, 2, 3] [pS] (t.width / 8) (t.width / 8) 2 (.scalar 0) 16 held (held.slice id) = none) := by decide +kernel
theorem wit_capability_accesses : (Goes (.ldc .plain .core 9 2 (.scalar 0) 16) held ∧ Goes (.stc .plain .core 9 2 (.scalar 0) 16) held) ∧
    (∀ id ∈ held.group, memFail [1, 2, 3] [pL] 16 16 2 (.scalar 0) 16 held (held.slice id) = none) ∧
    (∀ id ∈ held.group, memFail [1, 2, 3] [pW] 16 16 2 (.scalar 0) 16 held (held.slice id) = none) ∧
    (∀ id ∈ held.group, ((at1 fun x => x.wc 2 (Cap.mk' 2 4 1 0 4)).slice id |>.rc 2).has pC = false) ∧ held.group.Nodup := by decide +kernel
theorem wit_lane_accesses : (∀ t ∈ [Ty.n8, .n16, .n32, .i8, .i16, .i32], Goes (.ldV ⟨0, false⟩ t 3 2 .none 0) held ∧ Goes (.stV ⟨0, false⟩ t 3 2 .none 0) held ∧
      (∀ id ∈ held.group, laneFail [1, 2, 3] [pL] (t.width / 8) ⟨0, false⟩ 2 .none 0 held (held.slice id) = none) ∧
      ∀ id ∈ held.group, laneFail [1, 2, 3] [pS] (t.width / 8) ⟨0, false⟩ 2 .none 0 held (held.slice id) = none) ∧
    (held.slice 1).sel ⟨0, false⟩ ≠ 0 ∧ (held.slice 1).sel ⟨1, false⟩ = 0 := by decide +kernel
theorem wit_keys_apart : ∀ n ∈ [1, 2, 4, 8, 16], (touched held (held.slice 1) 2 (.scalar 0) 0 n).Nodup ∧ (touched held (held.slice 1) 2 (.scalar 0) 16 n).Nodup := by
  unfold touched; decide +kernel
/-- A slice with one result of each kind on its way. -/
theorem wit_landing : ∀ l ∈ [Landing.s 9 7, .c 9 {}, .v 3 5 [7, 8, 9]], let s := at1 fun x => { x with land := [l] }
    s.has 1 ∧ (s.slice 1).land = [l] := by decide +kernel
theorem wit_atomics : (∀ i ∈ [Instr.atm ⟨0, false⟩ .cas .plain .core .n32 3 2 (.scalar 0) 4, .atmBinc ⟨0, false⟩ .plain .core .n64 3 2 (.scalar 0) 4,
      .atmWinc ⟨0, false⟩ .plain .core .i32 3 2 (.scalar 0) 4, .atmCdec ⟨0, false⟩ .plain .core .i64 3 2 (.scalar 0), .atmFaddl .plain .core 9 2 (.scalar 0) 4,
      .fence .plain .core], Goes i held) ∧
    (∀ t ∈ [Ty.n32, .n64, .i32, .i64], atmFail ⟨0, false⟩ t 3 2 (.scalar 0) held (held.slice 1) = none) ∧
    (∀ d ∈ [0, 9], memFail [1, 2] (if d = 0 then [pA] else [pA, pL]) 16 16 2 (.scalar 0) 0 held (held.slice 1) = none) ∧ held.sessions = [] := by
  decide +kernel
/-- A fence beside a command of its slice that it does not wait for, and one reissued. -/
theorem wit_fence : (let s : State := { one with cmds := [{ id := 5, slice := 1, kind := 6, stage := 3 }, { id := 6, slice := 1, kind := 1 }] }
      Goes (.fence .plain .core) s ∧ ∀ id ∈ s.group, reissued (s.slice id) = true ∨ ∀ q ∈ s.cmds, q.slice = (s.slice id).id → q.stage = 3 ∨ (q.kind ≠ 6 ∧ q.kind ≠ 7)) ∧
    (Goes (.fence .plain .core) (waits (.cmds [])) ∧ reissued ((waits (.cmds [])).slice 1) = true) := by decide +kernel
/-- `held` with three lanes in `k1` and their indices in `v7`: lanes 0 and 2 meet at one word. -/
def lanes3 : State := held.mapSlices fun x => ((x.wk 1 7).wv 7 (-1) fun l => BitVec.ofNat 32 (if l = 1 then 4 else 0)).wv 3 (-1) fun l => BitVec.ofNat 32 (0x11223300 + l)
theorem wit_lanes_meet : let s := lanes3; let x := s.slice 1
    Goes (.stV ⟨1, false⟩ .n32 3 2 (.vector 7) 0) s ∧ laneFail [1, 2, 3] [pS] 4 ⟨1, false⟩ 2 (.vector 7) 0 s x = none ∧
    (∀ i ∈ [Instr.atm ⟨1, false⟩ .add .plain .core .n32 3 2 (.vector 7) 3, .atmBinc ⟨1, false⟩ .plain .core .n32 3 2 (.vector 7) 3,
      .atmWinc ⟨1, false⟩ .plain .core .n32 3 2 (.vector 7) 3, .atmCdec ⟨1, false⟩ .plain .core .n32 3 2 (.vector 7)], Goes i s) ∧
    (Idx.vector 7).isVector = true ∧ x.sel ⟨1, false⟩ = 7 := by decide +kernel
theorem wit_lanes_apart : LanesApart ⟨1, false⟩ .n32 3 2 (.vector 7) lanes3 (lanes3.slice 1) := by unfold LanesApart laneKeys; decide +kernel

/-! ### Commands and barriers -/

/-- As `held`, with a length, rows and pitches in `s16` to `s19`, selected queues in `s20` and an accepted row in `s21`. -/
def sized : State := held.mapSlices fun x => (((((x.ws 16 64).ws 17 2).ws 18 128).ws 19 64).ws 20 0x1FFFFFFFF).ws 21 1
/-- A copy with its completion task named, or none. -/
def cpyF (cmp : Nat) (cs cd : CReg) : CpyFields := { q := 0, scope := .core, cmp := BitVec.ofNat 5 cmp, len := 16, cs := cs, cd := cd }
theorem wit_copies : ∀ n ∈ [0, 2], let f := cpyF n 2 3; let g := cpyF n 3 2; let s := sized; let x := s.slice 1
    (Goes (.cpy f 0 0) s ∧ cpyFail f 0 0 s x = none) ∧ (Goes (.cpy2d f 0 0) s ∧ cpy2dFail f 0 0 s x = none) ∧
    (Goes (.cpyG ⟨0, false⟩ f 3 0) s ∧ cpyVFail true ⟨0, false⟩ f 3 0 s x = none ∧ x.sel ⟨0, false⟩ ≠ 0) ∧
    (Goes (.cpyS ⟨0, false⟩ g 0 3) s ∧ cpyVFail false ⟨0, false⟩ g 3 0 s x = none) ∧ s.sessions = [] ∧
    Goes (.cpyG ⟨1, false⟩ f 3 0) s ∧ Goes (.cpyS ⟨1, false⟩ f 0 3) s ∧ x.sel ⟨1, false⟩ = 0 := by decide +kernel
theorem wit_other_commands : let s := sized; let x := s.slice 1
    (Goes (.qfence 0 .core 2 20) s ∧ cpyTrap s x (taskFail s x 2) = none ∧ cpyTrap s x (taskFail s x 0) = none) ∧
    (∀ n ∈ [4, 5], let c := BitVec.ofNat 4 n
      Goes (.fat .plain .core .n64 0 c (.scalar 0) 4) s ∧ Goes (.fat .plain .core .n64 9 c (.scalar 0) 4) s ∧
      memFail [0, 5] [pA] (tyBytes .n64) (tyBytes .n64) c (.scalar 0) 0 s x = none ∧
      memFail [0, 5] [pA, pL] (tyBytes .n64) (tyBytes .n64) c (.scalar 0) 0 s x = none) ∧
    (∀ n ∈ [4, 6], let c := BitVec.ofNat 4 n
      Goes (.redF .plain .core 9 c (.scalar 0) 4) s ∧ memFail [0, 6] [pA] 8 8 c (.scalar 0) 0 s x = none) ∧
    (∀ n ∈ [21, 22], let a := BitVec.ofNat 6 n
      Goes (.kvc false 0 9 2 4 22 a 16) s ∧ kvcFail false 0 2 4 22 a 16 s x = none ∧ kvcFail true 2 2 4 22 a 16 s x = none) ∧
    Goes (.spawnRec 0 2 0) s ∧ capCheck s x (x.rc 2) [0, 1, 2] [pA] (addrS x (x.rc 2) (.scalar 0) 0) 16 16 = none := by decide +kernel
/-- Slice 1 with one unfinished command of batch 1, which a wait for batch `n` names or not. -/
def batched (n : W64) : State :=
  { (at1 fun x => { x with batch := 1 }.ws 9 n) with cmds := [{ id := 5, slice := 1, committed := true, batch := 1, ctx := (one.slice 1).ck }] }
theorem wit_batches : let s := batched 0; let x := s.slice 1; let t := batched 1; let y := t.slice 1
    (Goes (.cpyCommit 9) s ∧ openBatches s x < 32767) ∧ (Goes (.cpyWait 9) s ∧ x.run = .ready ∧
      ∀ q ∈ s.cmds, q.slice = x.id → q.stage ≠ 3 → q.committed = true → 2 ^ 15 ≤ ((x.rs 9).setWidth 16 - q.batch).toNat) ∧
    (Goes (.cpyWait 9) t ∧ y.run = .ready ∧ ((∀ z ∈ t.slices, (match z.run with | .parked _ => false | _ => true) = true) ∧
      ∀ q ∈ t.cmds, q.parked = false) ∧ ∃ q ∈ t.cmds, q.slice = y.id ∧ q.stage ≠ 3 ∧ q.committed = true ∧
        ((y.rs 9).setWidth 16 - q.batch).toNat < 2 ^ 15) := by decide +kernel
/-- A copy of 64 bytes within the shared memory, first in the queue of its paddock. -/
def copying : Command :=
  { id := 5, kind := 1, queue := (one.slice 1).pk, slice := 1, block := (one.slice 1).block, ctx := (one.slice 1).ck, gen := 1
    src := Cap.mk' 2 4 0x7FF 0x100 80, dst := Cap.mk' 2 4 0x7FF 0x1000 80, srcA := 0x100, dstA := 0x1000, len := 64, count := 1 }
theorem wit_queue_copy : let s : State := { one with cmds := [copying] }; let c := copying
    (queueNext s c.queue = some c ∧ s.cmd c.id = some c ∧ s.sessions = []) ∧ (c.kind = 1 ∧ c.cmp < 16 ∧ c.piece = 0 ∧ c.off < c.len ∧ c.stuck = none ∧ c.dying = false ∧ c.was = []) ∧
    (c.src.space ∈ [1, 2, 3] ∧ c.dst.space ∈ [1, 2, 3]) ∧ c.len ≤ bankLeft s c.block c.src.space c.srcA.toNat ∧ c.len ≤ bankLeft s c.block c.dst.space c.dstA.toNat ∧
    (spaceKey s c.slice c.block c.src.space c.srcA.toNat).isSome ∧ (spaceKey s c.slice c.block c.dst.space c.dstA.toNat).isSome ∧
    (let (ka, kd) := ((spaceKey s c.slice c.block c.src.space c.srcA.toNat).getD 0, (spaceKey s c.slice c.block c.dst.space c.dstA.toNat).getD 0)
     ka + c.len ≤ kd ∨ kd + c.len ≤ ka) := by decide +kernel
theorem wit_command_ends : let c : Command := { copying with stage := 1 }; let s : State := { one with cmds := [c] }
    s.cmd 5 = some c ∧ c.stage = 1 ∧ (c.cmp = 0 ∨ 16 ≤ c.cmp) ∧ c.sample = [] ∧ c.kind ≠ 7 := by decide +kernel
/-- A contribution of index 0 set aside, to a cell of the context's memory that expects it. -/
def contributing : Command := { copying with kind := 7, status := 3, dst := Cap.mk' 0 4 0x7FF 0x40000 80, dstA := 0x40000, len := 8 }
theorem wit_contribution : let c := contributing; let s : State := { one with cmds := [c] }
    s.cmd 5 = some c ∧ s.poison = [] ∧ c.kind = 7 ∧ c.status = 3 ∧ c.stage = 0 ∧ c.due ≤ s.clk c.die ∧ c.dying = false ∧ c.dst.space ≠ 6 ∧
    (match locate s c.owner 0 c.dstA.toNat false true with
     | (.ok w, u) => decide (u.red = [] ∧ leNat (u.rd w.key 8) / 2 ^ 32 = c.index.toNat ∧ u.poisoned w.key 8 = false)
     | _ => false) = true := by decide +kernel
/-- A record that waits for a slot of a fault queue of four, with its head behind its tail of 3 or at it. -/
def recording (head : Nat) : State :=
  one.updCtx 0 fun c => { ((((c.setFld 0x30 8 0x50000).setFld 0x38 1 2).setFld 0x3A 2 head).setFld 0x3C 2 3) with pendingRec := [List.replicate 64 7] }
theorem wit_fault_record : ∀ h ∈ [0, 3], let s := recording h; let c := s.ctx 0
    c.pendingRec = [List.replicate 64 7] ∧ (List.replicate 64 (7 : Byte)).length = 64 ∧ fqRoom c = true ∧ (c.fqt = c.fqh ↔ h = 3) ∧
    (s.vdev c.vdev).resident = true ∧ (s.die c.die).failover = false ∧ s.cuts = [] ∧ s.resend = [] := by decide +kernel
/-- Core barrier 3 of the block, with `n` of two arrivals, slice 1's among them or not. -/
def barred (n : Nat) (who : List Nat) (arrived : List (Nat × Nat)) : State :=
  { (at1 fun x => { x with arrived := arrived }) with bars := [{ id := 9, level := .core, owner := (one.slice 1).block, num := 3, expected := 2, arrivals := n, who := who }] }
theorem wit_barriers : ∀ s ∈ [barred 0 [] [], barred 1 [7] [], barred 1 [1] [(9, 0)], barred 0 [] [(9, 5)]], let x := s.slice 1; let b := s.bar 9
    (findBar s x .core 3 = some b ∧ s.bar b.id = b ∧ (s.bars.any fun y => y.id == b.id) = true ∧ Scope.core ≠ Scope.pod) ∧
    Goes (.barArr .core 3) s ∧ Goes (.barWait .core 3) s ∧ openReleases s x.id = [] ∧
    ((x.id ∉ b.who ∧ b.arrivals + 1 < b.expected) ∨ (x.id ∉ b.who ∧ b.arrivals + 1 = b.expected) ∨ x.id ∈ b.who) := by decide +kernel
/-- A slice with a release in its queue, or one that has been performed, and a barrier at which its arrival awaits it. -/
def releasing (stage : Nat) : State :=
  { barred 0 [] [] with cmds := [{ id := 5, slice := 1, ord := .rel, stage := stage }] }
theorem wit_late_arrivals : (let s := releasing 0; let x := s.slice 1; let b := s.bar 9
     findBar s x .core 3 = some b ∧ s.bar b.id = b ∧ (s.bars.any fun y => y.id == b.id) = true ∧ Goes (.barArr .core 3) s ∧ x.id ∉ b.who ∧ openReleases s x.id ≠ []) ∧
    (∀ n ∈ [0, 1], let b : Bar := { id := 9, level := .core, owner := (one.slice 1).block, num := 3, expected := 3, who := [1], late := [(1, [5])] }
      let s := { releasing n with bars := [b] }
      s.bars = [b] ∧ (∀ y ∈ s.bbs, y.late = []) ∧ b.level ≠ .pod ∧ releasesOver s [5] = (n == 1) ∧ b.arrivals + 1 < b.expected) ∧
    ∀ n ∈ [0, 1], let b : ByteBar := { block := (one.slice 1).block, num := 2, count := 0, phase := false, parties := [1], arrived := [1], late := [(1, [5])] }
      let s := { releasing n with bars := [], bbs := [b] }
      s.bbs = [b] ∧ (∀ y ∈ s.bars, y.late = []) ∧ b.count = 0 ∧ (∀ p ∈ b.parties, p ∈ b.arrived) ∧ releasesOver s [5] = (n == 1) := by decide +kernel
theorem wit_barrier_waits : let s := barred 1 [1] [(9, 0)]; let t := barred 0 [] []; let u := barred 0 [] [(9, 5)]
    (s.slice 1).arrived.find? (fun p => p.1 == 9) = some (9, 0) ∧ (s.bar 9).phase = 0 ∧ (t.slice 1).arrived.find? (fun p => p.1 == 9) = none ∧
    (u.slice 1).arrived.find? (fun p => p.1 == 9) = some (9, 5) ∧ (u.bar 9).phase ≠ 5 ∧
    findBar one (one.slice 1) .pod 1 = none ∧ Goes (.barArr .pod 1) one := by decide +kernel
/-- Byte barrier 2 of the block with bytes to come, a phase, parties and arrivals. -/
def byted (count : Nat) (parties arrived : List Nat) : State :=
  { one with bbs := [{ block := (one.slice 1).block, num := 2, count := BitVec.ofNat 36 count, phase := false, parties := parties, arrived := arrived }] }
/-- The last party of two leaves; a slice that is no party does. -/
theorem wit_byte_barrier_leaves : (let s := byted 0 [1, 7] [7]; let b := s.bb (bbOf (s.slice 1) 2)
     (∀ i ∈ [Instr.bbArr 9 2, .bbArrLeave 9 2], Goes i s) ∧ (s.bbs.any fun b => State.bbKey b == bbOf (s.slice 1) 2) = true ∧
     (s.slice 1).id ∈ b.parties ∧ (s.slice 1).id ∉ b.arrived ∧ b.count = 0 ∧ b.late ++ lateOf s (s.slice 1).id = [] ∧ ∀ p ∈ b.parties, p = (s.slice 1).id ∨ p ∈ b.arrived) ∧
    (let s := byted 4 [] []; let b := s.bb (bbOf (s.slice 1) 2)
     (s.slice 1).id ∉ b.parties ∧ (s.slice 1).id ∉ b.arrived) := by decide +kernel
/-- An arrival of a slice with a release in its queue, with no byte missing. -/
theorem wit_byte_barrier_late : let s := { releasing 0 with bbs := (byted 0 [1] []).bbs }; let b := s.bb (bbOf (s.slice 1) 2)
    (s.bbs.any fun b => State.bbKey b == bbOf (s.slice 1) 2) = true ∧ (s.slice 1).id ∉ b.arrived ∧ (s.slice 1).id ∈ b.parties ∧ b.late ++ lateOf s (s.slice 1).id ≠ [] ∧
    ∀ i ∈ [Instr.bbArr 9 2, .bbArrLeave 9 2], Goes i s := by decide +kernel
theorem wit_byte_barriers :
    (∀ s ∈ [byted 4 [] [], byted 0 [] [], byted 4 [1] [1], byted 4 [1] []], let x := s.slice 1
      (s.bbs.any fun b => State.bbKey b == bbOf x 2) = true ∧ ∀ i ∈ [Instr.bbExp 2 9, .bbArr 9 2, .bbArrDecl 9 2, .bbArrLeave 9 2, .bbWait 2 9], Goes i s) ∧
    (let s := byted 4 [] []; let b := s.bb (bbOf (s.slice 1) 2)
     b.count + ((s.slice 1).rs 9).setWidth 36 ≠ 0 ∧ (s.slice 1).id ∉ b.arrived ∧ b.count ≠ 0 ∧ (s.slice 1).run = .ready ∧ b.phase = ((s.slice 1).rs 9).getLsbD 0) ∧
    (let s := byted 0 [] []; let b := s.bb (bbOf (s.slice 1) 2)
     (s.slice 1).id ∉ b.arrived ∧ b.count = 0 ∧ b.late ++ lateOf s (s.slice 1).id = [] ∧ ∀ p ∈ b.parties, p = (s.slice 1).id ∨ p ∈ b.arrived) ∧
    (let s := byted 4 [1] [1]; (s.slice 1).id ∈ (s.bb (bbOf (s.slice 1) 2)).arrived) ∧
    (let s := byted 4 [1] []; let b := s.bb (bbOf (s.slice 1) 2); (s.slice 1).id ∈ b.parties ∧ (s.slice 1).id ∉ b.arrived ∧ b.count ≠ 0) ∧
    (let s := (byted 4 [] []).mapSlices fun x => x.ws 9 1
     Goes (.bbWait 2 9) s ∧ (s.slice 1).run = .ready ∧ (s.bb (bbOf (s.slice 1) 2)).phase ≠ ((s.slice 1).rs 9).getLsbD 0) := by decide +kernel
/-- A second slice of the block in a gang of its own, and a barrier of two slices. -/
def beside (s : State) : State := { s with slices := s.slices ++ [{ one.slice 1 with id := 2, gid := 1 }] }
theorem wit_leaves_block : ∀ s ∈ [beside (barred 0 [] []), beside (barred 1 [1] [(9, 0)]), beside (barred 1 [2] []), beside (byted 0 [1, 2] [2]),
    beside (byted 4 [1] [1]), beside (byted 0 [1] [])], LeavesBlock s (s.slice 1) := by unfold LeavesBlock; decide +kernel
theorem wit_leaves_barriers : (∀ s ∈ [beside (barred 0 [] []), beside (barred 1 [1] [(9, 0)]), beside (barred 1 [2] [])], let x := s.slice 1; let b := s.bar 9
      Goes .sexit s ∧ s.bars = [b] ∧ s.bbs = [] ∧ b.level ≠ .pod ∧ b.late = [] ∧ ∃ y ∈ barBlocks s b, y.id = x.block) ∧
    ∀ s ∈ [beside (byted 0 [1, 2] [2]), beside (byted 4 [1] [1]), beside (byted 0 [1] [])], let x := s.slice 1; let q := s.bb (bbOf x 2)
      Goes .sexit s ∧ s.bars = [] ∧ s.bbs = [q] ∧ q.late = [] ∧ q.block = x.block ∧ x.id ∈ q.parties ∧ q.parties.Nodup := by decide +kernel
/-- Pod barrier 1 of join 5, whose home is this node or another, with the grids that have registered. -/
def podded (home : W16) (arrivals registered : Nat) : State :=
  let s := one.updGrid (one.block (one.slice 1).block).grid fun g => { g with lrec := { g.lrec with pj := 5 } }
  { s with joins := [{ j := 5, grp := (s.ctx 0).grp, home := home, members := [s.node, 7, 9], m := 2, registered := List.range registered }]
           bars := [{ id := 9, level := .pod, owner := 5 + 65536 * (s.ctx 0).grp.toNat, num := 1, expected := 2, arrivals := arrivals }] }
theorem wit_pod_barriers : ∀ s ∈ [podded 7 0 0, podded one.node 0 2, podded one.node 1 1, podded one.node 1 2], let x := s.slice 1; let b := s.bar 9
    Goes (.barArr .pod 1) s ∧ (∃ j ∈ s.joins, j.key = b.owner ∧ ∀ i ∈ s.joins, i.key = b.owner → i = j) ∧
    findBar s x .pod 1 = some b ∧ s.bar b.id = b ∧ (s.bars.any fun y => y.id == b.id) = true ∧ b.level = .pod ∧ s.cuts = [] ∧ s.resend = [] ∧ openReleases s x.id = [] ∧ x.id ∉ b.who := by decide +kernel
theorem wit_bb_flip : ∀ s ∈ [byted 0 [] [], byted 0 [7] [7], byted 0 [7] []], let x := s.slice 1
    (Goes (.bbExp 2 9) s ∧ (s.bbs.any fun b => State.bbKey b == bbOf x 2) = true) ∧ (s.bb (bbOf x 2)).late = [] ∧ (s.bb (bbOf x 2)).count + (x.rs 9).setWidth 36 = 0 := by decide +kernel
/-- The second piece of a command of three pieces of 16 bytes, two rows or lanes apart in the source or the destination. -/
def pieces (kind piece : Nat) : Command :=
  { copying with kind := kind, piece := piece, len := 16, count := 3, ps := 32, pd := 48, lanes := 0x15, idx := Cells.setList [] 0 [0, 0, 32, 0, 64] }
theorem wit_copy_pieces : ∀ c ∈ [pieces 2 1, pieces 2 2, pieces 3 1, pieces 4 1, pieces 3 2, pieces 4 2], let s : State := { one with cmds := [c] }
    (queueNext s c.queue = some c ∧ s.cmd c.id = some c ∧ s.sessions = [] ∧ c.cmp < 16 ∧ c.off < c.len ∧ c.stuck = none ∧ c.dying = false ∧ c.piece < c.pieces) ∧
    (c.kind = 2 → c.pieces = c.count) ∧ (c.kind ≠ 2 → c.lanes.getLsbD (2 * c.piece) = true ∧ (List.range (2 * c.piece)).countP (fun j => c.lanes.getLsbD j) = c.piece) ∧
    c.src.space ∈ [1, 2, 3] ∧ c.dst.space ∈ [1, 2, 3] ∧ c.was = [] := by decide +kernel
theorem wit_copy_long : let c := { pieces 2 1 with len := 600 }; let d := 0x1000 + 48; min (c.len - c.off) (512 - d % 512) < c.len := by decide

/-! ### The matrix unit -/

/-- `held` with the baton of its paddock, an INT8 format and plane, one row in `s16`, an identity table in `c2` and a tree in `v3`. -/
def mx : State :=
  let s := held.mapSlices fun x => (x.ws 16 1).wv 3 1 fun _ => 0xFF
  let s : State := s.mapSlices fun x => { x with fr := 0x766 }
  let s := s.updUnit 0 fun u => { u with holder := some (gangKey (s.slice 1)), activeFmt := 6 }
  wrBytes s (s.slice 1) ((s.slice 1).rc 2) 256 ((List.range 64).map fun n => BitVec.ofNat 8 n)
/-- `mx` with `n` instructions queued. -/
def mxFull (n : Nat) : State := mx.updUnit 0 fun u => { u with mq := (List.range n).map fun _ => {} }
theorem wit_matrix_ready : ∀ s ∈ [mx, mxFull 15, mxFull 16], let x := s.slice 1
    s.group = [1] ∧ (∀ i ∈ [Instr.mlw 2 0 16, .mswap, .mst true 11 2 0 16, .mst false 11 2 0 16, .mzero 11, .mout 2 0 11 16, .mmaskTree 11 3 0 0, .mrd .f32 3 11 0 0,
      .mwr .i32 11 3 0 0], Clear i s) ∧ convFail s x 3 = none ∧ hTiles (headerOf s x) ≠ 0 := by
  unfold Clear; decide +kernel
theorem wit_matrix_queue : mqLen (mx.punit (home mx (mx.slice 1))) < 16 ∧ mqLen ((mxFull 15).punit (home (mxFull 15) ((mxFull 15).slice 1))) < 16 ∧
    16 ≤ mqLen ((mxFull 16).punit (home (mxFull 16) ((mxFull 16).slice 1))) := by unfold home; decide +kernel
theorem wit_matrix_operands : let s := mx; let x := s.slice 1; let n := ((slice0 s x).rs 16).toNat
    (1 ≤ n ∧ n ≤ shapeN (shapeOf s x) ∧ 1 ≤ frBF x.fr ∧ frBF x.fr ≤ 6 ∧ n ≤ 64) ∧ tileOf s x 11 ∧ tileOf s x 0 ∧
    comboOk (frAF x.fr) (viewOf s x).act (frACC x.fr) = true ∧ accOk (frACC x.fr) = true ∧ segBad s 0 0 = false ∧
    ((viewOf s x).live.getLsbD 11 = true → (viewOf s x).kind.getLsbD 11 = accInt (frACC x.fr)) ∧
    ∀ j < 64, (parents (slice0 s x) 3).getD j 255 < j ∨ (parents (slice0 s x) 3).getD j 255 = 255 := by unfold tileOf; decide +kernel
/-- A live tile of floats and one of integers. -/
theorem wit_matrix_kinds : let s := mx.updUnit 0 fun u => { u with live := 3, kind := 2 }; let x := s.slice 1
    (viewOf s x).live.getLsbD 0 = true ∧ (viewOf s x).kind.getLsbD 0 = false ∧ (viewOf s x).live.getLsbD 1 = true ∧ (viewOf s x).kind.getLsbD 1 = true := by decide +kernel
theorem wit_matrix_table : Goes (.mperm 0 2 0) mx ∧ ∀ id ∈ mx.group, mpermTrap 2 0 mx (mx.slice id) = none := by decide +kernel
/-- The block stands on paddocks 0 and 1. -/
def mxPair : State := (mx.updBlock (one.slice 1).block fun b => { b with pdks := [0, 1] }).updPdk 1 fun p => { p with vdev := some 0 }
/-- `mxPair` with `n` instructions in the queue of either paddock. -/
def mxPairs (n : Nat) : State := [0, 64].foldl (fun s v => s.updUnit v fun u => { u with mq := (List.range n).map fun _ => {} }) mxPair
theorem wit_matrix_shape : ∀ n ∈ [0, 15, 16], let s := mxPairs n; let x := s.slice 1
    Goes (.mcfg false .single) s ∧ (∀ id ∈ s.group, mxTrap 3 (mcfgSubs false .single) s (s.slice id) = none) ∧ Shape.single = shapeOf s x ∧
    Goes (.mcfg false .pairH) s ∧ (∀ id ∈ s.group, mxTrap 3 (mcfgSubs false .pairH) s (s.slice id) = none) ∧ Shape.pairH ≠ shapeOf s x ∧
    mqLen (s.punit (homeUnit s x.uk)) = n ∧ ∀ v ∈ mcfgUnits s x .pairH (shapeOf s x), (s.punit v).takers = [] := by decide +kernel
theorem wit_matrix_baton : (∀ i ∈ [Instr.batTake, .batGive, .batTest 9], Clear i mx) ∧ (∀ s ∈ [mx, held, held.updUnit 0 fun u => { u with holder := some (7, 7) }],
      Clear .batTake s ∧ ∀ id ∈ s.group, convFail s (s.slice id) 1 = none ∧ hTiles (headerOf s (s.slice id)) ≠ 0) ∧
    (mx.punit (home mx (mx.slice 1))).holder = some (gangKey (mx.slice 1)) ∧ (held.punit (home held (held.slice 1))).holder = none ∧
    gangKey (held.slice 1) ≠ (7, 7) := by unfold Clear home; decide +kernel
/-- An instruction of the matrix unit, with what it read. -/
def mxOne (i : Instr) : MxOp := { i := i, unit := 0, slice := 1, block := (one.slice 1).block, fr := 0x766, cap := Cap.mk' 2 4 0x7FF 0x100 80, addr := 0x100, n := 1,
                                  vecs := [List.replicate 32 7, List.replicate 32 8], perm := (List.range 64).map fun n => BitVec.ofNat 8 n, fmt := 6 }
theorem unmarked_of {s : State} (h : s.poison = [] ∧ ∀ u ∈ s.units, u.badTiles = 0 ∧ u.badPlanes = 0) : Unmarked s := by
  refine ⟨h.1, fun v => ?_⟩
  simp only [State.punit, recGet]
  cases hf : s.units.find? fun x => x.id == v with
  | none => simp
  | some u => exact h.2 u (List.mem_of_find?_eq_some hf)
theorem whole_of {s : State} {m : MxOp} (h : let quads := (kHalves m.sh).flatMap fun kh => (nHalves m.sh).map fun nh => quadUnit s m.sh m.unit kh nh
    quads.Nodup ∧ (∀ v ∈ quads, v ∈ shapeUnits s m.sh m.unit) ∧ ∀ v ∈ shapeUnits s m.sh m.unit, v ∈ quads) : Whole s m :=
  ⟨h.1, fun v => ⟨h.2.1 v, h.2.2 v⟩⟩
abbrev unmarked (s : State) : Prop := s.poison = [] ∧ ∀ u ∈ s.units, u.badTiles = 0 ∧ u.badPlanes = 0
abbrev whole (s : State) (m : MxOp) : Prop := let quads := (kHalves m.sh).flatMap fun kh => (nHalves m.sh).map fun nh => quadUnit s m.sh m.unit kh nh
  quads.Nodup ∧ (∀ v ∈ quads, v ∈ shapeUnits s m.sh m.unit) ∧ ∀ v ∈ shapeUnits s m.sh m.unit, v ∈ quads
def shapes : List Shape := [.single, .pairH, .pairV, .quad]
/-- An instruction at the head of the queue, issued in a shape, with `d` of `n` rows performed, in a format and an accumulate format. -/
def mxHead (i : Instr) (sh : Shape) (fmt acc n d : Nat) : MxOp := { mxOne i with sh := sh, fmt := fmt, fr := BitVec.ofNat 64 (2 ^ 8 * acc), n := n, done := d }
/-- `mx` with it at the head, over an active plane of a format. -/
def mxWith (m : MxOp) (bf : Nat) : State := mx.updUnit 0 fun u => { u with mq := [m], activeFmt := bf }
theorem wit_matrix_performs : ∀ sh ∈ shapes, ∀ i ∈ [Instr.mzero 11, .mswap, .mrd .f32 3 11 0 0, .mrd .i32 3 11 0 0, .mrd .f16 3 11 0 0, .mrd .bf16 3 11 0 0,
    .mwr .f32 11 3 0 0, .mwr .i32 11 3 0 0, .mwr .f16 11 3 0 0, .mwr .bf16 11 3 0 0], let m := mxHead i sh 6 7 63 0; let s := mxWith m 6
    (s.punit 0).mq = [m] ∧ m.unit = 0 ∧ unmarked s ∧ m.i = i ∧ s.has m.slice ∧ m.n < 64 := by decide +kernel
/-- The first and the last row of two, in every format and shape. -/
theorem wit_matrix_shadow : ∀ sh ∈ shapes, ∀ f ∈ [1, 2, 3, 4, 5, 6], ∀ d ∈ [0, 1], let m := mxHead (.mlw 2 0 16) sh f 0 (if d = 0 then shapeN sh else 2) d; let s := mxWith m 6
    ((s.punit m.unit).mq = [m] ∧ unmarked s ∧ whole s m ∧ m.done < m.n ∧ m.n ≤ shapeN m.sh ∧ m.perm.length = 64) ∧
    (fetchRow (rowDone s m.unit m) m m.done (rowBytes m)).isOk = true := by decide +kernel
theorem wit_matrix_products : ∀ sh ∈ shapes, ∀ z ∈ [true, false], ∀ d ∈ [0, 1], ∀ c ∈ [(1, 2, 0), (2, 1, 1), (3, 5, 0), (4, 3, 2), (6, 6, 6), (6, 6, 7)],
    let m := mxHead (.mst z 11 2 0 16) sh c.1 c.2.2 2 d; let s := mxWith m c.2.1
    ((s.punit m.unit).mq = [m] ∧ unmarked s ∧ whole s m ∧ m.done < m.n ∧ m.done < 64 ∧ m.perm.length = 64) ∧
    (fetchRow (rowDone s m.unit m) m m.done (rowBytes m)).isOk = true ∧ comboOk m.fmt (s.punit m.unit).activeFmt (frACC m.fr) = true := by decide +kernel
theorem wit_matrix_out : ∀ sh ∈ shapes, ∀ f ∈ [0, 1, 2, 6, 7], ∀ d ∈ [0, 1], let m := mxHead (.mout 2 0 11 16) sh f f 2 d; let s := mxWith m 6
    let w := outBytes m.fmt * shapeN m.sh
    ((s.punit m.unit).mq = [m] ∧ unmarked s ∧ m.done < m.n) ∧ (rowCheck (rowDone s m.unit m) m pP m.done w).toOption = some (m.addr.toInt + (d * w : Nat)) ∧
    keysAt s (s.slice m.slice) m.cap (m.addr.toInt + (d * w : Nat)) w = List.range' (keyAt s (s.slice m.slice) m.cap (m.addr.toInt + (d * w : Nat))) w := by decide +kernel
/-- Node 1 below node 0, and node 2 below it. -/
theorem wit_matrix_tree : ∀ sh ∈ shapes, let m := { mxHead (.mmaskTree 11 3 0 0) sh 6 7 4 0 with m := 2, vecs := [[0xFF0100FF] ++ List.replicate 15 (-1)] }; let s := mxWith m 6
    ((s.punit 0).mq = [m] ∧ m.unit = 0 ∧ unmarked s ∧ whole s m) ∧ ∀ n < 64, parentIn (m.vecs.headD []) n < n ∨ parentIn (m.vecs.headD []) n = 0xFF := by decide +kernel
/-- A change of shape at the head of the queues of both paddocks, and one to the shape that they have. -/
theorem wit_matrix_change : (let m := { mxHead (.mcfg false .pairH) .single 6 7 0 0 with seq := 9 }
     let s := (mxPair.updUnit 0 fun u => { u with mq := [m] }).updUnit 64 fun u => { u with mq := [{ m with part := true }] }
     (s.punit 0).mq = [m] ∧ m.unit = 0 ∧ unmarked s ∧ Shape.pairH ≠ m.sh ∧ mcfgUnits s (s.slice m.slice) .pairH m.sh = [0, 64] ∧ (s.punit 64).mq = [{ m with part := true }]) ∧
    (let m := mxHead (.mcfg true .pairH) .pairH 6 7 0 0; let s := mxWith m 6; (s.punit 0).mq = [m] ∧ m.unit = 0 ∧ unmarked s ∧ Shape.pairH = m.sh) := by decide +kernel

/-! ### Tasks, launches, invokes -/

/-- A valid entry of a handler table. -/
def handlerBytes : List Byte := leBytes 8 0x20008 ++ leBytes 8 0 ++ leBytes 2 1 ++ leBytes 2 1 ++ leBytes 2 64 ++ [4]
/-- `held` with handler 3, a paddock of its own, lane 2 in `k1` and lengths and indices in `s16` to `s18`. -/
def tasked : State :=
  let s := held.mapSlices fun x => ((((x.wk 1 4).ws 16 3).ws 17 64).ws 18 2).ws 19 256
  let s := s.updCtx 0 fun c => (({ c with ht := c.ht.setList 96 handlerBytes }).setFld 0x40 8 0x60000).setFld 0x48 8 0x1000
  s.updPdk 0 fun p => { p with vdev := some 0 }
/-- As `tasked`, with no paddock that is its own and so no stall. -/
def crowded : State := tasked.updPdk 0 fun p => { p with vdev := some 1 }
theorem wit_spawn : (∀ s ∈ [tasked, crowded], let x := s.slice 1
      (x.run = .ready ∧ x.pushes = []) ∧ Goes (.spawn ⟨1, false⟩ 9 16 0 2 16 0) s ∧ spawnOk s x 16 = true ∧ spawnFail ⟨1, false⟩ 16 0 2 16 s x = none ∧
      lanesOf (x.sel ⟨1, false⟩) = [2]) ∧
    (let x := tasked.slice 1; stallFor tasked (x.die * 48 + x.core) x.ck (x.rs 16).toNat (0 : BitVec 2).toNat = some 0) ∧
    (let x := crowded.slice 1; stallFor crowded (x.die * 48 + x.core) x.ck (x.rs 16).toNat (0 : BitVec 2).toNat = none) ∧
    Goes (.spawn ⟨1, false⟩ 9 17 0 2 16 0) tasked ∧ spawnOk tasked (tasked.slice 1) 17 = false ∧ Goes (.tdone ⟨1, false⟩) tasked ∧ (tasked.slice 1).handler = false ∧
    (let s := tasked.mapSlices fun x => { x with handler := true }; Goes (.tdone ⟨1, false⟩) s ∧ (s.slice 1).handler = true) ∧
    Goes (.targ ⟨1, false⟩ 3 0) tasked := by decide +kernel
/-- A packet of one block, and bytes that are none. -/
def packet : List Byte := leBytes 8 0x20008 ++ leBytes 8 0 ++ leBytes 2 1 ++ leBytes 2 1 ++ leBytes 2 1 ++ [1, 1] ++ leBytes 2 1 ++ [0, 0, 0, 0, 0, 0]
theorem wit_launch : let x := tasked.slice 1
    Goes (.launch 9 0 2 0) tasked ∧ capCheck tasked x (x.rc 2) [1, 2, 3] [pL] (launchAddr x 2 0 0) 32 16 = none ∧
    (∃ g ∈ tasked.grids, g.id = (tasked.block x.block).grid) ∧ packetBad packet = none ∧ (packetBad (List.replicate 32 0)).isSome ∧
    (tasked.grid (tasked.block x.block).grid).launches.length < 16 := by decide +kernel
theorem wit_invoke : let s := tasked; let x := s.slice 1
    (∀ n ∈ [16, 19], ∀ l ∈ [17, 18], Goes (.rinv false true 18 (BitVec.ofNat 6 n) 2 0 (BitVec.ofNat 6 l) 9 0) s) ∧ Goes (.rinv true false 18 16 2 0 17 9 0) s ∧
    x.run = .ready ∧ ((x.rs 17).toNat % 16 = 0 ∧ 16 ≤ (x.rs 17).toNat ∧ (x.rs 17).toNat ≤ 192) ∧ ¬((x.rs 18).toNat % 16 = 0) ∧ (x.rs 16).toNat < 256 ∧
    256 ≤ (x.rs 19).toNat ∧ rinvFail 16 17 2 0 s x = none ∧ openInvokes s x < 16 ∧ s.cuts = [] ∧ s.resend = [] ∧
    ∀ w ∈ [Wait.cmds [], .answer 5], let t := s.mapSlices fun x => { x with run := .waiting w }
      Goes (.rinv true false 18 16 2 0 17 9 0) t ∧ (t.slice 1).run = .waiting w := by decide +kernel
/-- A session of the context that takes marks, with a ring of 64 slots. -/
def marking : Session := { die := 0, id := 1, ctx := 0, ringBase := 0x70000, ringK := 6, mask := 1 }
theorem wit_mark : Goes (.tmark 5 9) tasked ∧ tasked.sessions = [] ∧ (let s : State := { tasked with sessions := [marking] }
    Goes (.tmark 5 9) s ∧ marking.die * 64 + marking.ctx = (s.slice 1).ck ∧ marking.on 0 = true ∧ marking.dropped = 0 ∧ 4 ≤ marking.room ∧ 4 ≤ marking.toEnd) := by
  decide +kernel
/-- A task with a successor at handle 0x20, whose count is 2. -/
def retiringOne : Retiring := { id := 5, slice := 1, block := (one.slice 1).block, task := { bytes := recHeader 2 1 0 false 0 3 ++ leBytes 8 0 ++ leBytes 8 0x20 } }
theorem wit_retire : let s : State := { (tasked.wr 0x60020 (leBytes 8 (2 * 2 ^ 32))) with retiring := [retiringOne] }; let r := retiringOne
    (s.retiring.find? (fun k => k.id == r.id) = some r ∧ retireReady s r = true ∧ r.step = 0 ∧ recSuccs r.task.bytes = [0x20] ∧ recNote r.task.bytes = false ∧ r.task.ack = none) ∧
    (∃ y ∈ s.slices, y.block = r.block ∧ y.handler = false ∧ y.run ≠ .retired) ∧ handleOff (s.ctx r.ctx) 0x20 = some 0x20 ∧
    (match locate s { k := r.ctx, gen := (s.ctx r.ctx).gen, slice := r.slice, block := r.block } 0 ((s.ctx r.ctx).arenab + 0x20) true true with
     | (.ok w, u) => decide (2 ≤ leNat (u.rd w.key 8) / 2 ^ 32 ∧ u.poisoned w.key 8 = false)
     | _ => false) = true := by decide +kernel
/-- A task that another package's invoke brought. -/
def answering : Retiring := { retiringOne with task := { bytes := recHeader 2 0 0 false 0 3 ++ leBytes 16 0, ack := some { node := 7, tag := 9 } } }
theorem wit_answer : let s : State := { tasked with retiring := [answering] }; let r := answering
    s.retiring.find? (fun k => k.id == r.id) = some r ∧ retireReady s r = true ∧ r.step = 0 ∧ recSuccs r.task.bytes = [] ∧ recNote r.task.bytes = false ∧
    r.task.ack.isSome ∧ r.ackOk = true ∧ s.cuts = [] ∧ s.resend = [] ∧ ∃ y ∈ s.slices, y.block = r.block ∧ y.handler = false ∧ y.run ≠ .retired := by decide +kernel
theorem wit_stall_timer : let s : State := { tasked with stalls := [{ id := 0, state := 1, started := 0, timer := 64 }], dies := [{ id := 0, cc := 64 }] }
    (s.stall 0).state = 1 ∧ (s.stall 0).started + (s.stall 0).timer ≤ s.clk (0 / 768) := by decide +kernel
abbrev talks (s : State) (d : Nat) : Prop := (s.die d).failover = false ∧ (s.die d).failed = false ∧ s.cuts = [] ∧ s.resend = []
theorem talks_eq (s : State) (d : Nat) : talks s d ↔ Talks s d := Iff.rfl
/-- An invoke of handler 3 that has been accepted. -/
def invoked : State := tasked.updCtx 0 fun c => { c with invokes := [{ order := 1, hnd := 3 }] }
theorem wit_invoke_taken : let s := invoked
    talks s 0 ∧
    (nextInvoke s 0).map (fun p => (p.1, p.2.1.hnd, p.2.2)) = some (0, 3, 0) ∧ (stallFor s 0 0 3 0).isSome := by decide +kernel
/-- A launch at the head of enabled queue 0, and an empty paddock. -/
def launching (e : LqEntry) : State :=
  let s : State := { tasked with blocks := [], slices := [], group := [] }
  s.updCtx 0 fun c => { c with lqt := c.lqt.setList 0 (leBytes 8 4), lq := [(0, e)] }
theorem wit_one_launch : ∀ n ∈ [0, 7], let e : LqEntry := { lrec := { entry := 0x30008 }, grid := n }; let s := launching e; let c := s.ctx 0
    (s.ctxs = [c] ∧ c.valid = true ∧ c.killing = 0 ∧ c.lq = [(0, e)] ∧ (c.queue 0).2.1 = true ∧ 0 < 64 ∧ eligible c e = true) ∧
    talks s c.die ∧ s.stalls = [] ∧ s.saved = [] ∧ (∀ g ∈ s.grids, g.relaunch = []) ∧
    c.die < 4 ∧ (s.vdev c.vdev).resident = true := by decide +kernel
theorem wit_launch_refused : let e : LqEntry := { lrec := { entry := 0x30008 } }
    e.grid = 0 ∧ (match (readLaunch (launching e) 0 e.lrec e.inline).1 with | .error _ => true | .ok _ => false) = true := by decide +kernel
theorem wit_launch_placed : let e : LqEntry := { grid := 7 }
    let s : State := { launching e with grids := [{ id := 7, header := fetchHeader, lrec := { entry := 0x20008 }, total := 1 }] }
    (e.grid ≠ 0 ∧ (s.grid e.grid).placed = 0 ∧ unplaceable s (s.grid e.grid) = none ∧ (nextSpots s (s.grid e.grid) false).isSome) ∧
    (∀ g ∈ s.grids, g.relaunch = []) := by decide +kernel
/-- `tasked` with a Filling stall of its handler's key, two lanes in `k2`. -/
def filling : State :=
  let s := tasked.mapSlices fun x => x.wk 2 10
  { s with stalls := [{ id := 0, state := 1, ctx := 0, hnd := 3, cls := 0, entry := ((s.ctx 0).handler 3).entry, fill := 4, timer := 64, tasks := [{}] }] }
theorem wit_spawn_lanes : let s := filling; let x := s.slice 1
    (x.run = .ready ∧ x.pushes = []) ∧ Goes (.spawn ⟨2, false⟩ 9 16 0 2 16 0) s ∧ spawnOk s x 16 = true ∧ spawnFail ⟨2, false⟩ 16 0 2 16 s x = none ∧
    stallFor s (x.die * 48 + x.core) x.ck (x.rs 16).toNat (0 : BitVec 2).toNat = some 0 ∧ (s.stall 0).state = 1 ∧
    (s.stall 0).tasks.length + (lanesOf (x.sel ⟨2, false⟩)).length ≤ (s.stall 0).fill ∧ lanesOf (x.sel ⟨2, false⟩) = [1, 3] ∧
    Goes (.spawn ⟨3, false⟩ 9 16 0 2 16 0) s ∧ x.sel ⟨3, false⟩ = 0 := by decide +kernel

/-! ### Stops, saves, restores, kills -/

/-- `trp` whose slice has stood still as long as its context allows. -/
def hung : State := (trp.updCtx 0 fun c => c.setFld 0xD 1 4).mapSlices fun x => { x with hang := 16 }
theorem wit_hang : hung.has 1 ∧ Trappable hung (hung.slice 1) ∧ hangDue hung (hung.slice 1) = true ∧ (∀ p ∈ hung.pdks, p.waiters = []) := by unfold Trappable; decide +kernel
/-- A program counter outside the code capability, and one inside it on no page. -/
def lost (v : Addr) : State := (trp.updCtx 0 fun c => c.setFld 0x20 8 (2 ^ 50)).mapSlices fun x => { x with pc := v }
theorem wit_fetch_fault : (let s := lost 0x10000
    s.has 1 ∧ Trappable s (s.slice 1) ∧ inCode (s.ctxOf (s.slice 1)) (s.slice 1).pc = false) ∧
    (let s := lost (2 ^ 45)
     s.has 1 ∧ Trappable s (s.slice 1) ∧ (match (fetchAt s (s.slice 1)).1 with | .page _ => true | _ => false) = true) := by
  unfold Trappable; decide +kernel
/-- `one` under a header without tiles, in a context with a save area, with its block asked for until cycle `n`. -/
def asked (n : Nat) : State :=
  let s := (one.updCtx 0 fun c => (c.setFld 0x58 8 0x100000).setFld 0x60 8 0x100000).updPdk 0 fun p => { p with vdev := some 0 }
  s.updBlock (one.slice 1).block fun b => { b with header := BitVec.ofNat 64 (2 + 2 ^ 8 * 32 + 2 ^ 48 + 2 ^ 56 * 9), preempt := some n, kind := 1 }
/-- As `asked`, with its gang stopped at a light point, or at a boundary after the time allowed. -/
def frozen (light : Bool) : State := freeze (asked 0) (one.slice 1).block light fun _ => true
theorem wit_saves : let s := asked 0; let b := (one.slice 1).block
    (askedFor s b = true ∧ (s.block b).preempt = some 0 ∧ (0 : Nat) ≤ s.clk (s.block b).die ∧ lightPoint s b 0 = true ∧ (liveSlices s b 0).all (fun x => !midway x) = true) ∧
    (∀ f ∈ [frozen true, frozen false], ((List.range (f.block b).ngang).all (gangFrozen (f.block b))) = true ∧ saveable f b = true ∧
      ((settleBlock f b).block b).run = .running) ∧
    (∀ f ∈ [frozen true, frozen false], chanStop (settleBlock f b) = false) ∧ (s.ctx 0).prot = false ∧
    (firstFit (saveAreas s 0) 64 (s.ctx 0).savel (imageBytes (frozen true) ((frozen true).block b) 1 (fun _ => true) none).length).isSome := by
  decide +kernel
/-- As `asked`, with its slice parked for as long as its context allows. -/
def swapping : State :=
  ((asked 0).mapSlices fun x => { x with run := .parked (.copy 0) }).updBlock (one.slice 1).block fun b => { b with park := 2 ^ 17, preempt := none, kind := 0 }
theorem wit_swap : let s := swapping; let b := (one.slice 1).block
    swapDue s (s.block b) = true ∧ (s.block b).id = b ∧ ((settleBlock s b).block b).run = .running ∧ chanStop (settleBlock s b) = false ∧ (s.ctx 0).prot = false ∧
    (firstFit (saveAreas s 0) 64 (s.ctx 0).savel (imageBytes (settleBlock s b) ((settleBlock s b).block b) 3 (fun _ => false) none).length).isSome := by decide +kernel
/-- The block off the machine, with its image in memory: the bytes of it that are not 0, by offset. -/
def away : State :=
  let bytes : List (Nat × Byte) := [(0, 1), (2, 1), (16, 68), (17, 26), (30, 1), (37, 1), (40, 2), (41, 32), (46, 1), (47, 9), (48, 8), (50, 2), (68, 8), (70, 2),
    (77, 1), (80, 255), (81, 255), (82, 255), (83, 255), (100, 255), (101, 255), (102, 255), (103, 255), (881, 36), (882, 9), (893, 1), (897, 52), (898, 27),
    (901, 192)]
  let s := (asked 0).updBlock (one.slice 1).block fun b => { b with run := .saved, preempt := none, kind := 0 }
  { s with mem := s.mem ++ bytes.map (fun p => (0x100000 + p.1, p.2)), saved := [{ id := 9, block := (one.slice 1).block, addr := 0x100000, len := 6724 }] }
def awayRec : Saved := away.saved.headD {}
theorem wit_restore_record : let s := away; let v := awayRec
    s.saved.find? (fun w => w.id == v.id && w.ready) = some v ∧ (s.ctx ((s.block v.block).die * 64 + (s.block v.block).ctx)).killing = 0 ∧
    (s.block v.block).run = .saved ∧ (s.block v.block).id = v.block ∧ controllerUp s (s.grid (s.block v.block).grid).die = true ∧ (∀ p ∈ s.pdks, p.waiters = []) ∧
    imagePoison s v = false := by decide +kernel
/-- It stands at the head of the source that is placed next. -/
theorem away_wins : (winner away (away.grid (away.block awayRec.block).grid).die).map (fun p => p.1.head) = some (.saved awayRec) := by decide +kernel
theorem away_planned : (restorePlan away awayRec).isSome = true := by decide +kernel
/-- Its image has one slice, which is alive. -/
theorem away_read : (savedImage away awayRec).map (fun g => g.slices.map fun r => (r.st, r.x.alive)) = some [(0, -1)] := by decide +kernel
theorem away_slots : (slotOrder away (away.block awayRec.block)).map Slice.id = [1] ∧ (away.block awayRec.block).id = awayRec.block ∧
    (away.block awayRec.block).crewSize ≤ 1 := by decide +kernel
theorem wit_restore_plan : ∃ g dst y renew, savedImage away awayRec = some g ∧ winner away (away.grid (away.block awayRec.block).grid).die = some (y, renew) ∧
    y.head = .saved awayRec ∧ placing away false y = some (.back [(awayRec, g, dst)]) ∧ dst.id = awayRec.block ∧
    ((slotOrder away dst).map Slice.id).Nodup ∧ ∃ p ∈ pairSlices (slotOrder away dst) g.slices g.xvs, p.2.1.st ≠ 4 ∧ p.2.1.x.alive ≠ 0 := by
  obtain ⟨p, hp⟩ := Option.isSome_iff_exists.mp away_planned
  obtain ⟨hl, hb, hc⟩ := away_slots
  obtain ⟨g, dst, hg, rfl, hi, hn⟩ := Laws.restorePlan_alone hc hp
  have hs : slotOrder away dst = slotOrder away (away.block awayRec.block) := by simp only [slotOrder, hi, hn]
  obtain ⟨⟨y, renew⟩, hw, hy⟩ := Option.map_eq_some_iff.mp away_wins
  have hy : y.head = .saved awayRec := hy
  have hp : placing away false y = some (.back [(awayRec, g, dst)]) := by
    rw [placing, hy]; exact Option.map_eq_some_iff.mpr ⟨_, hp, rfl⟩
  refine ⟨g, dst, y, renew, hg, hw, hy, hp, hi.trans hb, by rw [hs, hl]; decide, ?_⟩
  have hr := away_read
  rw [hg] at hr
  simp only [Option.map_some, Option.some.injEq] at hr
  obtain ⟨r, rs, hr1, hr2, hr3⟩ : ∃ r rs, g.slices = r :: rs ∧ r.st = 0 ∧ r.x.alive = -1 := by
    cases h : g.slices with
    | nil => simp [h] at hr
    | cons r rs => rw [h] at hr; simp only [List.map_cons, List.cons.injEq, Prod.mk.injEq] at hr; exact ⟨r, rs, rfl, hr.1.1, hr.1.2⟩
  obtain ⟨x, xs, hx⟩ : ∃ x xs, slotOrder away (away.block awayRec.block) = x :: xs := by
    cases h : slotOrder away (away.block awayRec.block) with
    | nil => simp [h] at hl
    | cons x xs => exact ⟨x, xs, rfl⟩
  refine ⟨(x, r, g.xvs.headD {}), ?_, by simp [hr2], by simp [hr3]⟩
  rw [hs, hx, hr1]; simp [pairSlices, hr2]
/-- Two contexts on a paddock: the one that issues has been quiet for 256 cycles, and the other has a ready slice. -/
def duplex : State :=
  (one.updPdk 0 fun p => { p with slot0 := some 1, slot1 := some 0, issuing := 0, quiet := 256 })
theorem wit_switch : switchDue duplex 0 = true := by decide +kernel
/-- A context that is being killed and has nothing under way. -/
def dying : State := one.updCtx 0 fun c => { c with killing := 1 }
theorem wit_kill_end : let s := dying
    (s.ctx 0).killing ≠ 0 ∧ quiescent s (killKeys s 0) = true ∧ s.mgmt = [] ∧ s.cuts = [] ∧ s.resend = [] ∧ (s.die (0 / 64)).failover = false ∧
    (s.vdev (s.ctx 0).vdev).resident = true ∧ (s.ctxs.map Ctx.id).Nodup := by decide +kernel
/-- A block on a paddock that takes no new work. -/
def crewed (again : Bool) : State :=
  (one.updPdk 0 fun p => { p with wstate := .drained }).updBlock (one.slice 1).block fun b => { b with relaunched := again }
theorem wit_crew_kill : ∀ a ∈ [false, true], let s := crewed a; let b := s.block (one.slice 1).block
    b ∈ s.blocks ∧ s.block b.id = b ∧ b.run ≠ .ended ∧ b.run ≠ .dying ∧ b.relaunched = a ∧ (∀ p ∈ s.pdks, p.wstate ≠ .nominal ∧ p.wstate ≠ .derated) ∧
    (∃ g ∈ s.grids, g.id = b.grid) ∧ 1 ≤ (s.grid b.grid).lrec.gangs ∧ (s.grid b.grid).relaunch = [] ∧ s.cmds = [] ∧ (s.slices.map Slice.id).Nodup := by decide +kernel
/-! ### Health, power, breakpoints -/

theorem wit_self_tests : (TestResult.transient ≠ .lasting ∧ (TestResult.lasting ≠ .transient)) ∧ (TestResult.repaired ≠ .lasting ∧ TestResult.repaired ≠ .transient) ∧ 0 < (one.pdk 0).rows ∧
    ((one.updPdk 0 fun p => { p with rows := 0 }).pdk 0).rows = 0 ∧ (3 < 4 ∧ 191 < 192) ∧ 0 < (one.chan 0).lanes ∧
    ({ one with chans := [{ id := 0, lanes := 0 }] } : State).chan 0 = { id := 0, lanes := 0 } ∧ 0 < portCount one.part ∧ portCount one.part - 1 < portCount one.part := by decide +kernel
theorem wit_port_errors : (let s : State := { one with ports := [{ id := 0, fails := 7 }] }
      7 ≤ (s.port 0).fails ∧ (s.port 0).fenced = false ∧ underTest s (.port 0) = false ∧ 0 < portCount s.part) ∧ (one.port 0).fails < 7 ∧ (one.port 0).fenced = false ∧
    underTest one (.port 0) = false ∧
    (let s : State := { one with resend := [{ due := 0 }] }; s.resend[0]? = some { due := 0 } ∧ resendDue s 0 = true) := by decide +kernel
/-- A bank with spare rows, and one that has used what it has. -/
theorem wit_bank_rows : (let s := one; ((s.bankRows.find? fun p => p.1 == 0).map (·.2)).getD 0 = 0) ∧
    ∀ n : Nat, let s : State := { one with bankRows := [(0, n)] }; ((s.bankRows.find? fun p => p.1 == 0).map (·.2)).getD 0 = n := by
  exact ⟨by decide +kernel, fun _ => rfl⟩
theorem wit_failover : 0 < one.part.dies ∧ (one.die 0).failed = false ∧ ((one.die 0).failover = false ∧ (one.die 0).standby = true) ∧
    (((one.updDie 0 fun d => { d with failover := true }).die 0).failover = true ∧ (one.updDie 0 fun d => { d with failover := true }).cuts = [] ∧ (one.updDie 0 fun d => { d with failover := true }).resend = []) ∧
    (let s := one.updDie 0 fun d => { d with standby := false }; (s.die 0).failover = false ∧ (s.die 0).standby = false ∧ (s.die 0).failed = false) ∧
    (one.pdk 0).wstate ≠ .retired ∧ ((one.updPdk 0 fun p => { p with wstate := .retired }).pdk 0).wstate = .retired := by decide +kernel
theorem wit_power : ({ State.reset with powered := false } : State).powered = false ∧ (({ one with booted := true } : State).powered = true ∧ ({ one with booted := true } : State).booted = true) := ⟨rfl, rfl, rfl⟩
/-- `trp` with a session of its context that breaks at its slice's word. -/
def breaking : State := { one with sessions := [{ die := 0, id := 1, ctx := 0, breaks := [(one.slice 1).pc ||| 1] }] }
theorem wit_breakpoint : let s := breaking; let x := s.slice 1
    let u := askStop (s.mapSlices fun y => if (formGroup s x).contains y.id then { y with bpDone := some y.pc } else y) x.block { cause := BitVec.ofNat 8 (2 + 16 * 0), pc := x.pc, slice := 1, node := some 0 }
    (breakAt s x.ck x.pc = some (0, 0) ∧ breakDue s x = true) ∧ stopReady u x.block false = true ∧ ((settleBlock u x.block).block x.block).run = .running ∧
    ((settleBlock u x.block).ctx ((settleBlock u x.block).block x.block).ck).prot = false := by decide +kernel
/-- The slice of a block that steps has taken its steps. -/
def stepped : State := (one.mapSlices fun x => { x with steps := some 0 }).updBlock (one.slice 1).block fun b => { b with stepping := true }
theorem wit_step : let s := stepped; let b := (one.slice 1).block; let u := askStop s b { cause := 4, pc := (firstPc s b).1, slice := (firstPc s b).2 }
    stepDue s b = true ∧ stopReady u b false = true ∧ ((settleBlock u b).block b).run = .running ∧
    ((settleBlock u b).ctx ((settleBlock u b).block b).ck).prot = false := by decide +kernel

/-! ### Messages -/

abbrev arrives (s : State) : Prop := wellSent s.msg = true ∧ s.cuts = [] ∧ s.resend = [] ∧ s.replays = [] ∧ s.refused = []
theorem arrives_eq (s : State) : arrives s ↔ Arrives s := Iff.rfl
/-- A message of node 7 for die 0 in group 0 and generation 1. -/
def msgOf (t : Byte) (arg : W16) (p : List Byte) : Msg :=
  { src := 7, type := t, ctl := 0x80, tag := 3, gen := 1, len := BitVec.ofNat 16 p.length, arg := arg, payload := p }
/-- `tasked` with a pod window, a reduction window, a launch table and an enabled queue, and a message in hand. -/
def got (m : Msg) : State :=
  let s := tasked.updCtx 0 fun c => { ((c.setFld 0xB0 8 0x80000).setFld 0xB8 8 0x8000).setFld 0x3E 2 256 with launchTable := [{}], lqt := c.lqt.setList 0 (leBytes 8 (4 + 2 ^ 8 + 2 ^ 16)) }
  { s with msg := m, windows := [{ index := 1, base := 0x60000, len := 0x1000, members := [5, 7] }] }
def written : State := got (msgOf mWRITE 0 (leBytes 8 0x40 ++ List.replicate 16 9))
theorem wit_write : arrives written ∧
    (podAccess written written.msg.grp (written.msg.at' 0 8) (written.msg.pay.drop 8).length).map (·.2) = some 0x80040 ∧
    (match podAccess written written.msg.grp (written.msg.at' 0 8) (written.msg.pay.drop 8).length with
     | some (o, a) => (match (writeN written o 0 a (written.msg.pay.drop 8)).1 with | .ok _ => true | .error _ => false)
     | none => false) = true ∧
    (let s := got (msgOf mWRITE 0 (leBytes 8 0x8000 ++ List.replicate 16 9))
     arrives s ∧ (podAccess s s.msg.grp (s.msg.at' 0 8) (s.msg.pay.drop 8).length).isNone) := by decide +kernel
theorem wit_read : let s := got (msgOf mREAD 0 (leBytes 8 0x40 ++ leBytes 2 256))
    arrives s ∧ s.msg.at' 8 2 ≤ 256 ∧
    (match podAccess s s.msg.grp (s.msg.at' 0 8) (s.msg.at' 8 2) with
     | some (o, a) => (match (readN s o 0 a (s.msg.at' 8 2)).1 with | .ok _ => true | .error _ => false)
     | none => false) = true := by decide +kernel
theorem wit_far_atomic : let s := got (msgOf mFATM 0 (leBytes 8 0x40 ++ leBytes 8 5 ++ leBytes 2 8))
    arrives s ∧ (match podAccess s s.msg.grp (s.msg.at' 0 8) (s.msg.at' 16 2) with
     | some (o, a) => (match (locate s o 0 a true true).1 with | .ok _ => true | .error _ => false)
     | none => false) = true := by decide +kernel
/-- A read that this package awaits, for a copy into shared memory. -/
def answered1 (kind : Nat) (gen : W16) : State :=
  { got { msgOf mDATA 0 (List.replicate 16 9) with gen := gen } with
    awaits := [{ tag := 3, node := 7, kind := kind, slice := 1, reg := 9, cmd := 5, len := 16 }], cmds := [{ copying with src := Cap.mk' 5 4 0x7FF 0 80, srcA := 0, stage := 2 }] }
theorem wit_data : let s := answered1 2 1; let c : Command := { copying with src := Cap.mk' 5 4 0x7FF 0 80, srcA := 0, stage := 2 }
    (arrives s ∧ (s.slices.all fun y => match y.run with | .parked _ => false | _ => true) = true ∧ ∀ q ∈ s.cmds, q.parked = false) ∧
    ((awaited s s.msg).map Await.kind = some 2 ∧ olderGen s 0 s.msg.gen = false ∧ s.cmd 5 = some c ∧ c.cmp < 16 ∧ c.dying = false ∧ s.sessions = [] ∧
      (c.pieceAt c.piece).dspace ∈ [1, 2, 3]) ∧ (spaceKey s c.slice c.block (c.pieceAt c.piece).dspace ((c.pieceAt c.piece).dst + 0)).isSome ∧
    s.msg.pay.length ≤ bankLeft s c.block (c.pieceAt c.piece).dspace ((c.pieceAt c.piece).dst + 0) := by decide +kernel
theorem wit_answers : (let s := answered1 1 1
      arrives s ∧ (awaited s s.msg).map Await.kind = some 1 ∧ olderGen s 0 s.msg.gen = false ∧ s.has 1 ∧ (9 : SReg) ≠ 0) ∧
    (let s := answered1 1 0; wellSent s.msg = true ∧ (awaited s s.msg).isSome ∧ olderGen s 0 s.msg.gen = true) := by decide +kernel
/-- A contribution of index 0 at offset 0x40 of the window. -/
def contributed : State := got (msgOf mRED 0 (leBytes 8 0x40 ++ leBytes 4 0 ++ leBytes 4 0x3F800000))
theorem wit_reduction : let s := contributed
    arrives s ∧ s.msg.arg ≠ 0x8000 ∧ (windowAt s s.msg.grp (s.msg.at' 0 8)).map RedWin.index = some 1 ∧
    (match locate s { k := 0, gen := (s.ctx 0).gen } 0 (0x60000 + s.msg.at' 0 8) false true with
     | (.ok x, u) => decide (u.red = [] ∧ leNat (u.rd x.key 8) / 2 ^ 32 = s.msg.at' 8 4)
     | _ => false) = true ∧
    s.poison = [] := by decide +kernel
/-- The first of two contributions at the tree, and the second, of the node below or above. -/
theorem wit_reduction_pair : ∀ o ∈ [5, 9], let other : W16 := BitVec.ofNat 16 o; let s : State := { contributed with windows := [{ index := 1, base := 0x60000, len := 0x1000, members := [other, 7] }] }
    let n : Msg := { s.msg with src := other, payload := leBytes 8 0x40 ++ leBytes 4 0 ++ leBytes 4 0x40000000 }
    arrives s ∧ s.msg.arg ≠ 0x8001 ∧ (windowAt s s.msg.grp (s.msg.at' 0 8)).map RedWin.members = some [other, s.msg.src] ∧ other ≠ s.msg.src ∧ s.tree = [] ∧
    wellSent n = true ∧ n.arg ≠ 0x8001 ∧ n.src = other ∧ n.grp = s.msg.grp ∧ n.at' 0 8 = s.msg.at' 0 8 ∧ n.at' 8 4 = s.msg.at' 8 4 := by decide +kernel
/-- An invoke of handler 3. -/
def invoking (arg : W16) (grp : W16) : State := got { msgOf mINVOKE arg (List.replicate 16 1) with grp := grp }
theorem wit_invoke_message : (∀ s ∈ [invoking 3 0, invoking 0x8003 0, invoking 3 9],
      arrives s ∧ talks s (msgDie s.msg) ∧ msgDie s.msg < s.part.dies) ∧
    (∀ s ∈ [invoking 3 0, invoking 0x8003 0], ctxOfGrp s (msgDie s.msg) s.msg.grp = some 0 ∧ ((s.ctx 0).handler (s.msg.arg.toNat % 256)).valid = true ∧
      ((s.ctx 0).invokes.filter fun v => v.cls == msgCls s.msg).length < (s.ctx 0).iqd ∧
      ((s.ctx 0).outstanding.get (s.msg.arg.toNat % 256)).toNat < ((s.ctx 0).handler (s.msg.arg.toNat % 256)).quota) ∧
    (invoking 3 0).msg.arg.getLsbD 15 = false ∧ (invoking 0x8003 0).msg.arg.getLsbD 15 = true ∧
    ctxOfGrp (invoking 3 9) (msgDie (invoking 3 9).msg) (invoking 3 9).msg.grp = none ∧
    (let s := (invoking 3 0).updCtx 0 fun c => { c with outstanding := c.outstanding.set 3 1 }
     ¬((s.ctx 0).outstanding.get (s.msg.arg.toNat % 256)).toNat < ((s.ctx 0).handler (s.msg.arg.toNat % 256)).quota) := by decide +kernel
/-- A launch by table entry 0 in queue 0, with what the queue holds. -/
def launched (l : List (Nat × LqEntry)) : State := (got (msgOf mLAUNCH 0 (leBytes 8 5 ++ List.replicate 24 0))).updCtx 0 fun c => { c with lq := l }
theorem wit_launch_message : ∀ l ∈ [[], [(0, {})]], let s := launched l
    (arrives s ∧ talks s (msgDie s.msg) ∧ msgDie s.msg < s.part.dies) ∧
    (0 = msgDie s.msg * 64 + s.msg.at' 8 1 ∧ s.msg.at' 8 1 < 64 ∧ olderGen s 0 s.msg.gen = false ∧ (s.ctx 0).valid = true ∧ (s.ctx 0).killing = 0) ∧
    (launchRes s.msg = false ∧ s.msg.at' 9 1 = 0 ∧ s.msg.len.toNat = 32 ∧ s.msg.at' 0xC 2 < (s.ctx 0).launchTable.length) ∧
    ((s.ctx 0).queue (s.msg.arg.toNat % 64)).2.1 = true ∧
    (l = [] ↔ ((s.ctx 0).lq.filter fun p => p.1 == s.msg.arg.toNat % 64).length < ((s.ctx 0).queue (s.msg.arg.toNat % 64)).2.2.2) := by decide +kernel
theorem wit_inval : ∀ n ∈ [1, 2 ^ 57], let s := got (msgOf mINVAL 0 (leBytes 8 0 ++ leBytes 8 n))
    arrives s ∧ olderGen s (msgCtx s) s.msg.gen = false ∧ s.msg.arg.toNat < 64 ∧ s.msg.at' 8 8 ≠ 0 ∧
    s.msg.at' 0 8 + s.msg.at' 8 8 ≤ 2 ^ 57 ∧ s.msg.at' 0 8 < 2 ^ 57 ∧ (s.vdev (s.ctx (msgCtx s)).vdev).resident = true ∧
    talks s (msgDie s.msg) := by unfold msgCtx; decide +kernel
theorem wit_page_response : let c : Command := { copying with status := 2, seq := 6 }; let s : State := { got (msgOf mPAGERESP 0 (leBytes 4 6)) with cmds := [c] }
    arrives s ∧ talks s (msgDie s.msg) ∧ s.msg.gen = (s.ctx (msgCtx s)).gen ∧ parkedUnder s (msgCtx s) (BitVec.ofNat 32 (s.msg.at' 0 4)) = some c ∧ s.cmd c.id = some c := by
  unfold msgCtx; decide +kernel
theorem wit_pod_arrival : let j : PodJoin := { j := 2 }; let b : Bar := { id := 9, level := .pod, owner := j.key, num := 1, expected := 4 }
    let s : State := { got (msgOf mBARRIER 0 ([1, 1, 2, 0] ++ leBytes 4 3)) with joins := [j], bars := [b] }
    arrives s ∧ s.joins.find? (fun j => j.grp == s.msg.grp && j.j.toNat == s.msg.at' 2 2) = some j ∧
    s.bars.find? (fun b => b.level == .pod && b.owner == j.key && b.num == s.msg.at' 1 1) = some b ∧ s.bar b.id = b ∧ s.msg.at' 0 1 = 1 ∧
    b.arrivals + s.msg.at' 4 4 < b.expected := by decide +kernel
theorem wit_refusal : let x : Msg := { dst := 7, tag := 3, type := mINVOKE }; let s : State := { got (msgOf mNACK 0 []) with outbox := [x] }
    arrives s ∧ s.awaits = [] ∧ s.resend = [] ∧ x.dst = s.msg.src ∧ x.tag = s.msg.tag ∧ x.type ≠ mNACK := by decide +kernel
/-- One channel is open, whose marker arrives, while the group's block runs or does not; and one more channel is. -/
theorem wit_marker : ∀ r ∈ [BlockRun.running, .stopped], ∀ l ∈ [[(7, 1)], [(7, 1), (8, 1)]], let c : Cut := { num := 6, due := l }
    let s : State := { ((got (msgOf mMARKER 0 (leBytes 4 6 ++ [1]))).updBlock (one.slice 1).block fun b => { b with run := r }) with cuts := [c] }
    wellSent s.msg = true ∧ c.die = msgDie s.msg ∧ c.grp = s.msg.grp ∧ c.num.toNat = s.msg.at' 0 4 ∧ c.asked = none ∧ s.refused = [] ∧
    (decide (c.written = false ∧ c.due.erase (s.msg.src, s.msg.at' 4 1) = [] ∧ ∀ b ∈ groupBlocks s c.die c.grp, b.run ≠ .running) =
      (r == .stopped && l.length == 1)) := by decide +kernel

/-! ### Management -/

/-- A management command with its payload in hand. -/
def cmdOf (code : W16) (p : List Byte) : State := got (msgOf mMGMT code p)
abbrev takes (s : State) (open' always : Bool) : Prop :=
  wellSent s.msg = true ∧ msgDie s.msg < s.part.dies ∧ controllerUp s (msgDie s.msg) = true ∧ (always = false → (s.die (msgDie s.msg)).recov = false) ∧
    mgmtBusy s (msgDie s.msg) = false ∧ (open' = false → mgmtNode s s.msg = true)
theorem takes_eq (s : State) (a b : Bool) : takes s a b ↔ Taken s a b := Iff.rfl
abbrev lives (s : State) (off k : Nat) : Prop := (match liveCtx s s.msg off with | .ok n => some n | .error _ => none) = some k
theorem lives_eq {s : State} {off k : Nat} (h : lives s off k) : Live s off k := by
  unfold lives at h; unfold Live; split at h <;> simp_all
theorem wit_package_commands : (takes (cmdOf 1 (List.replicate 32 3)) true true ∧ takes (cmdOf 1 []) false false ∧ takes (cmdOf 1 []) false true) ∧
    (msgDie (cmdOf 1 (List.replicate 32 3)).msg = 0 ∧ payOk (cmdOf 1 (List.replicate 32 3)).msg 32 [] = true) := by decide +kernel
theorem wit_registers : (∀ n ∈ [0, 1, 2, 3, 4, 5, 6, 7], let s := cmdOf 1 (leBytes 8 n); takes s false false ∧ payOk s.msg 8 [(2, 6)] = true ∧ s.msg.at' 0 2 = n) ∧
    (∀ n ∈ [1, 2, 3], let s := cmdOf 1 (leBytes 8 n ++ leBytes 8 0xFFFF); takes s false false ∧ payOk s.msg 16 [(2, 6)] = true ∧ s.msg.at' 0 2 = n ∧ s.msg.at' 8 8 < 2 ^ 16) := by decide +kernel
theorem wit_firmware : (∀ n ∈ [8, 256], let s := cmdOf 1 (leBytes 4 0 ++ [1, 0, 0, 0] ++ List.replicate n 7)
      takes s false true ∧ s.msg.at' 4 1 ≤ 1 ∧ s.msg.at' 5 3 = 0 ∧ 16 ≤ s.msg.len.toNat ∧ s.msg.len.toNat ≤ 264 ∧ s.msg.at' 0 4 + (s.msg.len.toNat - 8) ≤ slotBytes) := by
  decide +kernel
theorem wit_context_write : let s := cmdOf 1 ([0, 2, 0, 0, 0, 0, 0, 0] ++ leBytes 8 0x20008)
    takes s false false ∧ (ctxwrArgs s.msg).map (fun p => (p.1, p.2.1, p.2.2.1)) = some (0, 2, 0) ∧ (s.ctx 0).killing = 0 ∧
    (ctxWritten s 0 2 0 (leBytes 8 0x20008)).map Ctx.valid = some true ∧ (s.ctx 0).valid = true := by decide +kernel
theorem wit_context_kill : let s := cmdOf 1 (List.replicate 8 0); takes s false false ∧ payOk s.msg 8 [(1, 7)] = true ∧ lives s 0 0 := by decide +kernel
/-- A request for paddock 1, which belongs to the context's device and is empty, or holds the context and no block of it. -/
def residing (op : Byte) (slot : Option Nat) : State := (cmdOf 1 ([0, op, 0, 0, 0, 0, 0, 0] ++ leBytes 24 2)).updPdk 1 fun p => { p with vdev := some 0, slot0 := slot }
theorem wit_residency : (let s := residing 1 none
      takes s false false ∧ payOk s.msg 32 [(2, 6)] = true ∧ s.msg.at' 1 1 = 1 ∧ lives s 0 0 ∧ maskPdks s.msg 8 = [1] ∧ (s.pdk 1).slot0 = none ∧ (s.pdk 1).slot1 = none ∧
      (s.pdk 1).vdev = some (s.ctx 0).vdev ∧ (s.pdk 1).wstate = .nominal ∧ s.tests = [] ∧ (s.ctx 0).pool + 1 ≤ 64 ∧ (s.ctx 0).left = []) ∧
    (let s := residing 0 (some 0)
     takes s false false ∧ payOk s.msg 32 [(2, 6)] = true ∧ s.msg.at' 1 1 = 0 ∧ lives s 0 0 ∧ maskPdks s.msg 8 = [1] ∧ (s.pdk 1).slot0 = some (0 % 64) ∧ (s.ctx 0).prot = false ∧ blocksOn s 0 1 = []) ∧
    ∀ n ∈ [0, 47], let s := cmdOf 1 ([BitVec.ofNat 8 n, 3, 0, 0, 0, 0, 0, 0]); takes s false false ∧ payOk s.msg 8 [(2, 6)] = true ∧ s.msg.at' 0 1 < 48 ∧ s.msg.at' 1 1 < 4 := by
  decide +kernel
theorem wit_preempt : ∀ op ∈ [0, 1, 2], let s := cmdOf 1 ([0, BitVec.ofNat 8 op] ++ List.replicate 22 0)
    takes s false false ∧ payOk s.msg 24 [(2, 6), (22, 2)] = true ∧ s.msg.at' 1 1 = op ∧ lives s 0 0 ∧ (s.blocks.map Block.id).Nodup ∧
    (∃ b ∈ s.blocks, b.ck = 0 ∧ b.run ≠ .ended ∧ (s.grid b.grid).htag.toNat = s.msg.at' 8 8 ∧ b.blk.toNat = s.msg.at' 16 6 ∧ b.run = .running ∧ b.preempt = none) := by
  decide +kernel
/-- A command to load an image of one code word. -/
def loading : State :=
  (cmdOf 1 ([0, 0, 0, 0, 0, 0, 0, 0] ++ leBytes 8 0x90000 ++ leBytes 8 0xA0000 ++ leBytes 8 0xB0000)).wr 0x90000 (leBytes 4 0x4D494255 ++ [1, 0, 3, 0] ++ leBytes 4 64 ++ leBytes 4 8)
/-- Commands whose blocks are still asked for, or step; and one whose requests have ended. -/
theorem wit_asked : ∀ p ∈ [(some 5, false, true), (none, true, true), (none, false, false)], let m := msgOf mMGMT 0x14 []
    let s : State := { (one.updBlock (one.slice 1).block fun b => { b with preempt := p.1, stepping := p.2.1 }) with asked := [(m, [(one.slice 1).block])] }
    s.asked = [(m, [(one.slice 1).block])] ∧ (s.block (one.slice 1).block).run = .running ∧
    (p.2.2 = true ↔ (s.block (one.slice 1).block).preempt.isSome = true ∨ (s.block (one.slice 1).block).stepping = true) := by decide +kernel
theorem wit_load : let s := loading
    takes s false false ∧ payOk s.msg 32 [(2, 6)] = true ∧ s.msg.at' 1 1 ≤ 1 ∧ lives s 0 0 ∧
    (match readLoad s 0 (s.msg.at' 8 8) with
     | (some g, u) => g.launches.all (launchOk g) && g.handlers.all (handlerOk g) && decide (g.relocs = []) && decide (s.msg.at' 16 8 % 2 ^ g.calign = 0) &&
        decide (s.msg.at' 24 8 % 2 ^ g.dalign = 0) && decide (s.msg.at' 16 8 + g.code.length ≤ 2 ^ 57) && decide (s.msg.at' 24 8 + g.data.length ≤ 2 ^ 57) &&
        (mappedRW u 0 g.code.length (s.msg.at' 16 8) g.code.length).1 &&
        (mappedRW (mappedRW u 0 g.code.length (s.msg.at' 16 8) g.code.length).2 0 g.data.length (s.msg.at' 24 8) g.data.length).1 && decide (g.code.length = 8)
     | (none, _) => false) = true := by decide +kernel
/-- A saved block, to be exported to context 5 of die 1 of node 9. -/
def exporting : State :=
  let s := (cmdOf 1 (List.replicate 8 0 ++ leBytes 8 0x100000 ++ leBytes 8 6724 ++ [9, 0, 1, 5, 0, 0, 0, 0])).updBlock (one.slice 1).block fun b => { b with run := .saved }
  { s with saved := [{ id := 9, block := (one.slice 1).block, addr := 0x100000, len := 6724 }] }
theorem wit_export : let s := exporting; let v : Saved := { id := 9, block := (one.slice 1).block, addr := 0x100000, len := 6724 }
    (takes s false false ∧ payOk s.msg 32 [(2, 6), (28, 4)] = true ∧ s.msg.at' 1 1 = 0 ∧ s.msg.at' 26 1 < 4 ∧ s.msg.at' 27 1 < 64 ∧ lives s 0 0) ∧
    (s.saved.find? (fun v => v.addr == s.msg.at' 8 8 && (s.block v.block).ck == 0) = some v ∧ (s.ctx 0).prot = false ∧ v.len ≤ s.msg.at' 16 8) ∧
    (s.vdev (s.ctx 0).vdev).resident = true ∧ s.cuts = [] ∧ s.resend = [] ∧ (s.block v.block).id = v.block ∧ (s.block v.block).run = .saved ∧
    (s.grid (s.block v.block).grid).die * 64 + (s.grid (s.block v.block).grid).ctx = 0 := by decide +kernel
/-- A command to import the image that `away` holds. -/
def importing : State := { away with msg := msgOf mMGMT 1 ([0, 1, 0, 0, 0, 0, 0, 0] ++ leBytes 8 0x100000 ++ leBytes 8 6724 ++ List.replicate 8 0) }
theorem wit_import : let s := importing
    takes s false false ∧ payOk s.msg 32 [(2, 6), (28, 4)] = true ∧ s.msg.at' 1 1 = 1 ∧ lives s 0 0 ∧ (importImage s 0 (s.msg.at' 8 8) (s.msg.at' 16 8) false).isSome ∧
    ∀ b ∈ s.blocks, b.id < s.uid := by decide +kernel
theorem wit_devices : (let s := cmdOf 0x18 ([5, 0, 0, 0, 0, 0, 0, 0] ++ leBytes 24 4)
      takes s false false ∧ payOk s.msg 32 [(1, 7)] = true ∧ s.msg.at' 0 1 < 32 ∧ s.msg.arg = 0x18 ∧
      (reassigned s (s.msg.at' 0 1) (msgDie s.msg) (maskPdks s.msg 8)).flatMap (ctxsOfVdev s) = []) ∧
    (∀ op ∈ [0, 1, 2], ∀ v ∈ [0, 5], let s := cmdOf 0x19 ([BitVec.ofNat 8 v, BitVec.ofNat 8 op] ++ List.replicate 14 0)
      takes s false false ∧ payOk s.msg 16 [(3, 5)] = true ∧ s.msg.at' 0 1 < 32 ∧ s.msg.at' 1 1 = op ∧ s.msg.arg.toNat = 0x19) ∧
    (∃ k ∈ ctxsOfVdev (cmdOf 0x19 []) 0, k = 0) ∧ ctxsOfVdev (cmdOf 0x19 []) 5 = [] ∧
    (∀ k ∈ [4, 12], let s := cmdOf 0x19 ([5, 3, BitVec.ofNat 8 k] ++ List.replicate 5 0 ++ leBytes 8 0x80000)
      takes s false false ∧ payOk s.msg 16 [(3, 5)] = true ∧ s.msg.at' 0 1 < 32 ∧ s.msg.at' 1 1 = 3 ∧ 4 ≤ s.msg.at' 2 1 ∧ s.msg.at' 2 1 ≤ 12 ∧
      s.msg.at' 8 8 % 4096 = 0 ∧ s.msg.at' 8 8 + 64 * 2 ^ s.msg.at' 2 1 ≤ s.part.hbmBytes) := by decide +kernel
theorem wit_windows_joins : (let s := cmdOf 1 ([1, 0, 2, 0, 0, 0, 0, 0] ++ leBytes 8 0x60000 ++ leBytes 8 0x1000 ++ [5, 0, 7, 0])
      takes s false false ∧ payOk s.msg (24 + 2 * s.msg.at' 2 1) [(4, 4)] = true ∧ 2 ≤ s.msg.at' 2 1 ∧ s.msg.at' 2 1 ≤ 64 ∧
      s.msg.at' 8 8 + s.msg.at' 16 8 ≤ 2 ^ 57 ∧ lives s 3 0) ∧
    (let s := cmdOf 1 ([2, 0, 0, 0, 0, 4, 1, 0] ++ [5, 0])
     takes s false false ∧ payOk s.msg (8 + 2 * s.msg.at' 6 1) [] = true ∧ s.msg.at' 0 2 ≠ 0 ∧ s.msg.at' 4 2 ≠ 0 ∧ s.msg.at' 4 2 ≤ 1024 ∧ s.msg.at' 6 1 ≠ 0 ∧
     lives s 7 0 ∧ s.joins = []) := by decide +kernel
/-- A request about session 1 of context 0. -/
def asking (op : Byte) (l : List Session) : State := { cmdOf 1 ([0, op, 1, 12, 4, 0, 7, 0] ++ leBytes 8 0x80000 ++ List.replicate 96 0) with sessions := l }
theorem wit_sessions : (let s := asking 0 []
      takes s false false ∧ s.msg.at' 1 1 = 0 ∧ lives s 0 0 ∧ (List.range 4).find? (fun i => !(s.sessions.any fun x => x.key == msgDie s.msg * 4 + i)) = some 0 ∧
      (sessionOf s s.msg 0 0).isSome ∧ s.carried = []) ∧
    ∀ op ∈ [1, 2, 3], let s := asking (BitVec.ofNat 8 op) [marking]
      takes s false false ∧ s.msg.at' 1 1 = op ∧ lives s 0 0 ∧ namedSession s s.msg 0 = some marking ∧ (sessionOf s s.msg 0 marking.id).isSome := by decide +kernel
/-- A command about the block of context 0 whose `%blk` is 0, as it stands. -/
def debugging (op : Byte) (r : BlockRun) : State :=
  { ((cmdOf 1 ([0, op, 1, 0] ++ List.replicate 12 0)).updBlock (one.slice 1).block fun b => { b with run := r }) with sessions := [marking] }
theorem wit_debug_commands : (∀ op ∈ [0, 1, 2, 3], ∀ r ∈ [BlockRun.running, .stopped], let s := debugging (BitVec.ofNat 8 op) r; let b := s.block (one.slice 1).block
      (takes s false false ∧ payOk s.msg 16 [(10, 6)] = true ∧ s.msg.at' 1 1 = op ∧ lives s 0 0 ∧ blockNamed s 0 (s.msg.at' 4 6) = some b ∧ sessionsOf s 0 ≠ [] ∧ s.block b.id = b) ∧
      b.run = r ∧ b.stop = none ∧ s.msg.at' 2 2 ≠ 0 ∧ (s.slices.map Slice.id).Nodup ∧
      ∃ y ∈ s.slices, y.block = b.id ∧ y.handler = false ∧ y.run ≠ .retired ∧ y.alive ≠ 0 ∧ s.slice y.id = y) ∧
    (let s := debugging 0 .running; let b := (one.slice 1).block
     let u := askStop s b { cause := 3, pc := (firstPc s b).1, slice := (firstPc s b).2, msg := some s.msg }
     stopReady u b false = true ∧ ((settleBlock u b).block b).run = .running ∧ ((settleBlock u b).ctx ((settleBlock u b).block b).ck).prot = false) := by decide +kernel
/-- A command about cut 6 of group 0, whose other member is node 7; the context runs no block. -/
def cutting (op : Byte) (l : List Cut) : State := { cmdOf 1 (leBytes 4 6 ++ [0, 0, 2, op] ++ List.replicate 8 0 ++ [0, 0, 7, 0]) with cuts := l, blocks := [] }
theorem wit_cuts : (let s := cutting 0 []
      (takes s false false ∧ payOk s.msg (16 + 2 * s.msg.at' 6 1) [(10, 6)] = true ∧ s.msg.at' 7 1 = 0 ∧ s.cuts = [] ∧ s.sessions = [] ∧ s.resend = []) ∧
      groupCtxs s (msgDie s.msg) (BitVec.ofNat 16 (s.msg.at' 4 2)) ≠ [] ∧ (nodesAt s.msg 16 (s.msg.at' 6 1)).contains s.node = true ∧
      ((nodesAt s.msg 16 (s.msg.at' 6 1)).any fun n => n != s.node) = true ∧ groupBlocks s (msgDie s.msg) (BitVec.ofNat 16 (s.msg.at' 4 2)) = []) ∧
    ∀ op ∈ [1, 2], let c : Cut := { num := 6, told := true }; let s := cutting (BitVec.ofNat 8 op) [c]
      takes s false false ∧ payOk s.msg (16 + 2 * s.msg.at' 6 1) [(10, 6)] = true ∧ s.msg.at' 7 1 = op ∧
      s.cuts.find? (fun c => c.die == msgDie s.msg && c.grp == BitVec.ofNat 16 (s.msg.at' 4 2) && c.num == BitVec.ofNat 32 (s.msg.at' 0 4)) = some c ∧
      s.cuts = [c] ∧ s.resend = [] ∧ c.told = true ∧ c.held = [] ∧ groupBlocks s c.die c.grp = [] := by decide +kernel
/-- A command to replay a section of no image. -/
def replaying : State := cmdOf 1 (List.replicate 8 0 ++ leBytes 8 0x90000 ++ leBytes 8 64)
theorem wit_replay : let s := replaying
    takes s false false ∧ payOk s.msg 24 [(2, 6)] = true ∧ 64 ≤ s.msg.at' 16 8 ∧ s.msg.at' 8 8 + s.msg.at' 16 8 ≤ s.part.hbmBytes ∧
    leAt (s.rd (s.msg.at' 8 8) 64) 4 2 = s.msg.at' 0 2 ∧ ctxOfGrp s (msgDie s.msg) (BitVec.ofNat 16 (s.msg.at' 0 2)) = some 0 ∧
    (importImages 0 (leAt (s.rd (s.msg.at' 8 8) 64) 0x18 4) (s.msg.at' 8 8 + 64) s).map (·.2) = some (0x90000 + 64) ∧
    0x90000 + 64 ≤ s.msg.at' 8 8 + s.msg.at' 16 8 ∧ leAt (s.rd (s.msg.at' 8 8) 64) 0x1C 4 = 0 ∧ s.replays = [] := by decide +kernel
/-- A section whose image is still away, and one whose blocks are back, of a group that only one die holds. -/
theorem wit_replayed : ∀ a ∈ [true, false], let m := msgOf mMGMT 0x23 []
    let s : State := { (away.updBlock awayRec.block fun b => { b with hold := a }) with replays := [{ grp := 0, waiting := [(0, [], m)] }] }
    s.replays = [{ grp := 0, waiting := [(0, [], m)] }] ∧ 0 < s.part.dies ∧ (ctxOfGrp s 0 0).isSome = true ∧ stillAway s 0 0 = a ∧
    ∀ e < s.part.dies, e ≠ 0 → ctxOfGrp s e 0 = none := by decide +kernel

/-! ### Words, steps, reset -/

def allWords : List (Nat × Instr) := wordsControl ++ wordsScalar ++ wordsVector ++ wordsCross ++ wordsMemory ++ wordsMatrix
/-- Every word of the lists is the word of its instruction under its scheduling fields, and its instruction is well formed. -/
theorem wit_words : (allWords.all fun p => p.2.wf && admits { bb := 15, cbar := 15 } p.2 && decide (encode (Sched.of p.1) p.2 = some p.1) && decide (p.1 < 2 ^ 64) &&
    decide ((Sched.of p.1).ver ≠ 3 ∧ (Sched.of p.1).ver ≠ 2)) = true := by decide +kernel
theorem wit_version : versionOk {} 0 ∧ versionOk {} 1 ∧ versionOk { gen7 := true } 2 := by unfold versionOk; decide
/-- The machine about to issue a word. -/
def at0 (w : Nat) : State := State.reset.withFetchWord 64 w
/-- What the fetch of a move finds: the word and the state it leaves. -/
def fetched (s : State) : Option (W64 × State) :=
  let s1 := regroup s (formGroup s (s.slice 1))
  match fetchAt s1 (s1.slice ((formGroup s (s.slice 1)).headD 0)) with
  | (.word w, u) => some (w, u)
  | _ => none
/-- A word that goes on, one with a bit that must be 0, and one that waits for a result on its way. -/
theorem wit_step_issue : (∀ w ∈ [0, 0x80000, 0x0000000410702000], let s := at0 w; let s0 : State := { s with agenda := [] }
      s.powered = true ∧ s.agenda = [.issue 1] ∧ 1 ∈ formGroup s0 (s0.slice 1) ∧ fetchHeld s0 (s0.slice 1) = false ∧ (∀ j ∈ formGroup s0 (s0.slice 1), breakDue s0 (s0.slice j) = false) ∧
      (fetched s0).map (·.1) = some (BitVec.ofNat 64 w)) ∧
    (fetched { at0 0 with agenda := [] }).map (fun p => (answered (decode (hdrOf p.2 (p.2.slice 1)) p.1.toNat), mustHold p.2 [1] .nop p.1, usesPoison p.2 [1] .nop)) =
      some ((none, some .nop), false, false) ∧
    (let s : State := { at0 0 with agenda := [], poison := [0x20008] }
     (fetched s).map (fun p => (answered (decode (hdrOf p.2 (p.2.slice 1)) p.1.toNat), mustHold p.2 [1] .nop p.1, usesPoison p.2 [1] .nop)) =
       some ((none, some .nop), false, true)) ∧
    (fetched { at0 0x80000 with agenda := [] }).map (fun p => (answered (decode (hdrOf p.2 (p.2.slice 1)) p.1.toNat)).1) = some (some 4) ∧
    (let s := (at0 0x0000000410702000).mapSlices fun x => { x with land := [.s 4 7] }
     (fetched { s with agenda := [] }).map (fun p => (answered (decode (hdrOf p.2 (p.2.slice 1)) p.1.toNat), mustHold p.2 [1] (.sadd 7 4 (.reg 4)) p.1)) =
       some ((none, some (.sadd 7 4 (.reg 4))), true)) := by decide +kernel
/-- The sum of `s4` and itself, with a shadow that holds another value in a register: an error where that is `s4`, none where it is `s20`. -/
theorem wit_shadows : ∀ r ∈ [4, 20], let s := at0 0x0000000410702000; let s : State := { s with agenda := [], shadows := [(s.slice 1).ws (BitVec.ofNat 6 r) 7] }
    (fetched s).map (fun q => let p := atIssue q.2 [1] (.sadd 7 4 (.reg 4)) q.1
      match exec (.sadd 7 4 (.reg 4)) p.1 with
      | .next t => (match shadowIssue (.sadd 7 4 (.reg 4)) [1] p.2 p.1 t with
        | .error j => some j
        | .ok _ => none)
      | _ => none) = some (if r = 4 then some 1 else none) := by decide +kernel
theorem wit_canonical : (at0 0).canonical := by unfold State.canonical; decide +kernel
theorem wit_tiles : hTiles (fetchBlock State.reset 1).header ≠ 0 ∧ 0 ∈ (fetchBlock State.reset 1).pdks := by decide +kernel

/-! ### Single steps, each against the manual or a calculation by hand -/

/-- Slice 1 after an instruction that it issues alone, from an update of `one`. -/
def ran (i : Instr) (f : Slice → Slice) : Slice := match exec i (at1 f) with
  | .next t => t.slice 1
  | _ => {}
/-- Lane 0 of `v3` after an instruction, with lane 0 of `v4` and `v5` given, under an `fr` image. -/
def lane0 (i : Instr) (fr : W64) (a b : W32) : W32 := (ran i fun x => ({ x with fr := fr }.wv 4 1 fun _ => a).wv 5 1 fun _ => b).rv 3 0
/-- `s3` after an instruction, with `s4` and `s5` given. -/
def scalar3 (i : Instr) (a b : W64) : W64 := (ran i fun x => (x.ws 4 a).ws 5 b).rs 3
/-- The table of conversions of 05 R119. -/
theorem test_vcvt_table : [lane0 (.vcvt {} .f16 .f32 3 4) 0 0x4788B800 0, lane0 (.vcvt {} .f16 .f32 3 4) 0x8000 0x4788B800 0,
    lane0 (.vcvt {} .bf16 .f32 3 4) 0 0x3F808000 0, lane0 (.vcvt {} .i32 .f32 3 4) 0 0xC0600000 0, lane0 (.vcvt {} .i32 .f32 3 4) 0x1000 0xC0600000 0,
    lane0 (.vcvt {} .i32 .f32 3 4) 0 0x7FC00000 0, lane0 (.vcvt {} .i8 .i32 3 4) 0 0x12C 0, lane0 (.vcvt {} .i8 .i32 3 4) 0x8000 0x12C 0,
    lane0 (.vcvt {} .f32 .f16 3 4) 0x4000 1 0, lane0 (.vcvt {} .n32 .i32 3 4) 0 0xFFFFFFFF 0, lane0 (.vcvt {} .n32 .i32 3 4) 0x8000 0xFFFFFFFF 0,
    lane0 (.vcvt {} .i32 .n32 3 4) 0x8000 0x80000000 0] =
    [0x7C00, 0x7BFF, 0x3F80, 0xFFFFFFFC, 0xFFFFFFFD, 0, 0x2C, 0x7F, 0, 0xFFFFFFFF, 0, 0x7FFFFFFF] := by decide +kernel
/-- 04 R81, R82: wraps, signs and the corners of division and of shifts. -/
theorem test_scalar_corners : [scalar3 (.sadd 3 4 (.reg 5)) (-1) 1, scalar3 (.ssub 3 4 (.imm (-1))) 0 0, scalar3 (.smulh true 3 4 (.reg 5)) (-1) 1,
    scalar3 (.smulh false 3 4 (.reg 5)) (-1) 2, scalar3 (.sdiv true 3 4 (.reg 5)) 0x8000000000000000 (-1), scalar3 (.srem true 3 4 (.reg 5)) 0x8000000000000000 (-1),
    scalar3 (.sdiv true 3 4 (.reg 5)) (-7) 2, scalar3 (.srem true 3 4 (.reg 5)) (-7) 2, scalar3 (.sdiv false 3 4 (.reg 5)) 5 0, scalar3 (.srem false 3 4 (.reg 5)) 5 0,
    scalar3 (.sshl 3 4 (.imm 64)) 1 0, scalar3 (.ssra 3 4 (.imm 64)) (-2) 0, scalar3 (.sbfe true 3 4 4 7) 0xFF0 0, scalar3 (.sbfi 3 4 4 7) 0xFF 0,
    scalar3 (.scmp .lt true 3 4 (.reg 5)) (-1) 1, scalar3 (.scmp .lt false 3 4 (.reg 5)) (-1) 1, scalar3 (.sclz 3 4) 0 0, scalar3 (.spopc 3 4) (-1) 0,
    scalar3 (.sext .i8 3 4) 0x180 0, scalar3 (.sext .n8 3 4) 0x180 0] =
    [0, 1, -1, 1, 0x8000000000000000, 0, -3, -1, -1, 5, 0, -1, -1, 0xFF0, 1, 0, 64, 64, 0xFFFFFFFFFFFFFF80, 0x80] := by decide +kernel
/-- 05 R109, R110: element by element. -/
theorem test_vector_corners : [lane0 (.vadd {} .n8 3 4 5) 0 0xFF01FF01 0x01010101, lane0 (.vmulh {} .i32 3 4 5) 0 0xFFFFFFFF 1, lane0 (.vmulh {} .n32 3 4 5) 0 0xFFFFFFFF 2,
    lane0 (.vshl {} .n16 3 4 5) 0 0x00010001 0x00100001, lane0 (.vsra {} .i32 3 4 5) 0 0x80000000 40, lane0 (.vmin {} .i8 3 4 5) 0 0xFF7F0180 0x00000000,
    lane0 (.vabs {} .i32 3 4) 0 0x80000000 0, lane0 (.vclz {} .n16 3 4) 0 0x00018000 0, lane0 (.vbfe {} .i32 3 4 5 5) 0 0x80 4, lane0 (.vbfe {} .n32 3 4 5 5) 0 0x80 4,
    lane0 (.vaddImm {} .n32 3 4 0xFFFFF) 0 5 0] =
    [0x00020002, 0xFFFFFFFF, 1, 0x00000002, 0xFFFFFFFF, 0xFF000080, 0x80000000, 0x000F0000, 0xFFFFFFF8, 8, 4] := by decide +kernel
/-- 05 R113-R118: 1 + 2, 2 * 3, the smaller zero, a signalling compare and exact powers of 2. -/
theorem test_float_values : [lane0 (.vfadd {} .f32 3 4 5) 0 0x3F800000 0x40000000, lane0 (.vfmul {} .f32 3 4 5) 0 0x40000000 0x40400000,
    lane0 (.vfadd {} .f32 3 4 5) 0 0x7F800000 0xFF800000, lane0 (.vexp2 {} .f32 3 4) 0 0x40400000 0, lane0 (.vlog2 {} .f32 3 4) 0 0x41000000 0,
    lane0 (.vrcp {} .f32 3 4) 0 0x40800000 0, lane0 (.vrsq {} .f32 3 4) 0 0x40800000 0] =
    [0x40400000, 0x40C00000, 0x7FC00000, 0x41000000, 0x40400000, 0x3E800000, 0x3F000000] := by decide +kernel
/-- 02 R31, 04 R84: `k0` keeps to the alive lanes, and other masks do not. -/
theorem test_masks : (ran (.kmovImm 0 (-1)) fun x => { x with alive := 5 }).rk 0 = 5 ∧ (ran (.kmovImm 1 (-1)) fun x => { x with alive := 5 }).rk 1 = 0xFFFFFFFF := by
  decide +kernel
/-- 04 R86: an offset stays inside, and a shorter length keeps the tag. -/
theorem test_capabilities : ((ran (.cset 3 2 (.imm 32)) fun x => x.wc 2 cap64).rc 3).len = 32 ∧ ((ran (.coff 3 2 (.imm 16)) fun x => x.wc 2 cap64).rc 3).base = 0x110 ∧
    ((ran (.coff 3 2 (.imm 16)) fun x => x.wc 2 cap64).rc 3).len = 48 ∧ ((ran (.cperm 3 2 (.imm 1)) fun x => x.wc 2 cap64).rc 3).perm = 1 := by decide +kernel
/-- 04 R88-R91: a branch counts words from its own address, a call leaves the next one, a loop of two ends after its second pass. -/
theorem test_control : (ran (.br .always 0 0 (-1)) id).pc = 0x20000 ∧ (ran (.call 5 2) id).rs 5 = 0x20010 ∧ (ran (.br .ne 0 0 2) id).pc = 0x20010 ∧
    (ran (.loopi true 2 3) id).lc1 = { active := true, count := 2, start := 0x20010, stop := 0x20020 } ∧ (ran (.loopi false 0 3) id).pc = 0x20028 ∧
    (ran .nop fun x => { x with lc0 := { active := true, count := 2, start := 0x20000, stop := 0x20008 } }).pc = 0x20000 ∧
    (ran .nop fun x => { x with lc0 := { active := true, count := 1, start := 0x20000, stop := 0x20008 } }).pc = 0x20010 := by decide +kernel
/-- 05 R125-R128 of one slice. -/
theorem test_cross_lane : (ran (.shfUp {} false 3 1 4 5) fun x => (x.wv 4 (-1) fun l => BitVec.ofNat 32 l).ws 5 1).rv 3 5 = 4 ∧
    (ran (.shfUp {} false 3 1 4 5) fun x => (x.wv 4 (-1) fun l => BitVec.ofNat 32 l).ws 5 1).rk 1 = 1 ∧
    (ran (.voteBal {} false 3 1) fun x => x.wk 1 0xF0).rs 3 = 0x2000000004 ∧
    (ran (.vred {} false .add .n32 3 4) fun x => x.wv 4 (-1) fun l => BitVec.ofNat 32 l).rv 3 31 = 496 ∧
    (ran (.vscan {} false .add .n32 3 4) fun x => x.wv 4 (-1) fun l => BitVec.ofNat 32 l).rv 3 4 = 10 := by decide +kernel
/-- A state after an instruction; the state itself where none is next. -/
def after (i : Instr) (s : State) : State := match exec i s with
  | .next t => t
  | _ => s
/-- 13 R230, R231: a software trap's record, and its slice held at the next word. -/
theorem test_trap : let t := after (.trap 7) trp
    ((t.punit 0).traps.map fun e => (e.trec.pc, e.trec.rpc, e.trec.info, e.trec.code)) = [(0x20008, 0x20010, 7, tSWTRAP)] ∧ (t.slice 1).run = .held := by decide +kernel
/-- 11 R190, 02 R50: a store is little-endian, a load of a byte extends its sign, and its result lands after it. -/
theorem test_store_load : let s := (after (.st .plain .core .n32 9 2 .none 0) (held.mapSlices fun x => x.ws 9 0x11223384)).mapSlices fun x => { x with pc := 0x20008 }
    let t := after (.ld .plain .core .i8 10 2 .none 0) s
    (rdBytes s (s.slice 1) ((s.slice 1).rc 2) 256 4 = [0x84, 0x33, 0x22, 0x11]) ∧ (t.slice 1).rs 10 = 0 ∧
    ((after (.loadDataReturn 1) t).slice 1).rs 10 = 0xFFFFFFFFFFFFFF84 := by decide +kernel
/-- 11 R201, R202: an atomic add answers the old value; 12 and 11 R208: the second of two arrivals ends the phase. -/
theorem test_atomic_barrier : let s := after (.st .plain .core .n32 9 2 .none 0) (held.mapSlices fun x => (x.ws 9 5).ws 10 7)
    let t := after (.atm {} .add .plain .core .n32 11 2 .none 10) s
    rdBytes t (t.slice 1) ((t.slice 1).rc 2) 256 4 = [12, 0, 0, 0] ∧ ((after (.loadDataReturn 1) t).slice 1).rs 11 = 5 ∧
    ((after (.barArr .core 3) (barred 1 [7] [])).bar 9).phase = 1 ∧ ((after (.barArr .core 3) (barred 0 [] [])).bar 9).arrivals = 1 := by decide +kernel
/-- 15 R263: a row written from two registers stands in the tile, columns 0 to 31 from the first. -/
def rowWritten : State := after (.matrixPerform 0) (mx.updUnit 0 fun u => { u with mq := [mxOne (.mwr .i32 11 3 0 0)] })
theorem test_matrix_row : (rowWritten.punit 0).tiles.get (tileKey 11 1 31) = 7 ∧ (rowWritten.punit 0).tiles.get (tileKey 11 1 32) = 8 ∧
    (rowWritten.punit 0).tiles.get (tileKey 11 0 0) = 0 := by decide +kernel
/-- The steps of whole moves: a word goes on, an undefined one traps, a machine without power stands still. -/
theorem test_step_word : (match step (at0 0) with | .next t => (t.slice 1).pc == 0x20010 | _ => false) = true := by decide +kernel
theorem test_step_undefined : (match step ((at0 0xFF).updCtx 0 fun c => c.setFld 0x28 8 0x20010) with
    | .next t => (t.slice 1).run == .held && (t.slice 1).pc == 0x20008 | _ => false) = true := by decide +kernel
theorem test_step_unpowered : step { State.reset with powered := false } = .fault .unpowered := by rfl
theorem test_power_returns : (after .railFault { one with node := 5, flash := { node := 7 } }).node = 7 ∧
    (after .railFault one).slices = [] ∧ (after .railFault one).mem = [] := by decide +kernel

/-! ### Ill-formed instructions (03 R77) -/

/-- A negated predicate without a mask. -/
def badPred : Pred := ⟨0, true⟩
/-- For each check of the scalar and control forms a term that it refuses. -/
def illControl : List Instr := [
  .br .uo 1 2 0, .br .always 1 0 0, .br .always 0 1 0, .brS .or_ 1 2 3, .brS .always 0 0 3, .loop false 1 0, .loop true 1 (-1), .loopi false 1 0, .exit badPred, .rdsr 1 0,
  .rdsr 1 0x14, .rdsr 1 0x200, .rdsrV badPred 1 1, .rdsrV {} 1 0x14, .wrsr 0xFF 1, .wrsr 0x115 1, .wrsr 0x116 1, .wrsr 0x117 1, .fmt 8, .fmt 0x80, .fmt 0x800, .fmt 0x080000,
  .scmp .uo false 1 2 (.reg 3), .scmp .always true 1 2 (.reg 3), .sext .n64 1 2, .sext .f32 1 2, .sbfe false 1 2 60 4, .sbfi 1 2 63 1]
theorem test_ill_formed_control : (illControl.all fun i => !i.wf) = true := by decide +kernel
/-- The same of the forms of the vector lanes. -/
def illVector : List Instr := [
  .vadd badPred .n32 1 2 3, .vadd {} .f32 1 2 3, .vsub badPred .n32 1 2 3, .vsub {} .n64 1 2 3, .vmul badPred .n32 1 2 3, .vmul {} .none 1 2 3, .vmulh badPred .n32 1 2 3,
  .vmulh {} .f16 1 2 3, .vmad badPred .n32 1 2 3 4, .vmad {} .bf16 1 2 3 4, .vand badPred 1 2 3, .vor badPred 1 2 3, .vxor badPred 1 2 3, .vshl badPred .n32 1 2 3,
  .vshl {} .i32 1 2 3, .vshr badPred .n32 1 2 3, .vshr {} .i8 1 2 3, .vsra badPred .i32 1 2 3, .vsra {} .n32 1 2 3, .vmin badPred .n32 1 2 3, .vmin {} .f32 1 2 3,
  .vmax badPred .n32 1 2 3, .vmax {} .f32 1 2 3, .vabs badPred .i32 1 2, .vabs {} .n32 1 2, .vneg badPred .i32 1 2, .vneg {} .n32 1 2, .vcmp badPred .eq .n32 1 2 3,
  .vcmp {} .uo .n32 1 2 3, .vcmp {} .eq .n16 1 2 3, .vsel badPred 1 2 3 4, .vmov badPred 1 2, .vli badPred .none 1 0, .vli {} .n64 1 0, .vbcast badPred .none 1 2,
  .vbcast {} .i16 1 2, .vclz badPred .n32 1 2, .vclz {} .i32 1 2, .vpopc badPred .n32 1 2, .vpopc {} .i32 1 2, .vbfe badPred .n32 1 2 0 0, .vbfe {} .n16 1 2 0 0,
  .vfadd badPred .f32 1 2 3, .vfadd {} .n32 1 2 3, .vfsub badPred .f32 1 2 3, .vfsub {} .n32 1 2 3, .vfmul badPred .f32 1 2 3, .vfmul {} .n32 1 2 3, .vfma badPred .f32 1 2 3 4,
  .vfma {} .n32 1 2 3 4, .vfmin badPred .f32 1 2 3, .vfmin {} .n32 1 2 3, .vfmax badPred .f32 1 2 3, .vfmax {} .n32 1 2 3, .vfabs badPred .f32 1 2, .vfabs {} .n32 1 2,
  .vfneg badPred .f32 1 2, .vfneg {} .n32 1 2, .vfcmp badPred .eq .f32 1 2 3, .vfcmp {} .always .f32 1 2 3, .vfcmp {} .eq .n32 1 2 3, .vfcls badPred .f32 1 2, .vfcls {} .n32 1 2,
  .vrcp badPred .f32 1 2, .vrcp {} .n32 1 2, .vrsq badPred .f32 1 2, .vrsq {} .n32 1 2, .vexp2 badPred .f32 1 2, .vexp2 {} .n32 1 2, .vlog2 badPred .f32 1 2, .vlog2 {} .n32 1 2,
  .vqb .f16 1 2 3, .vdqb badPred .fb8 1 2 true, .vdqb {} .f16 1 2 true, .xvStep false 1 253 0, .xvRun true 1 253 0 2]
theorem test_ill_formed_vector : (illVector.all fun i => !i.wf) = true := by decide +kernel
/-- The same of conversions, of forms across lanes and of immediate forms. -/
def illCross : List Instr := [
  .vcvt badPred .n32 .f32 1 2, .vcvt {} .n64 .f32 1 2, .vcvt {} .f32 .none 1 2, .vcvt {} .f32 .f32 1 2, .vpack badPred .f16 .f32 1 2 3,
  .vpack {} .f32 .f16 1 2 3, .vpack {} .n8 .f16 1 2 3, .vunpack badPred .f32 .f16 1 2 true, .vunpack {} .f16 .f32 1 2 true, .shf badPred false 1 2 3 4, .shfUp badPred false 1 2 3 4,
  .shfDn badPred false 1 2 3 4, .shfX badPred false 1 2 3 4, .voteAny badPred false 1 2, .voteAll badPred false 1 2, .voteBal badPred false 1 2,
  .vred badPred false .add .n32 1 2, .vred {} false .add .n8 1 2, .vred {} false .xor .f32 1 2, .vscan badPred false .add .n32 1 2, .vscan {} false .add .n16 1 2,
  .vscan {} false .and .f32 1 2, .vaddImm badPred .n32 1 2 3, .vaddImm {} .f32 1 2 3, .vmulImm badPred .n32 1 2 3, .vmulImm {} .f32 1 2 3, .vandImm badPred 1 2 3,
  .vorImm badPred 1 2 3, .vxorImm badPred 1 2 3, .vshlImm badPred .n32 1 2 3, .vshlImm {} .i32 1 2 3, .vshrImm badPred .n32 1 2 3, .vshrImm {} .i32 1 2 3,
  .vsraImm badPred .i32 1 2 3, .vsraImm {} .n32 1 2 3, .vminImm badPred .n32 1 2 3, .vminImm {} .f32 1 2 3, .vmaxImm badPred .n32 1 2 3, .vmaxImm {} .f32 1 2 3,
  .vcmpImm badPred .eq .n32 1 2 3, .vcmpImm {} .or_ .n32 1 2 3, .vcmpImm {} .eq .n8 1 2 3, .vfaddImm badPred .f32 1 2 3, .vfaddImm {} .n32 1 2 3, .vfmulImm badPred .f32 1 2 3,
  .vfmulImm {} .n32 1 2 3]
theorem test_ill_formed_cross : (illCross.all fun i => !i.wf) = true := by decide +kernel
/-- The same of memory, commands, barriers, the matrix unit and tasks. -/
def illMemory : List Instr := [
  .ld .plain .core .f32 1 2 .none 0, .ld .rel .core .n32 1 2 .none 0, .ld .plain .die .n32 1 2 .none 0, .ld .plain .core .n32 1 2 (.vector 3) 0,
  .st .plain .core .f32 1 2 .none 0, .st .acq .core .n32 1 2 .none 0, .st .plain .pod .n32 1 2 .none 0, .st .plain .core .n32 1 2 (.vector 3) 0,
  .ldc .rel .core 1 2 .none 0, .ldc .plain .quad 1 2 .none 0, .ldc .plain .core 1 2 (.vector 3) 0, .stc .acq .core 1 2 .none 0, .stc .plain .quad 1 2 .none 0,
  .stc .plain .core 1 2 (.vector 3) 0, .ldV badPred .n32 1 2 .none 0, .ldV {} .n64 1 2 .none 0, .stV badPred .n32 1 2 .none 0, .stV {} .n64 1 2 .none 0, .fence .plain .core,
  .cpy ⟨1, .core, 0, 1, 1, 1⟩ 1 2, .cpy ⟨31, .core, 0, 1, 1, 1⟩ 1 2, .cpy2d ⟨1, .core, 0, 1, 1, 1⟩ 1 2, .cpy2d ⟨0, .core, 0, 61, 1, 1⟩ 1 2, .cpyG badPred ⟨0, .core, 0, 1, 1, 1⟩ 1 2,
  .cpyG {} ⟨1, .core, 0, 1, 1, 1⟩ 1 2, .cpyS badPred ⟨0, .core, 0, 1, 1, 1⟩ 1 2, .cpyS {} ⟨31, .core, 0, 1, 1, 1⟩ 1 2, .qfence 1 .core 0 1, .qfence 0 .core 16 1,
  .atm {} .add .plain .core .n16 1 2 .none 3, .atm {} .add .plain .core .n64 1 2 (.vector 3) 3, .atm ⟨1, false⟩ .add .plain .core .n32 1 2 .none 3,
  .atm {} .add .plain .core .n32 64 2 .none 3, .atm {} .add .plain .core .n32 1 2 .none 64, .atm {} .add .plain .die .n32 1 2 .none 3, .atm badPred .add .plain .core .n32 1 2 (.vector 3) 3,
  .atmBinc {} .plain .core .i32 1 2 .none 3, .atmBinc {} .plain .core .n32 64 2 .none 3, .atmBinc {} .plain .die .n32 1 2 .none 3, .atmWinc {} .plain .core .i32 1 2 .none 3,
  .atmWinc {} .plain .core .n32 64 2 .none 3, .atmWinc {} .plain .die .n32 1 2 .none 3, .atmCdec {} .plain .core .n8 1 2 .none, .atmCdec {} .plain .core .n32 64 2 .none,
  .atmCdec {} .plain .die .n32 1 2 .none, .atmFaddl .plain .die 1 2 .none 3, .atmFaddl .plain .core 1 2 (.vector 3) 3, .fat .plain .core .n8 1 2 .none 3,
  .fat .plain .die .n32 1 2 .none 3, .fat .plain .core .n32 1 2 (.vector 3) 3, .redF .acq .core 1 2 .none 3, .redF .plain .die 1 2 .none 3, .redF .plain .core 1 2 (.vector 3) 3,
  .barArr .core 15, .barArr .quad 8, .barArr .die 8, .barArr .pkg 4, .barArr .pod 2, .barWait .core 15, .barWait .pod 2, .bbExp 15 1, .bbArr 1 15, .bbArrDecl 1 15, .bbArrLeave 1 15,
  .bbWait 15 1, .mst true 12 1 2 3, .mzero 12, .mrd .f32 1 12 2 3, .mrd .n32 1 0 2 3, .mrd .f32 255 0 2 3, .mwr .f32 12 1 2 3, .mwr .n32 0 1 2 3, .mwr .i32 0 255 2 3, .mout 1 2 12 3,
  .mmaskTree 12 1 2 3, .spawn badPred 1 2 3 4 16 0, .spawn {} 1 2 3 4 24 0, .spawn {} 1 2 3 4 0 0, .spawn {} 1 2 3 4 256 0, .spawnRec 1 2 8, .tdone badPred, .targ badPred 1 0,
  .targ {} 1 2, .targ {} 1 256, .launch 1 2 3 8, .rinv false false 1 2 3 8 4 5 0]
theorem test_ill_formed_memory : (illMemory.all fun i => !i.wf) = true := by decide +kernel
/-! ### Messages (17 R292, 23 R371) -/

/-- Codes of the manual's message and command tables, with the form byte where a command has forms, and the step each brings. -/
def messages : List (Msg × Option Instr) :=
  let m := fun (n : Nat) (i : Instr) => (({ type := BitVec.ofNat 8 n } : Msg), some i)
  let c := fun (n b : Nat) (i : Instr) => (({ type := 0x19, arg := BitVec.ofNat 16 n, len := 2, payload := [0, BitVec.ofNat 8 b] } : Msg), some i)
  [m 0x01 .write, m 0x02 .read, m 0x03 .data, m 0x04 .fatm, m 0x05 .reductionTreeNode, ({ type := 5, arg := 0x8000 }, some .red), m 0x08 .invoke, m 0x09 .answer,
   m 0x10 .launchMessage, m 0x13 .inval, m 0x15 .pageResp, m 0x18 .marker, m 0x1A .nack, m 0x1B .barrier, ({ type := 0x11 }, none), ({ type := 0x12 }, none),
   ({ type := 0x14 }, none), ({ type := 0x16 }, none), ({ type := 0x1C }, none),
   c 0x01 0 .status, c 0x02 0 .attest, c 0x03 0 .regrd, c 0x04 0 .regwr, c 0x10 0 .ctxwr, c 0x11 0 .ctxkill, c 0x12 0 .resideEnd, c 0x12 1 .resideMake, c 0x13 0 .switch,
   c 0x14 0 .preemptBlock, c 0x14 1 .preemptGrid, c 0x14 2 .preemptContext, c 0x15 0 .load, c 0x16 0 .migrateExport, c 0x16 1 .migrateImport, c 0x18 0 .vdev,
   c 0x19 0 .vdresClearResident, c 0x19 1 .vdresSetResident, c 0x19 2 .vdresReset, c 0x19 3 .vdresSetLog, c 0x1A 0 .redwin, c 0x1B 0 .podjoin, c 0x20 0 .sessionOpen,
   c 0x20 1 .sessionConfigure, c 0x20 2 .sessionResetQueue, c 0x20 3 .sessionClose, c 0x21 0 .debugStop, c 0x21 1 .debugStep, c 0x21 2 .debugContinue, c 0x21 3 .debugKill,
   c 0x22 0 .cutStart, c 0x23 0 .replay, c 0x30 0 .fwwrite, c 0x31 0 .reset, c 0x7F 0 .mgmtUnknownCode]
theorem test_messages : (messages.all fun p => decide (decodeMsg p.1 = p.2)) = true := by decide +kernel

end Sys2Proof.Tests
end

section
/-! SUPPORT. What reset leaves, what a slice holds at its first instruction, and the matrix state that a block with tiles finds. -/
namespace Sys2Proof.Machine

/-! ### Tables that nothing has written -/

theorem leNat_replicate_zero (n : Nat) : leNat (List.replicate n 0) = 0 := by
  induction n with
  | zero => rfl
  | succ n ih => rw [List.replicate_succ, leNat, ih]; rfl

/-- Bytes of an empty table, as a number. -/
@[simp] theorem leNat_getList_nil (k n : Nat) : leNat (Cells.getList ([] : Cells 8) k n) = 0 := by
  have hz : Cells.getList ([] : Cells 8) k n = List.replicate n 0 := by simp [Cells.getList, List.map_const']
  rw [hz, leNat_replicate_zero]

/-- A launch queue of an empty table is not enabled. -/
theorem queue_not_enabled {c : Ctx} (h : c.lqt = []) (q : Nat) : (c.queue q).2.1 = false := by
  simp [Ctx.queue, h, bitsOf]

/-- A handler of an empty table has ENTRY 0. -/
theorem handler_not_valid {c : Ctx} (h : c.ht = []) (n : Nat) : (c.handler n).valid = false := by
  simp [Ctx.handler, HEntry.valid, h]

/-! ### Records at reset -/

@[simp] theorem ctx_reset (k : Nat) : State.reset.ctx k = Ctx.fresh k := rfl

/-- The flags VALID, PROT, CSB and PGS of a context index that no context has had (18 R296). -/
theorem fresh_flags (k : Nat) :
    (Ctx.fresh k).valid = false ∧ (Ctx.fresh k).prot = false ∧ (Ctx.fresh k).csb = false ∧ (Ctx.fresh k).pgs = false := by
  have h : (Ctx.fresh k).fld 0 4 = 0 := rfl
  simp [Ctx.valid, Ctx.prot, Ctx.csb, Ctx.pgs, h, bitsOf]

/-! ### A slice at its first instruction -/

/-- One bit set tells a register's number from the others. -/
theorem getLsbD_one_shiftLeft (d r : CReg) : ((1 : W16) <<< d.toNat).getLsbD r.toNat = decide (r = d) := by
  have h := BitVec.getLsbD_twoPow (w := 16) d.toNat r.toNat
  rw [BitVec.twoPow_eq] at h
  simpa [d.isLt, BitVec.toNat_inj, eq_comm] using h

/-- The tag of a register after one tag has been set or cleared. -/
theorem getLsbD_setBit (ct : W16) (d r : CReg) (tag : Bool) :
    (if tag then ct ||| ((1 : W16) <<< d.toNat) else ct &&& ~~~((1 : W16) <<< d.toNat)).getLsbD r.toNat =
      if r = d then tag else ct.getLsbD r.toNat := by
  have hr : r.toNat < 16 := r.isLt
  cases tag
  · simp only [Bool.false_eq_true, if_false, BitVec.getLsbD_and, BitVec.getLsbD_not, getLsbD_one_shiftLeft, hr]
    by_cases h : r = d <;> simp [h]
  · simp only [if_true, BitVec.getLsbD_or, getLsbD_one_shiftLeft]
    by_cases h : r = d <;> simp [h]

/-- A capability register after a write to the same or to another one. -/
theorem rc_wc (x : Slice) (d r : CReg) (v : Cap) : (x.wc d v).rc r = if r = d ∧ d ≠ 0 then v else x.rc r := by
  by_cases hd : d = 0
  · rw [Slice.wc, if_pos hd, if_neg (fun h => h.2 hd)]
  simp only [Slice.wc, if_neg hd, Slice.rc, Cells.get_set, BitVec.toNat_inj, getLsbD_setBit]
  by_cases hr : r = d
  · simp only [hr, hd, if_true, if_false, ne_eq, not_false_iff, and_self]
  · simp only [hr, if_false, false_and]

theorem rc_wc_ne (x : Slice) {d r : CReg} (v : Cap) (h : r ≠ d) : (x.wc d v).rc r = x.rc r := by simp [rc_wc, h]

section
variable (s : State) (b : Block) (id gid idx p : Nat) (alive : W32)

@[simp] theorem startSlice_alive : (startSlice s b id gid idx p alive).alive = alive := by simp [startSlice]
@[simp] theorem startSlice_pc : (startSlice s b id gid idx p alive).pc = b.entry := by simp [startSlice]

/-- The lanes in service stand in `k0`, and every other mask register holds 0. -/
theorem startSlice_rk (r : KReg) : (startSlice s b id gid idx p alive).rk r = if r = 0 then alive else 0 := by
  have hk : (startSlice s b id gid idx p alive).rk r = (Slice.wk { alive := alive } 0 alive).rk r := by
    simp [startSlice, Slice.rk, Slice.wk]
  rw [hk, rk_wk]
  simp [Slice.rk]

theorem startSlice_rs (r : SReg) : (startSlice s b id gid idx p alive).rs r = 0 := by
  simp [startSlice, Slice.rs]

theorem startSlice_rv (r : VReg) (l : Nat) : (startSlice s b id gid idx p alive).rv r l = 0 := by
  simp [startSlice, Slice.rv]

theorem startSlice_rc {r : CReg} (h13 : r ≠ 13) (h14 : r ≠ 14) (h15 : r ≠ 15) :
    (startSlice s b id gid idx p alive).rc r = {} := by
  rw [startSlice, rc_wc_ne _ _ h15, rc_wc_ne _ _ h14, rc_wc_ne _ _ h13]
  simp [Slice.rc]
end

/-! ### Matrix state -/

theorem punit_id (s : State) (k : Nat) : (s.punit k).id = k := by
  cases h : s.units.any fun u => u.id == k with
  | true => exact recGet_key PUnit.id _ _ _ h
  | false => rw [State.punit, recGet_none PUnit.id _ _ _ h]

theorem punit_updUnit (s : State) (k j : Nat) {f : PUnit → PUnit} (hf : ∀ u, (f u).id = u.id) :
    (s.updUnit k f).punit j = if j = k then f (s.punit k) else s.punit j :=
  recGet_recPut PUnit.id _ _ _ _ _ ((hf _).trans (punit_id s k))

/-- An update of a list of units reaches every unit listed: what holds wherever the update has been holds there. -/
theorem punit_foldl_updUnit {P : PUnit → Prop} {f : PUnit → PUnit} (hf : ∀ u, (f u).id = u.id) (hP : ∀ u, P (f u))
    (key : Nat → Nat) (l : List Nat) (s : State) (k : Nat) (h : k ∈ l.map key ∨ P (s.punit k)) :
    P ((l.foldl (fun s p => s.updUnit (key p) f) s).punit k) := by
  induction l generalizing s with
  | nil => simpa using h
  | cons p l ih =>
    refine ih _ ?_
    rw [punit_updUnit s _ _ hf]
    by_cases hk : k = key p
    · simp [hk, hP]
    · simpa [hk] using h

/-- The reset values of R250: planes of zeros in format 1 (BF16), no tile live, shape single, baton free, queue empty. -/
def Blank (u : PUnit) : Prop :=
  u.active = [] ∧ u.activeFmt = 1 ∧ u.shadow = [] ∧ u.shadowFmt = 1 ∧ u.tiles = [] ∧ u.live = 0 ∧ u.kind = 0 ∧ u.shape = .single ∧
    u.holder = none ∧ u.mq = []

/-- What placing a block makes of a unit. -/
def unitPlaced (b : Block) (u : PUnit) : PUnit := { unitReset u with mq := [], flip := b.flip }

theorem unitPlaced_blank (b : Block) (u : PUnit) : Blank (unitPlaced b u) := ⟨rfl, rfl, rfl, rfl, rfl, rfl, rfl, rfl, rfl, rfl⟩

theorem tilesReset_blank (s : State) {b : Block} {p : Nat} (ht : hTiles b.header ≠ 0) (hp : p ∈ b.pdks) :
    Blank ((tilesReset s b).punit (((b.die * 48 + b.core) * 4 + p) * 64 + b.ctx)) := by
  rw [tilesReset, if_neg ht]
  refine punit_foldl_updUnit (f := unitPlaced b) (fun _ => rfl) (unitPlaced_blank b) _ _ s _ (.inl ?_)
  exact List.mem_map.2 ⟨p, by simpa using hp, rfl⟩

end Sys2Proof.Machine

open Sys2Proof Sys2Proof.Machine

/-- Settles O60: what reset leaves is read off its empty lists and the fresh descriptor; a first instruction's registers are those of
an empty slice after four writes; the matrix state is what the fold over the block's paddocks leaves at each of them. -/
theorem resetAndStartValues : Obligations.ResetAndStartValues := by
  unfold Obligations.ResetAndStartValues
  refine ⟨⟨State.canonical_reset, rfl, rfl, rfl, rfl, rfl, fun _ => rfl, fun k _ => ?_, fun _ => ⟨rfl, rfl⟩,
    fun _ => ⟨rfl, rfl, rfl, rfl⟩⟩, fun s b id gid idx p alive => ?_, fun s b p ht hp => tilesReset_blank s ht hp⟩
  · obtain ⟨hvalid, hprot, hcsb, hpgs⟩ := fresh_flags k
    rw [ctx_reset]
    exact ⟨rfl, rfl, rfl, rfl, hvalid, hprot, hcsb, hpgs, rfl, rfl, queue_not_enabled rfl, handler_not_valid rfl, fun _ => rfl⟩
  · have hk := startSlice_rk s b id gid idx p alive
    refine ⟨startSlice_pc .., hk 0, startSlice_alive .., fun r hr => (hk r).trans (if_neg hr), fun _ => startSlice_rs ..,
      fun _ _ => startSlice_rv .., fun _ => startSlice_rc _ _ _ _ _ _ _, ?_⟩
    simp [startSlice]
end

section
/-! SUPPORT. Register instructions as the statements speak of them: a group's issue, lanes of a vector register, elements, masks. -/
namespace Sys2Proof.Vectors
open Sys2Proof.Machine Sys2Proof.Claims

/-! ### An instruction on each member's own registers -/

/-- An update of the members leaves the rest of the state and the other slices alone. -/
theorem groupOnly_mapGroup (s : State) (f : Slice → Slice) (hf : ∀ x, (f x).id = x.id) : GroupOnly s (s.mapGroup f) :=
  ⟨rfl, fun _ => rfl, fun id hid hg => by rw [slice_mapGroup f hf hid, if_neg hg]⟩

/-- What an update makes of a slice, it makes of every member. -/
theorem members_mapGroup {s : State} {f : Slice → Slice} {P : Slice → Slice → Prop} (hf : ∀ x, (f x).id = x.id)
    (hP : ∀ x, P x (f x)) : Members s (s.mapGroup f) P := by
  intro id hg hid
  rw [slice_mapGroup f hf hid, if_pos hg]
  exact hP _

section
variable {i : Instr} {P : State → Slice → Slice → Prop}

/-- A register instruction does what its update of a slice, gone to the next word, makes of every member. -/
theorem does_regOpS {f : State → Slice → Slice} (he : ∀ s, exec i s = regOpS i f s) (hid : ∀ s x, (f s x).id = x.id)
    (hP : ∀ s x, P s x (advance (f s x))) : Does i P := by
  intro s hs
  have hid' : ∀ x, (advance (f s x)).id = x.id := fun x => by simp [hid]
  exact ⟨_, (he s).trans (regOpS_next hs), groupOnly_mapGroup s _ hid', members_mapGroup hid' (hP s)⟩

theorem does_regOp {f : Slice → Slice} (he : ∀ s, exec i s = regOp i f s) (hid : ∀ x, (f x).id = x.id)
    (hP : ∀ s x, P s x (advance (f x))) : Does i P :=
  does_regOpS (f := fun _ => f) he (fun _ => hid) hP
end

/-! ### Lanes -/

section
variable {i : Instr} {p : Pred} {d : VReg} {g : State → Slice → Nat → W32}

/-- A write of the selected lanes from what the issue shows of the whole state. -/
theorem writesV_regOpS {f : State → Slice → Nat → W32} (he : ∀ s, exec i s = regOpS i (fun s x => x.wv d (x.sel p) (f s x)) s)
    (h : ∀ s x, ∀ l < 32, f s x l = g s x l) : WritesV i p d g := by
  refine does_regOpS he (fun _ _ => rfl) fun s x => ⟨fun r l hl => ?_, ?_⟩
  · rw [rv_advance, rv_wv _ _ _ _ _ _ hl, h s x l hl]
  · rw [advance_wv]

theorem writesV_laneOp {f : Slice → Nat → W32} (he : ∀ s, exec i s = regOp i (laneOp p d f) s)
    (h : ∀ s x, ∀ l < 32, f x l = g s x l) : WritesV i p d g :=
  writesV_regOpS (f := fun _ => f) he h
end

/-! ### Elements -/

/-- A type's elements are a quarter, a half or the whole of a lane, or do not fit in one. -/
theorem width_cases (t : Ty) : t.width = 8 ∨ t.width = 16 ∨ t.width = 32 ∨ t.width = 64 := by
  cases t <;> simp [Ty.width]

/-- A lane whose elements are the values of a function of the element's number. -/
def laneOf (w : Nat) (F : Nat → Nat) : W32 := BitVec.ofNat 32 (packElems w ((List.range (32 / w)).map F))

theorem elem_laneOf (t : Ty) (F : Nat → Nat) {e : Nat} (he : e < 32 / t.width) : elem (laneOf t.width F) t.width e = F e % 2 ^ t.width := by
  refine elem_pack t.width ?_ F e he
  have := width_cases t
  by_cases h64 : t.width = 64
  · simp [h64] at he
  · omega

/-- A lane of one element of 32 bits. -/
theorem laneOf_32 (F : Nat → Nat) : laneOf 32 F = BitVec.ofNat 32 (F 0) := by
  apply BitVec.eq_of_toNat_eq
  simp [laneOf, packElems]

theorem elem_32 (x : W32) : elem x 32 0 = x.toNat := by
  have := x.isLt
  simp only [elem, bitsOf]
  omega

section
variable {i : Instr} {p : Pred} {t : Ty} {d : VReg} {g : Slice → Nat → Nat → Nat}

/-- A write of lanes element by element. -/
theorem writesElems_laneOp {f : Slice → Nat → W32} (F : Slice → Nat → Nat → Nat) (he : ∀ s, exec i s = regOp i (laneOp p d f) s)
    (hf : ∀ x l, f x l = laneOf t.width (F x l)) (h : ∀ x l e, F x l e % 2 ^ t.width = g x l e % 2 ^ t.width) : WritesElems i p t d g := by
  refine does_regOp he (fun _ => rfl) fun s x => ⟨fun l hl hsel e hlt => ?_, fun r l hl hn => ?_, ?_⟩
  · rw [rv_advance, laneOp, rv_wv _ _ _ _ _ _ hl, if_pos ⟨rfl, hsel⟩, hf, elem_laneOf t _ hlt, h]
  · rw [rv_advance, laneOp, rv_wv _ _ _ _ _ _ hl, if_neg hn]
  · rw [laneOp, advance_wv]

theorem writesElems_ew1 {a : VReg} {f : Slice → Nat → Nat} (he : ∀ s, exec i s = regOp i (ew1 p t d a f) s)
    (h : ∀ x l e, f x (el t a x l e) % 2 ^ t.width = g x l e % 2 ^ t.width) : WritesElems i p t d g :=
  writesElems_laneOp (fun x l e => f x (el t a x l e)) he (fun _ _ => rfl) h

theorem writesElems_ew2 {a b : VReg} {f : Slice → Nat → Nat → Nat} (he : ∀ s, exec i s = regOp i (ew2 p t d a b f) s)
    (h : ∀ x l e, f x (el t a x l e) (el t b x l e) % 2 ^ t.width = g x l e % 2 ^ t.width) : WritesElems i p t d g :=
  writesElems_laneOp (fun x l e => f x (el t a x l e) (el t b x l e)) he (fun _ _ => rfl) h

theorem writesElems_ew3 {a b c : VReg} {f : Slice → Nat → Nat → Nat → Nat} (he : ∀ s, exec i s = regOp i (ew3 p t d a b c f) s)
    (h : ∀ x l e, f x (el t a x l e) (el t b x l e) (el t c x l e) % 2 ^ t.width = g x l e % 2 ^ t.width) : WritesElems i p t d g :=
  writesElems_laneOp (fun x l e => f x (el t a x l e) (el t b x l e) (el t c x l e)) he (fun _ _ => rfl) h

theorem writesElems_ewImm {a : VReg} {imm : BitVec 20} {f : Slice → Nat → Nat → Nat} (he : ∀ s, exec i s = regOp i (ewImm p t d a imm f) s)
    (h : ∀ x l e, f x (el t a x l e) (immElem t x.fr imm) % 2 ^ t.width = g x l e % 2 ^ t.width) : WritesElems i p t d g :=
  writesElems_laneOp (fun x l e => f x (el t a x l e) (immElem t x.fr imm)) he (fun _ _ => rfl) h
end

theorem el_lt (t : Ty) (r : VReg) (x : Slice) (l e : Nat) : el t r x l e < 2 ^ t.width := Nat.mod_lt _ (Nat.two_pow_pos _)

/-- An element is the integer it stands for, modulo its width. -/
theorem wrap_elemInt (t : Ty) {a : Nat} (ha : a < 2 ^ t.width) : wrap t (elemInt t.signed t.width a) = a := by
  have h : (a : Int) % 2 ^ t.width = a := by exact_mod_cast congrArg Nat.cast (Nat.mod_eq_of_lt ha)
  unfold wrap elemInt
  split
  · rw [Int.sub_emod_right, h, Int.toNat_natCast]
  · rw [h, Int.toNat_natCast]

theorem natCast_two_pow (w : Nat) : ((2 ^ w : Nat) : Int) = 2 ^ w := Int.natCast_pow 2 w

theorem wrap_lt (t : Ty) (v : Int) : wrap t v < 2 ^ t.width := by
  have hpos : (0 : Int) < 2 ^ t.width := Int.pow_pos (by decide)
  rw [wrap, Int.toNat_lt (Int.emod_nonneg v (Int.ne_of_gt hpos)), natCast_two_pow]
  exact Int.emod_lt_of_pos v hpos

theorem wrap_mod (t : Ty) (v : Int) : wrap t v % 2 ^ t.width = wrap t v := Nat.mod_eq_of_lt (wrap_lt t v)

/-- An integer and its value modulo the width are congruent. -/
theorem wrap_cast (t : Ty) (v : Int) : (wrap t v : Int) = v % 2 ^ t.width :=
  Int.toNat_of_nonneg (Int.emod_nonneg v (Int.ne_of_gt (Int.pow_pos (by decide))))

theorem add_wrap_mod (t : Ty) (a : Nat) (v : Int) : (a + wrap t v) % 2 ^ t.width = wrap t (a + v) % 2 ^ t.width := by
  rw [wrap_mod]
  apply Int.ofNat_inj.1
  rw [Int.natCast_emod, Int.natCast_add, natCast_two_pow, wrap_cast, wrap_cast, Int.add_emod_emod]

theorem mul_wrap_mod (t : Ty) (a : Nat) (v : Int) : (a * wrap t v) % 2 ^ t.width = wrap t (a * v) % 2 ^ t.width := by
  rw [wrap_mod]
  apply Int.ofNat_inj.1
  rw [Int.natCast_emod, Int.natCast_mul, natCast_two_pow, wrap_cast, wrap_cast, Int.mul_emod, Int.emod_emod, ← Int.mul_emod]

end Sys2Proof.Vectors
end

section
/-! SUPPORT. The integer instructions on elements (05 R108-R110). -/
namespace Sys2Proof.Vectors
open Sys2Proof.Machine Sys2Proof.Claims

/-! ### Element functions -/

theorem eShl_eq (t : Ty) (a b : Nat) : eShl t a b = if t.width ≤ b then 0 else a * 2 ^ b := by
  simp only [eShl, ← Nat.not_le, ite_not]

theorem eShr_eq (t : Ty) (a b : Nat) : eShr t a b = if t.width ≤ b then 0 else a / 2 ^ b := by
  simp only [eShr, ← Nat.not_le, ite_not]

theorem eSra_eq {t : Ty} (ht : t.signed = true) (a b : Nat) : eSra t a b = wrap t (ev t a / 2 ^ min b t.width) := by
  rw [eSra, ev, ht]; rfl

theorem eMin_eq {t : Ty} {a b : Nat} (ha : a < 2 ^ t.width) (hb : b < 2 ^ t.width) : eMin t a b = wrap t (min (ev t a) (ev t b)) := by
  unfold eMin
  split
  · next h => rw [Int.min_eq_right (Int.le_of_lt h), ev, wrap_elemInt t hb]
  · next h => rw [Int.min_eq_left (Int.not_lt.1 h), ev, wrap_elemInt t ha]

theorem eMax_eq {t : Ty} {a b : Nat} (ha : a < 2 ^ t.width) (hb : b < 2 ^ t.width) : eMax t a b = wrap t (max (ev t a) (ev t b)) := by
  unfold eMax
  split
  · next h => rw [Int.max_eq_right (Int.le_of_lt h), ev, wrap_elemInt t hb]
  · next h => rw [Int.max_eq_left (Int.not_lt.1 h), ev, wrap_elemInt t ha]

theorem ePopc_eq (t : Ty) (a : Nat) : ePopc t a = (List.range t.width).countP fun j => a.testBit j :=
  List.countP_eq_length_filter.symm

/-- An immediate as an element of an integer type is its value modulo the width (05 R108). -/
theorem immElem_int {t : Ty} (ht : intTy t) (fr : W64) (imm : BitVec 20) : immElem t fr imm = wrap t imm.toInt := by
  simp only [intTy, List.mem_cons, List.not_mem_nil, or_false] at ht
  rcases ht with rfl | rfl | rfl | rfl | rfl | rfl <;> rfl

/-- The field of `vbfe`, extended with zeros or, in a signed type, with its top bit. -/
theorem bfeV_eq {t : Ty} (ht : t = .n32 ∨ t = .i32) (a b c : W32) : bfeV t a b c =
    let pos := b.toNat % 32
    let w := min (c.toNat % 64) (32 - pos)
    let f := a.toNat / 2 ^ pos % 2 ^ w
    if w = 0 then 0 else if t = .i32 ∧ 2 ^ (w - 1) ≤ f then BitVec.ofInt 32 ((f : Int) - 2 ^ w) else BitVec.ofNat 32 f := by
  extract_lets pos w f
  have hv : bfeV t a b c = if w = 0 then 0 else BitVec.ofInt 32 (elemInt t.signed w f) := rfl
  rw [hv]
  refine ite_congr rfl (fun _ => rfl) fun _ => ?_
  rcases ht with rfl | rfl
  · simp [elemInt, Ty.signed]
  · by_cases hf : 2 ^ (w - 1) ≤ f <;> simp [elemInt, Ty.signed, hf]

end Sys2Proof.Vectors

open Sys2Proof Sys2Proof.Machine Sys2Proof.Claims Sys2Proof.Vectors

/-- Settles O8: each instruction writes its lanes element by element, and each element function is the stated one. -/
theorem vectorIntegerElements : Obligations.VectorIntegerElements := by
  unfold Obligations.VectorIntegerElements
  intro p t d a b c _
  refine ⟨writesElems_ew2 (fun _ => rfl) fun _ _ _ => rfl, writesElems_ew2 (fun _ => rfl) fun _ _ _ => rfl,
    writesElems_ew2 (fun _ => rfl) fun _ _ _ => rfl, writesElems_ew2 (fun _ => rfl) fun _ _ _ => rfl,
    writesElems_ew3 (fun _ => rfl) fun _ _ _ => rfl, writesElems_ew2 (fun _ => rfl) fun _ _ _ => ?shl,
    writesElems_ew2 (fun _ => rfl) fun _ _ _ => ?shr, fun ht => writesElems_ew2 (fun _ => rfl) fun _ _ _ => ?sra,
    writesElems_ew2 (fun _ => rfl) fun x l e => ?min, writesElems_ew2 (fun _ => rfl) fun x l e => ?max,
    writesElems_ew1 (fun _ => rfl) fun _ _ _ => rfl, writesElems_ew1 (fun _ => rfl) fun _ _ _ => rfl,
    writesElems_ew1 (fun _ => rfl) fun _ _ _ => rfl, writesElems_ew1 (fun _ => rfl) fun _ _ _ => ?popc⟩
  case shl => rw [eShl_eq]
  case shr => rw [eShr_eq]
  case sra => rw [eSra_eq ht]; rfl
  case min => rw [eMin_eq (el_lt ..) (el_lt ..)]; rfl
  case max => rw [eMax_eq (el_lt ..) (el_lt ..)]; rfl
  case popc => rw [ePopc_eq]

/-- Settles O9: the lane written is the field, whose two extensions are `bfeV_eq`'s cases. -/
theorem vbfeExtractsField : Obligations.VbfeExtractsField := by
  unfold Obligations.VbfeExtractsField
  intro p t d a b c ht
  exact writesV_laneOp (fun _ => rfl) fun _ x l _ => bfeV_eq ht (x.rv a l) (x.rv b l) (x.rv c l)
end

section
/-! SUPPORT. Immediates (05 R108, R112), masks and compares (05 R111, R116). -/
namespace Sys2Proof.Vectors
open Sys2Proof.Machine Sys2Proof.Claims

/-! ### Immediates -/

/-- An immediate as a lane, sign-extended. -/
theorem ofNat_wrap_signExtend (imm : BitVec 20) : BitVec.ofNat 32 (wrap .none imm.toInt) = imm.signExtend 32 := by
  apply BitVec.eq_of_toInt_eq
  rw [BitVec.signExtend, BitVec.toInt_ofInt, BitVec.toInt_ofNat', wrap_cast]
  exact Int.emod_bmod imm.toInt (2 ^ 32)

/-- An immediate as the top bits of an FP32 number. -/
theorem ofNat_top_bits (imm : BitVec 20) : BitVec.ofNat 32 (imm.toNat * 2 ^ 12) = imm.setWidth 32 <<< 12 := by
  have := imm.isLt
  apply BitVec.eq_of_toNat_eq
  rw [BitVec.toNat_ofNat, BitVec.toNat_shiftLeft, BitVec.toNat_setWidth, Nat.shiftLeft_eq, Nat.mod_eq_of_lt (a := imm.toNat) (by omega)]

/-- An immediate as an element of a float type of 16 bits, rounded to it (log 17). -/
theorem immElem_half {t : Ty} (ht : t = .f16 ∨ t = .bf16) (fr : W64) (imm : BitVec 20) :
    immElem t fr imm = cvt { rm := (frMode fr).rm } t .f32 (imm.toNat * 2 ^ 12) := by
  rcases ht with rfl | rfl <;> rfl

/-- With an FP32 immediate the whole lane is the one element. -/
theorem writesV_ewImm_f32 {i : Instr} {p : Pred} {d a : VReg} {imm : BitVec 20} {f : Slice → Nat → Nat → Nat}
    (he : ∀ s, exec i s = regOp i (ewImm p .f32 d a imm f) s) :
    WritesV i p d fun _ x l => BitVec.ofNat 32 (f x (x.rv a l).toNat (imm.toNat * 2 ^ 12)) := by
  refine writesV_laneOp he fun _ x l _ => ?_
  rw [← elem_32 (x.rv a l)]
  exact laneOf_32 fun e => f x (elem (x.rv a l) 32 e) (imm.toNat * 2 ^ 12)

/-! ### Masks -/

/-- A number from its bits, lowest first. -/
theorem testBit_foldr_bits (f : Nat → Bool) (l : List Nat) (j : Nat) :
    (l.foldr (fun i acc => b2n (f i) + 2 * acc) 0).testBit j = (l[j]?.map f).getD false := by
  induction l generalizing j with
  | nil => simp
  | cons a t ih =>
    have hb : b2n (f a) < 2 := by cases f a <;> decide
    cases j with
    | zero => cases h : f a <;> simp [h, b2n, Nat.testBit_zero]
    | succ j =>
      rw [List.foldr_cons, Nat.testBit_succ, show ∀ n, (b2n (f a) + 2 * n) / 2 = n by omega, ih]
      rfl

theorem getLsbD_maskOf (f : Nat → Bool) {l : Nat} (hl : l < 32) : (maskOf f).getLsbD l = f l := by
  rw [maskOf, BitVec.getLsbD_ofNat, testBit_foldr_bits]
  simp [hl]

@[simp] theorem maskOp_id (p : Pred) (k : KReg) (f : Slice → Nat → Bool) (x : Slice) : (maskOp p k f x).id = x.id := by
  unfold maskOp
  split <;> rfl

/-- An instruction that writes a mask from a condition on the selected lanes compares. -/
theorem compares_maskOp {i : Instr} {p : Pred} {k : KReg} {f c : Slice → Nat → Bool} (he : ∀ s, exec i s = regOp i (maskOp p k f) s)
    (h : ∀ x l, f x l = c x l) : Compares i p k c := by
  refine does_regOp he (maskOp_id p k f) fun _ x => ?_
  by_cases h0 : x.rk 0 = 0
  · rw [maskOp, if_pos h0]
    exact ⟨rfl, fun _ => by simp, fun hn => absurd h0 hn⟩
  rw [maskOp, if_neg h0]
  refine ⟨by rw [advance_wk], fun e => absurd e h0, fun _ => ⟨fun r hr => ?_, fun l hl => ?_⟩⟩
  · rw [rk_advance, rk_wk, if_neg hr]
  · rw [rk_advance, rk_wk, if_pos rfl, ← h]
    by_cases hk : k = 0
    · simp [hk, getLsbD_maskOf _ hl]
    · rw [if_neg hk, getLsbD_maskOf _ hl, bne_iff_ne.2 hk, Bool.true_or, Bool.and_true]

end Sys2Proof.Vectors

open Sys2Proof Sys2Proof.Machine Sys2Proof.Claims Sys2Proof.Vectors

/-- Settles O10: an immediate form is the register form with the immediate as an element, which is IMM20 modulo the width, or the
pattern of the float. -/
theorem vectorImmediateForms : Obligations.VectorImmediateForms := by
  unfold Obligations.VectorImmediateForms
  intro p t d a imm
  refine ⟨fun ht => ?int, writesV_laneOp (fun _ => rfl) fun _ _ _ _ => rfl, writesV_laneOp (fun _ => rfl) fun _ _ _ _ => rfl,
    writesV_laneOp (fun _ => rfl) fun _ _ _ _ => rfl, writesV_ewImm_f32 fun _ => rfl, writesV_ewImm_f32 fun _ => rfl,
    fun ht => ⟨writesElems_ewImm (fun _ => rfl) fun x _ _ => by rw [immElem_half ht],
      writesElems_ewImm (fun _ => rfl) fun x _ _ => by rw [immElem_half ht]⟩⟩
  refine ⟨writesElems_ewImm (fun _ => rfl) fun x l e => ?add, writesElems_ewImm (fun _ => rfl) fun x l e => ?mul,
    writesElems_ewImm (fun _ => rfl) fun x l e => ?shl, writesElems_ewImm (fun _ => rfl) fun x l e => ?shr,
    fun hs => writesElems_ewImm (fun _ => rfl) fun x l e => ?sra, writesElems_ewImm (fun _ => rfl) fun x l e => ?min,
    writesElems_ewImm (fun _ => rfl) fun x l e => ?max⟩ <;> rw [immElem_int ht]
  case add => exact add_wrap_mod t _ _
  case mul => exact mul_wrap_mod t _ _
  case shl => rw [eShl_eq]
  case shr => rw [eShr_eq]
  case sra => rw [eSra_eq hs]; rfl
  case min => rw [eMin_eq (el_lt ..) (wrap_lt ..)]; rfl
  case max => rw [eMax_eq (el_lt ..) (wrap_lt ..)]; rfl

/-- Settles O11: each lane is written whole, or as elements that all hold one value. -/
theorem vectorLaneMoves : Obligations.VectorLaneMoves := by
  unfold Obligations.VectorLaneMoves
  intro p t d a b k sr imm
  refine ⟨writesV_laneOp (fun _ => rfl) fun _ _ _ _ => rfl, writesV_laneOp (fun _ => rfl) fun _ _ _ _ => rfl,
    writesV_laneOp (fun _ => rfl) fun _ _ _ _ => rfl, writesV_laneOp (fun _ => rfl) fun _ _ _ _ => rfl,
    writesV_laneOp (fun _ => rfl) fun _ _ _ _ => rfl,
    fun ht => writesElems_laneOp (fun x _ _ => immElem t x.fr imm) (fun _ => rfl) (fun _ _ => rfl) fun x _ _ => by rw [immElem_int ht],
    writesV_laneOp (fun _ => rfl) fun _ x _ _ => ?none, writesV_laneOp (fun _ => rfl) fun _ x _ _ => ?f32,
    fun ht => writesElems_laneOp (fun x _ _ => immElem t x.fr imm) (fun _ => rfl) (fun _ _ => rfl) fun x _ _ => by rw [immElem_half ht],
    writesElems_laneOp (fun x _ _ => (x.rs sr).toNat) (fun _ => rfl) (fun _ _ => rfl) fun _ _ _ => rfl⟩
  case none => exact (laneOf_32 fun _ => immElem .none x.fr imm).trans (ofNat_wrap_signExtend imm)
  case f32 => exact (laneOf_32 fun _ => immElem .f32 x.fr imm).trans (ofNat_top_bits imm)

/-- Settles O12: a compare writes the mask of its condition on element 0, which in a type of 32 bits is the lane. -/
theorem vectorCompares : Obligations.VectorCompares := by
  unfold Obligations.VectorCompares
  intro p q t k a b imm
  refine ⟨compares_maskOp (fun _ => rfl) fun _ _ => rfl, compares_maskOp (fun _ => rfl) fun _ _ => rfl,
    compares_maskOp (fun _ => rfl) fun _ _ => rfl, compares_maskOp (fun _ => rfl) fun x l => ?_,
    fun _ => compares_maskOp (fun _ => rfl) fun _ _ => rfl⟩
  have he : (imm.signExtend 32).toInt = imm.toInt := BitVec.toInt_signExtend_of_le (by decide)
  rw [← he]
  rfl
end

section
/-! SUPPORT. Float instructions on elements (05 R115-R118). -/
namespace Sys2Proof.Vectors
open Sys2Proof.Machine Sys2Proof.Claims

/-! ### Signs -/

/-- A float's sign is the top bit of its element. -/
theorem signBit_ffmt {t : Ty} (ht : t ∈ [Ty.f32, .f16, .bf16]) : t.ffmt.signBit = 2 ^ (t.width - 1) ∧ 2 ^ t.width = 2 * t.ffmt.signBit := by
  simp only [List.mem_cons, List.not_mem_nil, or_false] at ht
  rcases ht with rfl | rfl | rfl <;> decide

/-- A bit above a number is set by adding it. -/
theorem xor_two_pow_eq_add_of_lt {n b : Nat} (hb : b < 2 ^ n) : b ^^^ 2 ^ n = b + 2 ^ n := by
  rw [← Nat.or_two_pow_eq_add_of_lt hb]
  apply Nat.eq_of_testBit_eq
  intro j
  rw [Nat.testBit_xor, Nat.testBit_or, Nat.testBit_two_pow]
  by_cases hj : n = j
  · subst hj
    simp [Nat.testBit_lt_two_pow hb]
  · simp [hj]

/-- The top bit of a number flipped: it is taken away where it is set. -/
theorem xor_two_pow_of_lt {n a : Nat} (ha : a < 2 * 2 ^ n) : a ^^^ 2 ^ n = if 2 ^ n ≤ a then a - 2 ^ n else a + 2 ^ n := by
  split
  · next h =>
    obtain ⟨b, rfl⟩ := Nat.exists_eq_add_of_le' h
    rw [Nat.add_sub_cancel, ← xor_two_pow_eq_add_of_lt (by omega), Nat.xor_assoc, Nat.xor_self, Nat.xor_zero]
  · next h => exact xor_two_pow_eq_add_of_lt (Nat.not_le.1 h)

theorem fabs_eq {t : Ty} (ht : t ∈ [Ty.f32, .f16, .bf16]) (a : Nat) : fabs t.ffmt a = a % 2 ^ (t.width - 1) := by
  rw [fabs, (signBit_ffmt ht).1]

theorem fneg_eq {t : Ty} (ht : t ∈ [Ty.f32, .f16, .bf16]) {a : Nat} (ha : a < 2 ^ t.width) : fneg t.ffmt a = a ^^^ 2 ^ (t.width - 1) := by
  obtain ⟨hs, hw⟩ := signBit_ffmt ht
  rw [fneg, Nat.mod_eq_of_lt (hw ▸ ha), hs, xor_two_pow_of_lt]
  rwa [← hs, ← hw]

end Sys2Proof.Vectors

open Sys2Proof Sys2Proof.Machine Sys2Proof.Claims Sys2Proof.Vectors

/-- Settles O13: each instruction writes its lanes element by element with the model's function; `vfabs` and `vfneg` clear and flip its top bit. -/
theorem vectorFloatElements : Obligations.VectorFloatElements := by
  unfold Obligations.VectorFloatElements
  intro p t d a b c ht
  exact ⟨writesElems_ew2 (fun _ => rfl) fun _ _ _ => rfl, writesElems_ew2 (fun _ => rfl) fun _ _ _ => rfl,
    writesElems_ew2 (fun _ => rfl) fun _ _ _ => rfl, writesElems_ew3 (fun _ => rfl) fun _ _ _ => rfl,
    writesElems_ew2 (fun _ => rfl) fun _ _ _ => rfl, writesElems_ew2 (fun _ => rfl) fun _ _ _ => rfl,
    writesElems_ew1 (fun _ => rfl) fun _ _ _ => by rw [fabs_eq ht],
    writesElems_ew1 (fun _ => rfl) fun _ _ _ => by rw [fneg_eq ht (el_lt ..)],
    writesElems_ew1 (fun _ => rfl) fun _ _ _ => rfl, writesElems_ew1 (fun _ => rfl) fun _ _ _ => rfl,
    writesElems_ew1 (fun _ => rfl) fun _ _ _ => rfl, writesElems_ew1 (fun _ => rfl) fun _ _ _ => rfl,
    writesElems_ew1 (fun _ => rfl) fun _ _ _ => rfl⟩
end

section
/-! SUPPORT. Narrowing and widening (05 R120) and the block formats (05 R121, R122). -/
namespace Sys2Proof.Vectors
open Sys2Proof.Machine Sys2Proof.Claims

section
variable (m : FrMode) {t1 t2 : Ty} (x : Slice) (a b : VReg) (l : Nat)

/-- Two lanes narrowed to halves: the lane of A stands below that of B (05 R120). -/
theorem packV_halves (h : t1.width = 16) : packV m t1 t2 (x.rv a l) (x.rv b l) =
    laneOf t1.width fun e => cvt m t1 t2 (if e = 0 then el t2 a x l 0 else el t2 b x l 0) := by
  rw [packV, if_pos h, h]
  rfl

/-- Two lanes of halves narrowed to quarters (05 R120). -/
theorem packV_quarters (h : t1.width = 8) : packV m t1 t2 (x.rv a l) (x.rv b l) =
    laneOf t1.width fun e => cvt m t1 t2 (if e < 2 then el t2 a x l e else el t2 b x l (e - 2)) := by
  rw [packV, h]
  rfl

/-- A half of a lane widened to the whole of one. -/
theorem unpackV_whole (g : Bool) (h : t1.width = 32) : unpackV m t1 t2 g (x.rv a l) =
    BitVec.ofNat 32 (cvt m t1 t2 (el t2 a x l (if g then 1 else 0))) := by
  rw [unpackV, if_pos h]
  rfl

/-- Two quarters of a lane widened to halves. -/
theorem unpackV_halves (g : Bool) (h : t1.width = 16) : unpackV m t1 t2 g (x.rv a l) =
    laneOf t1.width fun e => cvt m t1 t2 (el t2 a x l (2 * (if g then 1 else 0) + e)) := by
  rw [unpackV, h]
  rfl
end

/-- `vqb` writes every lane of D with the image, where `k0` is not empty (05 R121). -/
theorem does_vqb (t : Ty) (d a b : VReg) :
    Does (.vqb t d a b) fun s x y => y = { advance x with v := y.v } ∧ (x.rk 0 = 0 → y.v = x.v) ∧
      (x.rk 0 ≠ 0 → ∀ r, ∀ l < 32, y.rv r l = if r = d then vqbLanes (s.punit x.uk) t x a b l else x.rv r l) := by
  refine does_regOpS (fun _ => rfl) (fun s x => ?_) fun s x => ?_
  · split <;> rfl
  by_cases h0 : x.rk 0 = 0
  · rw [if_pos h0]
    exact ⟨rfl, fun _ => by simp, fun hn => absurd h0 hn⟩
  rw [if_neg h0]
  refine ⟨by rw [advance_wv], fun e => absurd e h0, fun _ r l hl => ?_⟩
  have hall : (-1 : W32).getLsbD l = true := (BitVec.getLsbD_allOnes (v := 32)).trans (decide_eq_true hl)
  rw [rv_advance, rv_wv _ _ _ _ _ _ hl, hall]
  simp

end Sys2Proof.Vectors

open Sys2Proof Sys2Proof.Machine Sys2Proof.Claims Sys2Proof.Vectors

/-- Settles O14: conversions write lanes whole or as the elements of `packV` and `unpackV`; the block formats write the image's lanes. -/
theorem vectorConversions : Obligations.VectorConversions := by
  unfold Obligations.VectorConversions
  intro p t1 t2 d a b g
  refine ⟨writesV_laneOp (fun _ => rfl) fun _ _ _ _ => rfl,
    fun h _ => writesElems_laneOp _ (fun _ => rfl) (fun x l => packV_halves (frMode x.fr) x a b l h) fun _ _ _ => rfl,
    fun h _ => writesElems_laneOp _ (fun _ => rfl) (fun x l => packV_quarters (frMode x.fr) x a b l h) fun _ _ _ => rfl,
    fun h _ => writesV_laneOp (fun _ => rfl) fun _ x l _ => unpackV_whole (frMode x.fr) x a l g h,
    fun h _ => writesElems_laneOp _ (fun _ => rfl) (fun x l => unpackV_halves (frMode x.fr) x a l g h) fun _ _ _ => rfl,
    writesV_laneOp (fun _ => rfl) fun _ _ _ _ => rfl, does_vqb t1 d a b⟩
end

section
/-! SUPPORT. Cross-lane instructions: shuffles, votes, reductions and scans (05 R123-R128). -/
namespace Sys2Proof.Vectors
open Sys2Proof.Machine Sys2Proof.Claims

/-! ### Shuffles -/

theorem unitW_pos (s : State) (x : Slice) : 0 < unitW s x := by unfold unitW; split <;> decide

/-- A lane's unit begins at or below the lane, by the lane's place in it. -/
theorem unitLo_add_mod (s : State) (x : Slice) (l : Nat) : unitLo s x l + l % unitW s x = gLane x l := by
  rw [unitLo, gLane, Nat.add_assoc, Nat.div_add_mod']

/-- Upward the source stays in the unit while the lane's place in it is not less than the distance. -/
theorem srcUp_unit (b : SReg) (s : State) (x : Slice) (l : Nat) : srcUp true b s x l =
    if (x.rs b).toNat ≤ l % unitW s x then some ((32 * x.idx + l - (x.rs b).toNat : Nat) : Int) else none := by
  have hlo := unitLo_add_mod s x l
  have hlt := Nat.mod_lt l (unitW_pos s x)
  rw [srcUp, within, ← gLane]
  simp only [Bool.not_true, Bool.false_or, Bool.and_eq_true, decide_eq_true_eq]
  by_cases h : (x.rs b).toNat ≤ l % unitW s x
  · rw [if_pos (by omega), if_pos h, Int.ofNat_sub (by omega)]
  · rw [if_neg (by omega), if_neg h]

/-- Downward it stays in the unit while the lane's place and the distance fall short of its lanes. -/
theorem srcDn_unit (b : SReg) (s : State) (x : Slice) (l : Nat) : srcDn true b s x l =
    if l % unitW s x + (x.rs b).toNat < unitW s x then some ((32 * x.idx + l + (x.rs b).toNat : Nat) : Int) else none := by
  have hlo := unitLo_add_mod s x l
  rw [srcDn, within, ← gLane]
  simp only [Bool.not_true, Bool.false_or, Bool.and_eq_true, decide_eq_true_eq]
  by_cases h : l % unitW s x + (x.rs b).toNat < unitW s x
  · rw [if_pos (by omega), if_pos h, Int.natCast_add]
  · rw [if_neg (by omega), if_neg h]

theorem shuffle_id (d : VReg) (kf : KReg) (a : VReg) (p : Pred) (src : State → Slice → Nat → Option Int) (s : State) (x : Slice) :
    (shuffle d kf a p src s x).id = x.id := by
  unfold shuffle
  split
  · rfl
  · dsimp only
    split <;> rfl

@[simp] theorem rk_wv (x : Slice) (d : VReg) (m : W32) (f : Nat → W32) (r : KReg) : (x.wv d m f).rk r = x.rk r := by simp [Slice.rk]
@[simp] theorem rv_wk (x : Slice) (k : KReg) (v : W32) (r : VReg) (l : Nat) : (x.wk k v).rv r l = x.rv r l := by simp [Slice.rv]

/-- What a shuffle with any sources does. -/
theorem shuffles_of_source {i : Instr} {p : Pred} {d : VReg} {kf : KReg} {a : VReg} {src src' : State → Slice → Nat → Option Int}
    (he : ∀ s, exec i s = regOpS i (shuffle d kf a p src) s) (hsrc : ∀ s x l, src s x l = src' s x l) :
    Shuffles i p d kf a src' := by
  obtain rfl : src = src' := funext fun s => funext fun x => funext fun l => hsrc s x l
  refine does_regOpS he (shuffle_id d kf a p src) fun s x => ?_
  extract_lets from'
  by_cases h0 : x.rk 0 = 0
  · rw [shuffle, if_pos h0]
    exact ⟨rfl, fun _ => by simp, fun hn => absurd h0 hn⟩
  by_cases hk : kf = 0
  · have hs : shuffle d kf a p src s x = x.wv d (x.sel p) fun l => (from' l).getD (x.rv a l) := by
      rw [shuffle, if_neg h0, if_pos hk]
    rw [hs]
    refine ⟨by rw [advance_wv], fun e => absurd e h0, fun _ => ⟨fun r l hl => ?_, fun r _ => ?_, fun hn => absurd hk hn⟩⟩
    · rw [rv_advance, rv_wv _ _ _ _ _ _ hl]
    · rw [rk_advance, rk_wv]
  · have hs : shuffle d kf a p src s x = (x.wv d (x.sel p) fun l => (from' l).getD (x.rv a l)).wk kf
        (maskOf fun l => (x.sel p).getLsbD l && (from' l).isNone) := by
      rw [shuffle, if_neg h0, if_neg hk]
    rw [hs]
    refine ⟨by rw [advance_wk, advance_wv], fun e => absurd e h0,
      fun _ => ⟨fun r l hl => ?_, fun r hr => ?_, fun _ l hl => ?_⟩⟩
    · rw [rv_advance, rv_wk, rv_wv _ _ _ _ _ _ hl]
    · rw [rk_advance, rk_wk, if_neg (hr.resolve_right hk), rk_wv]
    · rw [rk_advance, rk_wk, if_pos rfl, if_neg hk, getLsbD_maskOf _ hl]

/-! ### Votes -/

/-- A scalar register after a write to a register other than `s0`. -/
theorem rs_ws_ite (x : Slice) (d r : SReg) (v : W64) : (x.ws d v).rs r = if r = d ∧ d ≠ 0 then v else x.rs r := by
  rw [rs_ws]
  by_cases hr : r = 0
  · rw [if_pos hr, if_neg fun h => h.2 (h.1.symm.trans hr), Slice.rs, if_pos hr]
  · rw [if_neg hr]
    exact ite_congr (propext ⟨fun e => ⟨e, e ▸ hr⟩, And.left⟩) (fun _ => rfl) fun _ => rfl

/-- A vote whose result of the tallies is the stated number writes that number. -/
theorem votes_of_vote {i : Instr} {p : Pred} {sl : Bool} {d : SReg} {a : KReg} {res : Nat → Nat × Nat × Nat → Nat}
    {v : State → Slice → Nat} (he : ∀ s, exec i s = regOpS i (vote p sl d a res) s)
    (hv : ∀ s x, v s x = if sl && cmp16 s x then res 16 (tally p a 0xFFFF [x]) + 2 ^ 32 * res 16 (tally p a 0xFFFF0000 [x])
      else res 32 (tally p a (-1) (voters s x sl))) : Votes i d v := by
  refine does_regOpS he (fun s x => by unfold vote; split <;> simp) fun s x => ?_
  by_cases h0 : x.rk 0 = 0
  · rw [vote, if_pos h0]
    exact ⟨rfl, fun _ => by simp, fun hn => absurd h0 hn⟩
  have hw : vote p sl d a res s x = x.ws d (BitVec.ofNat 64 (v s x)) := by rw [vote, if_neg h0, hv]; rfl
  rw [hw]
  refine ⟨by rw [advance_ws], fun e => absurd e h0, fun _ r => ?_⟩
  rw [rs_advance, rs_ws_ite]

/-- The tallies over whole slices: active lanes, those of them with the bit set, member lanes. -/
theorem tally_all (p : Pred) (a : KReg) (ys : List Slice) :
    tally p a (-1) ys = (lanes ys fun y => y.sel p, lanes ys fun y => y.sel p &&& y.rk a, lanes ys memberLanes) := by
  have hm : ∀ m : W32, m &&& -1 = m := fun m => BitVec.and_allOnes (x := m)
  simp only [tally, hm, lanes, List.map_map, List.sum_eq_foldl, Function.comp_def]

end Sys2Proof.Vectors

open Sys2Proof Sys2Proof.Machine Sys2Proof.Claims Sys2Proof.Vectors

/-- Settles O15: a shuffle is its sources; under `.sl` those of `shf.up` and `shf.dn` fall out of the unit by the lane's place in it. -/
theorem shuffleSources : Obligations.ShuffleSources := by
  unfold Obligations.ShuffleSources
  intro p d kf a b c
  exact ⟨shuffles_of_source (fun _ => rfl) fun _ _ _ => rfl, shuffles_of_source (fun _ => rfl) fun _ _ _ => rfl,
    shuffles_of_source (fun _ => rfl) fun _ _ _ => rfl, shuffles_of_source (fun _ => rfl) fun _ _ _ => rfl,
    shuffles_of_source (fun _ => rfl) fun _ _ _ => rfl, shuffles_of_source (fun _ => rfl) (srcUp_unit c),
    shuffles_of_source (fun _ => rfl) (srcDn_unit c), shuffles_of_source (fun _ => rfl) fun _ _ _ => rfl⟩

/-- Settles O16: the three results read the tallies over whole slices, or over each half under CMP16. -/
theorem voteResults : Obligations.VoteResults := by
  unfold Obligations.VoteResults
  intro p sl d a
  refine ⟨votes_of_vote (fun _ => rfl) fun s x => ?_, votes_of_vote (fun _ => rfl) fun s x => ?_,
    votes_of_vote (fun _ => rfl) fun s x => ?_⟩ <;> rw [tally_all]
  · simp only [anyOf, b2n, bne_iff_ne, ne_eq, ite_not]
  · simp only [allOf, b2n, beq_iff_eq]
  · rfl

/-- Settles O17: `reduce` and `scan` are writes of the selected lanes; a reduction takes its default of 0 after the choice that `.sl` makes. -/
theorem reductionAndScanResults : Obligations.ReductionAndScanResults := by
  unfold Obligations.ReductionAndScanResults
  intro p sl op t d a
  refine ⟨writesV_regOpS (fun _ => rfl) fun _ _ _ _ => ?_, writesV_regOpS (fun _ => rfl) fun _ _ _ _ => rfl⟩
  cases sl <;> rfl
end
